-- ==== Sys2Proof/Word.lean ====
section
/-! DEFINITION. The word types of the device and the agents that issue instructions (R4, R64, R342, R343). -/

namespace Sys2Proof

/-- A 64-bit register or memory word. -/
abbrev Word := BitVec 64

/-- One byte. -/
abbrev Byte := BitVec 8

/-- A 56-bit address: the program counter and global virtual addresses (R64). -/
abbrev Addr := BitVec 56

/-- One 512-bit vector register (R139). -/
abbrev VReg := BitVec 512

/-- An instruction word (R64). -/
abbrev IWord := BitVec 32

/-- What issues instructions: slot `n` of small core `core` (R29), cellarer core `k`, or the translation
service core of cluster `c` (R343).  A small core is numbered 17 × (cluster index) + C.HWID.CORE, the number P of R408. -/
inductive Agent where
  | slot (core n : Nat)
  | cel (k : Nat)
  | tsc (c : Nat)
deriving DecidableEq, Repr

/-- A candidate for admission (R43): a channel, a YIELDED slot, or the head of the ready ring. -/
inductive Cand where
  | chan (c : Nat)
  | slot (n : Nat)
  | ring
deriving DecidableEq, Repr

/-- Where an uncorrectable error lies (R401). -/
inductive ErrWhere where
  | memory (pa : Nat)
  | scratch (core off : Nat)
  | caskLine (cluster tape line : Nat)
  | accum (cluster row col : Nat)
  | core (core : Nat)
  | cluster (cluster : Nat)
  | kernel (partition : Nat)
deriving DecidableEq, Repr

/-- What a boot attempt finds at an Ethernet port (R417): the attempt fails at a step with that reason of BOOTST
(Table 23-2), or the network delivers these image bytes. -/
inductive NetInput where
  | fails (reason : Nat)
  | image (bytes : List Byte)
deriving DecidableEq, Repr

/-- What a boot attempt finds outside the device: one answer for each Ethernet port (R417). -/
structure BootInput where
  port0 : NetInput
  port1 : NetInput
deriving DecidableEq, Repr

end Sys2Proof
end

