-- ==== Sys2Proof/Syntax.lean ====
section
/-! DEFINITION. The instructions and events of the device: one constructor per row of the opcode table.  A row that has an
encoding carries the fields of its word under the names of the table; a row that the table gives no encoding is an event
of the device, and carries what names the event (which core, which access-queue entry, which register value). -/

namespace Sys2Proof

/-- One step of the device.  The docstring of a constructor is the row of the opcode table it stands for. -/
inductive Instr where
  /-- ADD (R111). Adds X[a] and X[b] modulo 2^64 into X[d]. -/
  | add (d a b : BitVec 5) (k m : BitVec 1)
  /-- SUB (R111). Subtracts X[b] from X[a] into X[d]. -/
  | sub (d a b : BitVec 5) (k m : BitVec 1)
  /-- ADD.W (R111). Adds the operands in 32 bits and sign-extends the result. -/
  | addW (d a b : BitVec 5) (k m : BitVec 1)
  /-- SUB.W (R111). Subtracts the operands in 32 bits and sign-extends the result. -/
  | subW (d a b : BitVec 5) (k m : BitVec 1)
  /-- ADDSL1 (R111). Adds X[a] and X[b] shifted left by 1. -/
  | addsl1 (d a b : BitVec 5) (k m : BitVec 1)
  /-- ADDSL2 (R111). Adds X[a] and X[b] shifted left by 2. -/
  | addsl2 (d a b : BitVec 5) (k m : BitVec 1)
  /-- ADDSL3 (R111). Adds X[a] and X[b] shifted left by 3. -/
  | addsl3 (d a b : BitVec 5) (k m : BitVec 1)
  /-- MKCA (R111). Builds a cellar address from a role number and an offset. -/
  | mkca (d a b : BitVec 5) (k m : BitVec 1)
  /-- AND (R111). Bitwise AND of X[a] and X[b]. -/
  | and (d a b : BitVec 5) (k m : BitVec 1)
  /-- OR (R111). Bitwise OR of X[a] and X[b]. -/
  | or (d a b : BitVec 5) (k m : BitVec 1)
  /-- XOR (R111). Bitwise XOR of X[a] and X[b]. -/
  | xor (d a b : BitVec 5) (k m : BitVec 1)
  /-- ANDN (R111). X[a] AND NOT X[b]. -/
  | andn (d a b : BitVec 5) (k m : BitVec 1)
  /-- ORN (R111). X[a] OR NOT X[b]. -/
  | orn (d a b : BitVec 5) (k m : BitVec 1)
  /-- XNOR (R111). NOT (X[a] XOR X[b]). -/
  | xnor (d a b : BitVec 5) (k m : BitVec 1)
  /-- SLL (R111). Logical shift left by X[b] mod 64. -/
  | sll (d a b : BitVec 5) (k m : BitVec 1)
  /-- SRL (R111). Logical shift right by X[b] mod 64. -/
  | srl (d a b : BitVec 5) (k m : BitVec 1)
  /-- SRA (R111). Arithmetic shift right by X[b] mod 64. -/
  | sra (d a b : BitVec 5) (k m : BitVec 1)
  /-- ROR (R111). Rotates X[a] right by X[b] mod 64. -/
  | ror (d a b : BitVec 5) (k m : BitVec 1)
  /-- SLL.W (R111). 32-bit logical shift left, sign-extended. -/
  | sllW (d a b : BitVec 5) (k m : BitVec 1)
  /-- SRL.W (R111). 32-bit logical shift right, sign-extended. -/
  | srlW (d a b : BitVec 5) (k m : BitVec 1)
  /-- SRA.W (R111). 32-bit arithmetic shift right, sign-extended. -/
  | sraW (d a b : BitVec 5) (k m : BitVec 1)
  /-- SEQ (R111). Sets X[d] to 1 when the operands are equal. -/
  | seq (d a b : BitVec 5) (k m : BitVec 1)
  /-- SNE (R111). Sets X[d] to 1 when the operands differ. -/
  | sne (d a b : BitVec 5) (k m : BitVec 1)
  /-- SLT (R111). Signed less-than compare. -/
  | slt (d a b : BitVec 5) (k m : BitVec 1)
  /-- SLTU (R111). Unsigned less-than compare. -/
  | sltu (d a b : BitVec 5) (k m : BitVec 1)
  /-- SGE (R111). Signed greater-or-equal compare. -/
  | sge (d a b : BitVec 5) (k m : BitVec 1)
  /-- SGEU (R111). Unsigned greater-or-equal compare. -/
  | sgeu (d a b : BitVec 5) (k m : BitVec 1)
  /-- MIN (R111). Signed minimum. -/
  | min (d a b : BitVec 5) (k m : BitVec 1)
  /-- MAX (R111). Signed maximum. -/
  | max (d a b : BitVec 5) (k m : BitVec 1)
  /-- MINU (R111). Unsigned minimum. -/
  | minu (d a b : BitVec 5) (k m : BitVec 1)
  /-- MAXU (R111). Unsigned maximum. -/
  | maxu (d a b : BitVec 5) (k m : BitVec 1)
  /-- CMOVZ (R111). Copies X[a] to X[d] when X[b] is zero. -/
  | cmovz (d a b : BitVec 5) (k m : BitVec 1)
  /-- CMOVNZ (R111). Copies X[a] to X[d] when X[b] is not zero. -/
  | cmovnz (d a b : BitVec 5) (k m : BitVec 1)
  /-- MUL (R112). Low 64 bits of the product. -/
  | mul (d a b : BitVec 5) (k m : BitVec 1)
  /-- MULH (R112). High 64 bits of the signed product. -/
  | mulh (d a b : BitVec 5) (k m : BitVec 1)
  /-- MULHU (R112). High 64 bits of the unsigned product. -/
  | mulhu (d a b : BitVec 5) (k m : BitVec 1)
  /-- MUL.W (R112). 32-bit product, sign-extended. -/
  | mulW (d a b : BitVec 5) (k m : BitVec 1)
  /-- DIV (R113). Signed quotient rounded towards zero. -/
  | div (d a b : BitVec 5) (k m : BitVec 1)
  /-- DIVU (R113). Unsigned quotient. -/
  | divu (d a b : BitVec 5) (k m : BitVec 1)
  /-- REM (R113). Signed remainder. -/
  | rem (d a b : BitVec 5) (k m : BitVec 1)
  /-- REMU (R113). Unsigned remainder. -/
  | remu (d a b : BitVec 5) (k m : BitVec 1)
  /-- CLZ (R112). Counts leading zero bits of X[a]. -/
  | clz (d a : BitVec 5) (k : BitVec 1)
  /-- CTZ (R112). Counts trailing zero bits of X[a]. -/
  | ctz (d a : BitVec 5) (k : BitVec 1)
  /-- POPC (R112). Counts one bits of X[a]. -/
  | popc (d a : BitVec 5) (k : BitVec 1)
  /-- BSWAP (R112). Reverses the bytes of X[a]. -/
  | bswap (d a : BitVec 5) (k : BitVec 1)
  /-- BREV (R112). Reverses the bits of X[a]. -/
  | brev (d a : BitVec 5) (k : BitVec 1)
  /-- JR (R118). Register jump to X[a] after two delay slots. -/
  | jr (a : BitVec 5) (k : BitVec 1)
  /-- JLR (R118). Register jump and link, writing A+12 to X[d]. -/
  | jlr (d a : BitVec 5) (k : BitVec 1)
  /-- CRR (R119). Reads a bank-0 control register into X[d]. -/
  | crr (d c : BitVec 5)
  /-- CRW (R119). Writes X[a] to a bank-0 control register. -/
  | crw (a c : BitVec 5) (k : BitVec 1)
  /-- CRRW (R119). Reads then writes a bank-0 control register in one step. -/
  | crrw (d a c : BitVec 5) (k : BitVec 1)
  /-- CRR (R119). Reads a bank-1 control register, supervisor only. -/
  | crrBank1 (d c : BitVec 5)
  /-- CRW (R119). Writes a bank-1 control register, supervisor only. -/
  | crwBank1 (a c : BitVec 5) (k : BitVec 1)
  /-- CRRW (R119). Reads then writes a bank-1 control register, supervisor only. -/
  | crrwBank1 (d a c : BitVec 5) (k : BitVec 1)
  /-- EMPW (R122). Marks a scratchpad word empty. -/
  | empw (a : BitVec 5) (k : BitVec 1)
  /-- FULW (R122). Marks a scratchpad word full. -/
  | fulw (a : BitVec 5) (k : BitVec 1)
  /-- FEW (R122). Reads the full/empty bit of a scratchpad word into X[d]. -/
  | few (d a : BitVec 5) (k : BitVec 1)
  /-- ADDI (R114). Adds a sign-extended immediate. -/
  | addi (d a : BitVec 5) (k : BitVec 1) (i : BitVec 15)
  /-- ANDI (R114). ANDs a zero-extended immediate. -/
  | andi (d a : BitVec 5) (k : BitVec 1) (i : BitVec 15)
  /-- ORI (R114). ORs a zero-extended immediate. -/
  | ori (d a : BitVec 5) (k : BitVec 1) (i : BitVec 15)
  /-- XORI (R114). XORs a zero-extended immediate. -/
  | xori (d a : BitVec 5) (k : BitVec 1) (i : BitVec 15)
  /-- SLTI (R114). Signed compare against an immediate. -/
  | slti (d a : BitVec 5) (k : BitVec 1) (i : BitVec 15)
  /-- SLTIU (R114). Unsigned compare against a sign-extended immediate. -/
  | sltiu (d a : BitVec 5) (k : BitVec 1) (i : BitVec 15)
  /-- SLLI (R114). Logical shift left by an immediate amount. -/
  | slli (d a : BitVec 5) (k : BitVec 1) (s : BitVec 6)
  /-- SRLI (R114). Logical shift right by an immediate amount. -/
  | srli (d a : BitVec 5) (k : BitVec 1) (s : BitVec 6)
  /-- SRAI (R114). Arithmetic shift right by an immediate amount. -/
  | srai (d a : BitVec 5) (k : BitVec 1) (s : BitVec 6)
  /-- RORI (R114). Rotate right by an immediate amount. -/
  | rori (d a : BitVec 5) (k : BitVec 1) (s : BitVec 6)
  /-- CATI (R114). Shifts X[a] left by 15 and ORs in the immediate. -/
  | cati (d a : BitVec 5) (k : BitVec 1) (i : BitVec 15)
  /-- REPF (R82). Runs the following N words for M passes with staggered register fields. -/
  | repf (n m : BitVec 4) (x y z : BitVec 2)
  /-- B (R116). Unconditional branch after two delay slots. -/
  | b (i : BitVec 17)
  /-- B.EQZ (R116). Branches when X[a] is zero. -/
  | bEqz (a : BitVec 5) (i : BitVec 17)
  /-- B.NEZ (R116). Branches when X[a] is not zero. -/
  | bNez (a : BitVec 5) (i : BitVec 17)
  /-- B.LTZ (R116). Branches when X[a] is negative. -/
  | bLtz (a : BitVec 5) (i : BitVec 17)
  /-- B.GEZ (R116). Branches when X[a] is not negative. -/
  | bGez (a : BitVec 5) (i : BitVec 17)
  /-- B.GTZ (R116). Branches when X[a] is positive. -/
  | bGtz (a : BitVec 5) (i : BitVec 17)
  /-- B.LEZ (R116). Branches when X[a] is not positive. -/
  | bLez (a : BitVec 5) (i : BitVec 17)
  /-- B.BC (R116). Branches when bit 0 of X[a] is clear. -/
  | bBc (a : BitVec 5) (i : BitVec 17)
  /-- B.BS (R116). Branches when bit 0 of X[a] is set. -/
  | bBs (a : BitVec 5) (i : BitVec 17)
  /-- B.FULL (R116). Branches when X[a] is full, never blocking. -/
  | bFull (a : BitVec 5) (i : BitVec 17)
  /-- B.EMPTY (R116). Branches when X[a] is empty, never blocking. -/
  | bEmpty (a : BitVec 5) (i : BitVec 17)
  /-- B.PANY (R116). Branches when some bit of P[a] is set. -/
  | bPany (p : BitVec 3) (i : BitVec 17)
  /-- B.PNONE (R116). Branches when every bit of P[a] is clear. -/
  | bPnone (p : BitVec 3) (i : BitVec 17)
  /-- J (R117). Jump by a 26-bit displacement after two delay slots. -/
  | j (i : BitVec 26)
  /-- JL (R117). Jump and link, writing A+12 to X31. -/
  | jl (i : BitVec 26)
  /-- YIELD (R129). Moves the slot to YIELDED to compete in admission rounds. -/
  | yield
  /-- RETIRE (R130). Ends the activation by the steps of R52. -/
  | retire
  /-- DONE (R58). Ends the activation and the role's part in the group. -/
  | done
  /-- URET (R125). Returns from the EMPTY handler through the return record. -/
  | uret
  /-- SEND (R131). Sends a message to a channel of a designated role. -/
  | send (d a b : BitVec 5) (k m : BitVec 1)
  /-- SPAWN (R133). Writes TCB.JOIN and pushes a codelet onto the own ready ring. -/
  | spawn (a b : BitVec 5) (k m : BitVec 1)
  /-- DECR (R134). Posts a decrement to a dependence counter. -/
  | decr (a b : BitVec 5) (k m : BitVec 1)
  /-- HTSET (R135). Writes one field group of a handler-table entry. -/
  | htset (a b : BitVec 5) (k m : BitVec 1)
  /-- HTGET (R135). Reads one word of a handler-table entry. -/
  | htget (d a : BitVec 5) (k : BitVec 1)
  /-- PUMPQ (R136). Empties an answer word and posts a query to the group's pump. -/
  | pumpq (a : BitVec 5) (k : BitVec 1)
  /-- RSLV (R127). Resolves a role designator to a role number. -/
  | rslv (d a : BitVec 5) (k : BitVec 1)
  /-- LDS (R167). Loads from the own scratchpad slice. -/
  | lds (d a : BitVec 5) (k : BitVec 1) (o : BitVec 2) (s : BitVec 3) (i : BitVec 10)
  /-- STS (R167). Stores to the own scratchpad slice. -/
  | sts (d a : BitVec 5) (k : BitVec 1) (o : BitVec 2) (s : BitVec 3) (i : BitVec 10)
  /-- LDC (R167). Loads through a cellar address. -/
  | ldc (d a : BitVec 5) (k : BitVec 1) (o : BitVec 2) (s : BitVec 3) (i : BitVec 10)
  /-- STC (R167). Stores through a cellar address. -/
  | stc (d a : BitVec 5) (k : BitVec 1) (o : BitVec 2) (s : BitVec 3) (i : BitVec 10)
  /-- LD (R167). Loads from global virtual memory. -/
  | ld (d a : BitVec 5) (k : BitVec 1) (o : BitVec 2) (s : BitVec 3) (i : BitVec 10)
  /-- ST (R167). Stores to global virtual memory. -/
  | st (d a : BitVec 5) (k : BitVec 1) (o : BitVec 2) (s : BitVec 3) (i : BitVec 10)
  /-- LDF (R124). Loads a full own-slice word or raises EMPTY. -/
  | ldf (d a : BitVec 5) (k : BitVec 1) (o : BitVec 2) (i : BitVec 10)
  /-- ASWAP (R177). Atomically swaps a word, returning the old value. -/
  | aswap (d a b : BitVec 5) (k m c z : BitVec 1)
  /-- ACAS (R177). Atomic compare-and-swap returning the old value. -/
  | acas (d a b : BitVec 5) (k m c z : BitVec 1)
  /-- AADD (R177). Atomic add returning the old value. -/
  | aadd (d a b : BitVec 5) (k m c z : BitVec 1)
  /-- AAND (R177). Atomic AND returning the old value. -/
  | aand (d a b : BitVec 5) (k m c z : BitVec 1)
  /-- AOR (R177). Atomic OR returning the old value. -/
  | aor (d a b : BitVec 5) (k m c z : BitVec 1)
  /-- AXOR (R177). Atomic XOR returning the old value. -/
  | axor (d a b : BitVec 5) (k m c z : BitVec 1)
  /-- AMIN (R177). Atomic signed minimum returning the old value. -/
  | amin (d a b : BitVec 5) (k m c z : BitVec 1)
  /-- AMAX (R177). Atomic signed maximum returning the old value. -/
  | amax (d a b : BitVec 5) (k m c z : BitVec 1)
  /-- AMINU (R177). Atomic unsigned minimum returning the old value. -/
  | aminu (d a b : BitVec 5) (k m c z : BitVec 1)
  /-- AMAXU (R177). Atomic unsigned maximum returning the old value. -/
  | amaxu (d a b : BitVec 5) (k m c z : BitVec 1)
  /-- AFADD (R177). Atomic floating add returning the old value. -/
  | afadd (d a b : BitVec 5) (k m c z : BitVec 1)
  /-- AMINP (R178). Atomic packed minimum on a 64-bit key and payload word. -/
  | aminp (d a b : BitVec 5) (k m c : BitVec 1)
  /-- REDADD (R177). Posted non-returning add reduction. -/
  | redadd (a b : BitVec 5) (k m c z : BitVec 1)
  /-- REDAND (R177). Posted non-returning AND reduction. -/
  | redand (a b : BitVec 5) (k m c z : BitVec 1)
  /-- REDOR (R177). Posted non-returning OR reduction. -/
  | redor (a b : BitVec 5) (k m c z : BitVec 1)
  /-- REDXOR (R177). Posted non-returning XOR reduction. -/
  | redxor (a b : BitVec 5) (k m c z : BitVec 1)
  /-- REDMIN (R177). Posted signed minimum reduction. -/
  | redmin (a b : BitVec 5) (k m c z : BitVec 1)
  /-- REDMAX (R177). Posted signed maximum reduction. -/
  | redmax (a b : BitVec 5) (k m c z : BitVec 1)
  /-- REDMINU (R177). Posted unsigned minimum reduction. -/
  | redminu (a b : BitVec 5) (k m c z : BitVec 1)
  /-- REDMAXU (R177). Posted unsigned maximum reduction. -/
  | redmaxu (a b : BitVec 5) (k m c z : BitVec 1)
  /-- REDFADD (R177). Posted floating add reduction. -/
  | redfadd (a b : BitVec 5) (k m c z : BitVec 1)
  /-- REDMINP (R178). Posted packed minimum reduction. -/
  | redminp (a b : BitVec 5) (k m c : BitVec 1)
  /-- FENCE (R182). Full fence over the named scope and spaces. -/
  | fence (s : BitVec 5) (x : BitVec 2)
  /-- FENCE.ACQ (R182). Acquire fence over the named scope and spaces. -/
  | fenceAcq (s : BitVec 5) (x : BitVec 2)
  /-- FENCE.REL (R182). Release fence over the named scope and spaces. -/
  | fenceRel (s : BitVec 5) (x : BitVec 2)
  /-- VADD (R144). Element-wise integer add. -/
  | vadd (d a b : BitVec 5) (p : BitVec 3) (e : BitVec 2)
  /-- VSUB (R144). Element-wise integer subtract. -/
  | vsub (d a b : BitVec 5) (p : BitVec 3) (e : BitVec 2)
  /-- VADDS (R144). Element-wise signed saturating add. -/
  | vadds (d a b : BitVec 5) (p : BitVec 3) (e : BitVec 2)
  /-- VADDUS (R144). Element-wise unsigned saturating add. -/
  | vaddus (d a b : BitVec 5) (p : BitVec 3) (e : BitVec 2)
  /-- VSUBS (R144). Element-wise signed saturating subtract. -/
  | vsubs (d a b : BitVec 5) (p : BitVec 3) (e : BitVec 2)
  /-- VSUBUS (R144). Element-wise unsigned saturating subtract. -/
  | vsubus (d a b : BitVec 5) (p : BitVec 3) (e : BitVec 2)
  /-- VMUL (R144). Element-wise integer multiply. -/
  | vmul (d a b : BitVec 5) (p : BitVec 3) (e : BitVec 2)
  /-- VMULH (R144). Element-wise signed high product. -/
  | vmulh (d a b : BitVec 5) (p : BitVec 3) (e : BitVec 2)
  /-- VMULHU (R144). Element-wise unsigned high product. -/
  | vmulhu (d a b : BitVec 5) (p : BitVec 3) (e : BitVec 2)
  /-- VMACC (R144). Element-wise multiply-accumulate into V[d]. -/
  | vmacc (d a b : BitVec 5) (p : BitVec 3) (e : BitVec 2)
  /-- VMIN (R144). Element-wise signed minimum. -/
  | vmin (d a b : BitVec 5) (p : BitVec 3) (e : BitVec 2)
  /-- VMAX (R144). Element-wise signed maximum. -/
  | vmax (d a b : BitVec 5) (p : BitVec 3) (e : BitVec 2)
  /-- VMINU (R144). Element-wise unsigned minimum. -/
  | vminu (d a b : BitVec 5) (p : BitVec 3) (e : BitVec 2)
  /-- VMAXU (R144). Element-wise unsigned maximum. -/
  | vmaxu (d a b : BitVec 5) (p : BitVec 3) (e : BitVec 2)
  /-- VABS (R144). Element-wise absolute value. -/
  | vabs (d a : BitVec 5) (p : BitVec 3) (e : BitVec 2)
  /-- VAND (R144). Element-wise AND. -/
  | vand (d a b : BitVec 5) (p : BitVec 3) (e : BitVec 2)
  /-- VOR (R144). Element-wise OR. -/
  | vor (d a b : BitVec 5) (p : BitVec 3) (e : BitVec 2)
  /-- VXOR (R144). Element-wise XOR. -/
  | vxor (d a b : BitVec 5) (p : BitVec 3) (e : BitVec 2)
  /-- VANDN (R144). Element-wise AND NOT. -/
  | vandn (d a b : BitVec 5) (p : BitVec 3) (e : BitVec 2)
  /-- VSLL (R144). Element-wise logical shift left. -/
  | vsll (d a b : BitVec 5) (p : BitVec 3) (e : BitVec 2)
  /-- VSRL (R144). Element-wise logical shift right. -/
  | vsrl (d a b : BitVec 5) (p : BitVec 3) (e : BitVec 2)
  /-- VSRA (R144). Element-wise arithmetic shift right. -/
  | vsra (d a b : BitVec 5) (p : BitVec 3) (e : BitVec 2)
  /-- VCMPEQ (R145). Element-wise equality compare into a predicate. -/
  | vcmpeq (d : BitVec 3) (a b : BitVec 5) (p : BitVec 3) (e : BitVec 2)
  /-- VCMPNE (R145). Element-wise inequality compare into a predicate. -/
  | vcmpne (d : BitVec 3) (a b : BitVec 5) (p : BitVec 3) (e : BitVec 2)
  /-- VCMPLT (R145). Element-wise signed less-than into a predicate. -/
  | vcmplt (d : BitVec 3) (a b : BitVec 5) (p : BitVec 3) (e : BitVec 2)
  /-- VCMPLTU (R145). Element-wise unsigned less-than into a predicate. -/
  | vcmpltu (d : BitVec 3) (a b : BitVec 5) (p : BitVec 3) (e : BitVec 2)
  /-- VCMPLE (R145). Element-wise signed less-or-equal into a predicate. -/
  | vcmple (d : BitVec 3) (a b : BitVec 5) (p : BitVec 3) (e : BitVec 2)
  /-- VCMPLEU (R145). Element-wise unsigned less-or-equal into a predicate. -/
  | vcmpleu (d : BitVec 3) (a b : BitVec 5) (p : BitVec 3) (e : BitVec 2)
  /-- VFADD (R146). Element-wise floating add rounded in RM. -/
  | vfadd (d a b : BitVec 5) (p : BitVec 3) (e : BitVec 2) (r : BitVec 3)
  /-- VFSUB (R146). Element-wise floating subtract. -/
  | vfsub (d a b : BitVec 5) (p : BitVec 3) (e : BitVec 2) (r : BitVec 3)
  /-- VFMUL (R146). Element-wise floating multiply. -/
  | vfmul (d a b : BitVec 5) (p : BitVec 3) (e : BitVec 2) (r : BitVec 3)
  /-- VFMA (R146). Element-wise fused multiply-add with one rounding. -/
  | vfma (d a b : BitVec 5) (p : BitVec 3) (e : BitVec 2) (r : BitVec 3)
  /-- VFMIN (R146). Element-wise floating minimum. -/
  | vfmin (d a b : BitVec 5) (p : BitVec 3) (e : BitVec 2)
  /-- VFMAX (R146). Element-wise floating maximum. -/
  | vfmax (d a b : BitVec 5) (p : BitVec 3) (e : BitVec 2)
  /-- VFDIV (R146). Element-wise floating divide. -/
  | vfdiv (d a b : BitVec 5) (p : BitVec 3) (e : BitVec 2) (r : BitVec 3)
  /-- VFSQRT (R146). Element-wise floating square root. -/
  | vfsqrt (d a : BitVec 5) (p : BitVec 3) (e : BitVec 2) (r : BitVec 3)
  /-- VCVT (R149). Converts elements between the formats of an FMT pair, wrapping integer narrowing. -/
  | vcvt (d a : BitVec 5) (k m : BitVec 3) (p : BitVec 4)
  /-- VCVT.S (R149). Converts elements, saturating integer narrowing. -/
  | vcvtS (d a : BitVec 5) (k m : BitVec 3) (p : BitVec 4)
  /-- VMOV (R151). Copies active elements. -/
  | vmov (d a : BitVec 5) (p : BitVec 3) (e : BitVec 2)
  /-- VSPLAT (R151). Broadcasts an X register into active elements. -/
  | vsplat (d a : BitVec 5) (p : BitVec 3) (e : BitVec 2)
  /-- VEXT (R151). Extracts one element into an X register. -/
  | vext (d a b : BitVec 5) (e : BitVec 2)
  /-- VINS (R151). Inserts an X register into one element. -/
  | vins (d a b : BitVec 5) (e : BitVec 2)
  /-- VPERMV (R151). Permutes elements by an index vector. -/
  | vpermv (d a b : BitVec 5) (p : BitVec 3) (e : BitVec 2)
  /-- VIOTA (R151). Writes each active element's index. -/
  | viota (d : BitVec 5) (p : BitVec 3) (e : BitVec 2)
  /-- PAND (R151). Predicate AND. -/
  | pand (d a b : BitVec 3)
  /-- POR (R151). Predicate OR. -/
  | por (d a b : BitVec 3)
  /-- PXOR (R151). Predicate XOR. -/
  | pxor (d a b : BitVec 3)
  /-- PANDN (R151). Predicate AND NOT. -/
  | pandn (d a b : BitVec 3)
  /-- PMOVX (R151). Moves an X register into a predicate. -/
  | pmovx (d : BitVec 3) (a : BitVec 5)
  /-- PMOVP (R151). Moves a predicate into an X register. -/
  | pmovp (d : BitVec 5) (a : BitVec 3)
  /-- PCNT (R151). Counts set element bits of a predicate. -/
  | pcnt (d : BitVec 5) (a : BitVec 3) (e : BitVec 2)
  /-- VFCMPEQ (R151). Floating equality compare into a predicate. -/
  | vfcmpeq (d : BitVec 3) (a b : BitVec 5) (p : BitVec 3) (e : BitVec 2)
  /-- VFCMPLT (R151). Floating less-than compare into a predicate. -/
  | vfcmplt (d : BitVec 3) (a b : BitVec 5) (p : BitVec 3) (e : BitVec 2)
  /-- VFCMPLE (R151). Floating less-or-equal compare into a predicate. -/
  | vfcmple (d : BitVec 3) (a b : BitVec 5) (p : BitVec 3) (e : BitVec 2)
  /-- VFCMPUN (R151). Floating unordered compare into a predicate. -/
  | vfcmpun (d : BitVec 3) (a b : BitVec 5) (p : BitVec 3) (e : BitVec 2)
  /-- VREDADD (R152). Signed integer sum of active elements into X[d]. -/
  | vredadd (d a : BitVec 5) (p : BitVec 3) (e : BitVec 2)
  /-- VREDADDU (R152). Unsigned integer sum of active elements. -/
  | vredaddu (d a : BitVec 5) (p : BitVec 3) (e : BitVec 2)
  /-- VREDMIN (R152). Signed minimum of active elements. -/
  | vredmin (d a : BitVec 5) (p : BitVec 3) (e : BitVec 2)
  /-- VREDMAX (R152). Signed maximum of active elements. -/
  | vredmax (d a : BitVec 5) (p : BitVec 3) (e : BitVec 2)
  /-- VREDMINU (R152). Unsigned minimum of active elements. -/
  | vredminu (d a : BitVec 5) (p : BitVec 3) (e : BitVec 2)
  /-- VREDMAXU (R152). Unsigned maximum of active elements. -/
  | vredmaxu (d a : BitVec 5) (p : BitVec 3) (e : BitVec 2)
  /-- VFREDADD (R153). Pairwise floating sum of active elements. -/
  | vfredadd (d a : BitVec 5) (r p : BitVec 3) (e : BitVec 2)
  /-- VFREDMIN (R153). Floating minimum of active elements. -/
  | vfredmin (d a : BitVec 5) (p : BitVec 3) (e : BitVec 2)
  /-- VFREDMAX (R153). Floating maximum of active elements. -/
  | vfredmax (d a : BitVec 5) (p : BitVec 3) (e : BitVec 2)
  /-- FMTW (R151). Writes a format register from X[a]. -/
  | fmtw (d : BitVec 4) (a : BitVec 5)
  /-- FMTR (R151). Reads a format register into X[d]. -/
  | fmtr (d : BitVec 5) (a : BitVec 4)
  /-- VGATHER.S (R156). Gathers elements from own-slice offsets. -/
  | vgatherS (d a b : BitVec 5) (p : BitVec 3) (e : BitVec 2)
  /-- VSCATTER.S (R156). Scatters elements to own-slice offsets. -/
  | vscatterS (d a b : BitVec 5) (p : BitVec 3) (e : BitVec 2)
  /-- VGATHER.C (R156). Gathers elements from cellar addresses. -/
  | vgatherC (d a b : BitVec 5) (p : BitVec 3) (e : BitVec 2)
  /-- VSCATTER.C (R156). Scatters elements to cellar addresses. -/
  | vscatterC (d a b : BitVec 5) (p : BitVec 3) (e : BitVec 2)
  /-- VGATHER.G (R156). Gathers elements from global addresses. -/
  | vgatherG (d a b : BitVec 5) (p : BitVec 3) (e : BitVec 2)
  /-- VSCATTER.G (R156). Scatters elements to global addresses. -/
  | vscatterG (d a b : BitVec 5) (p : BitVec 3) (e : BitVec 2)
  /-- TSHAPE (R163). Configures a tile's shape and save area and takes it zeroed. -/
  | tshape (d : BitVec 3) (a : BitVec 5) (k : BitVec 1)
  /-- TREL (R162). Releases a tile view without a save. -/
  | trel (d : BitVec 3)
  /-- TZERO (R162). Zeroes every element of a tile. -/
  | tzero (d : BitVec 3)
  /-- TWROW (R162). Writes a tile row from a vector register. -/
  | twrow (d : BitVec 3) (a b : BitVec 5) (k m : BitVec 1)
  /-- TRDROW (R162). Reads a tile row into a vector register. -/
  | trdrow (d : BitVec 5) (a : BitVec 3) (b : BitVec 5) (m : BitVec 1)
  /-- TWCOL (R162). Writes a tile column from a vector register. -/
  | twcol (d : BitVec 3) (a b : BitVec 5) (k m : BitVec 1)
  /-- TRDCOL (R162). Reads a tile column into a vector register. -/
  | trdcol (d : BitVec 5) (a : BitVec 3) (b : BitVec 5) (m : BitVec 1)
  /-- TMAC (R164). Adds the product of two tiles into a third by a pairwise tree over K. -/
  | tmac (d a b : BitVec 3)
  /-- TSTAT (R162). Reads a tile's view and shape word. -/
  | tstat (d : BitVec 5) (a : BitVec 3)
  /-- QAND (R200). Writes the canonical intersection of two regions. -/
  | qand (d a b : BitVec 4) (e : BitVec 1)
  /-- QOR (R200). Writes the canonical union of two regions. -/
  | qor (d a b : BitVec 4) (e : BitVec 1)
  /-- QSUB (R200). Writes the canonical difference of two regions. -/
  | qsub (d a b : BitVec 4) (e : BitVec 1)
  /-- QXLT (R201). Translates a region by signed offsets. -/
  | qxlt (d a : BitVec 4) (e : BitVec 1) (n : BitVec 5)
  /-- QDIL (R202). Dilates a region by radii with optional wrap. -/
  | qdil (d a : BitVec 4) (e : BitVec 1) (n : BitVec 5)
  /-- QPROJ (R203). Projects a region onto the masked dimensions. -/
  | qproj (d a : BitVec 4) (e : BitVec 1) (m : BitVec 4)
  /-- QSPLIT (R204). Writes the first piece of at most L cells of a region. -/
  | qsplit (d a : BitVec 4) (e : BitVec 1) (n : BitVec 5)
  /-- QCLIP (R205). Clips a region to its descriptor's extents. -/
  | qclip (d a : BitVec 4)
  /-- QBBOX (R205). Writes a region's bounding box. -/
  | qbbox (d a : BitVec 4)
  /-- QCNT (R206). Counts a region's cells into X[n]. -/
  | qcnt (a : BitVec 4) (n : BitVec 5)
  /-- QCMP (R207). Compares two regions as sets into X[n]. -/
  | qcmp (a b : BitVec 4) (n : BitVec 5)
  /-- QGETB (R208). Reads one box of a region into X registers. -/
  | qgetb (a : BitVec 4) (j : BitVec 3) (n : BitVec 5)
  /-- QMKB (R209). Builds a single dense box from X registers. -/
  | qmkb (d a : BitVec 4) (n : BitVec 5)
  /-- QMKBS (R209). Builds a single strided box from X registers. -/
  | qmkbs (d a : BitVec 4) (n : BitVec 5)
  /-- QRAG (R209). Builds a ragged box on a descriptor with a length table. -/
  | qrag (d a : BitVec 4) (n : BitVec 5)
  /-- QALL (R210). Writes the whole extent of a descriptor as a region. -/
  | qall (d : BitVec 4) (k : BitVec 6)
  /-- QDTBW (R210). Sets the slot's descriptor table base. -/
  | qdtbw (n : BitVec 5)
  /-- QDTBR (R210). Reads the slot's descriptor table base. -/
  | qdtbr (n : BitVec 5)
  /-- QLD (R211). Loads and canonicalises a region image from the own slice. -/
  | qld (d : BitVec 4) (n : BitVec 5)
  /-- QST (R211). Stores a region image to the own slice. -/
  | qst (a : BitVec 4) (n : BitVec 5)
  /-- RACK (R224). Queues a copy of a region's cells into another tensor. -/
  | rack (a b : BitVec 4) (n : BitVec 5) (c t s : BitVec 1)
  /-- RACK.T (R224). Queues a copy with the two innermost coordinates swapped. -/
  | rackT (a b : BitVec 4) (n : BitVec 5) (c t s : BitVec 1)
  /-- RACKM (R225). Queues a multicast copy to masked receivers, consuming credits. -/
  | rackm (a b : BitVec 4) (n : BitVec 5) (c t s : BitVec 1)
  /-- RACKZ.C (R234). Queues a compressing copy. -/
  | rackzC (a b : BitVec 4) (n : BitVec 5)
  /-- RACKZ.D (R234). Queues a decompressing copy. -/
  | rackzD (a b : BitVec 4) (n : BitVec 5) (c : BitVec 1)
  /-- RELSLOT (R226). Posts a return of multicast credits to a sender role. -/
  | relslot (a b : BitVec 5)
  /-- DICTLD (R235). Queues a load of the coder dictionary. -/
  | dictld (a : BitVec 5)
  /-- WAITC (R227). Holds the slot until an own-slice counter reaches a target. -/
  | waitc (a b : BitVec 5)
  /-- WAITR (R228). Holds the slot until no earlier job writes into a region. -/
  | waitr (a : BitVec 4)
  /-- DRAIN.S (R229). Holds until earlier scratchpad-destination jobs complete. -/
  | drainS
  /-- DRAIN.G (R229). Holds until earlier global-destination jobs complete. -/
  | drainG
  /-- DRAIN.M (R229). Holds until every earlier job of the core completes. -/
  | drainM
  /-- RSTAT (R236). Reads the racking engine state word. -/
  | rstatState (d : BitVec 5)
  /-- RSTAT (R236). Reads the dictionary generation. -/
  | rstatGeneration (d : BitVec 5)
  /-- RSTAT (R236). Reads the pending engine fault detail, leaving it pending. -/
  | rstatFault (d : BitVec 5)
  /-- RSTAT (R236). Reads one multicast credit counter. -/
  | rstatCredit (d b : BitVec 5)
  /-- LEASE (R245). Sets lease parameters and requests the press. -/
  | lease (a : BitVec 5)
  /-- UNLEASE (R250). Queues the end of the lease behind the core's press commands. -/
  | unlease
  /-- PLOADW (R255). Queues a weight tile load described by an own-slice block. -/
  | ploadw (a : BitVec 5)
  /-- PSTREAM (R257). Queues a stream of A rows accumulated against the weights. -/
  | pstream (a : BitVec 5)
  /-- PDRAIN (R261). Queues a drain of accumulator rows to channel 0. -/
  | pdrain (a : BitVec 5)
  /-- DLEAVE (R264). Converts the drained row in V24 to V31 and writes it out. -/
  | dleave (n : BitVec 5) (k : BitVec 3) (g : BitVec 1)
  /-- PSTAT (R265). Reads the press state word. -/
  | pstatState (d : BitVec 5)
  /-- PSTAT (R265). Reads the pending press fault, leaving it pending. -/
  | pstatFault (d : BitVec 5)
  /-- PSTAT (R265). Reads the tag, mode and anchor of an accumulator row. -/
  | pstatRow (d b : BitVec 5)
  /-- TRCFG (R294). Checks a Trellis configuration block and queues it. -/
  | trcfg (a : BitVec 5)
  /-- TRBIN (R297). Checks particle records and queues a binning. -/
  | trbin (a : BitVec 4)
  /-- TRUPD (R299). Checks particle records and queues a position update. -/
  | trupd (a : BitVec 4)
  /-- TRPAIRS (R300). Checks and queues a pair stream over the i-cells. -/
  | trpairs (a : BitVec 4) (n : BitVec 5)
  /-- TRSTAT (R305). Reads the Trellis state word. -/
  | trstatState (d : BitVec 5)
  /-- TRSTAT (R305). Reads the pending Trellis fault, leaving it pending. -/
  | trstatFault (d : BitVec 5)
  /-- TRSTAT (R305). Reads the count of one cell. -/
  | trstatCell (d b : BitVec 5)
  /-- TRREL (R295). Queues a release of the Trellis. -/
  | trrel
  /-- CASKREC (R314). Starts recording a cask tape. -/
  | caskrec (a : BitVec 5)
  /-- CASKEND (R318). Seals the recording and writes a status word. -/
  | caskend (d : BitVec 5)
  /-- DECANT (R320). Checks a tape and its guards and replays it through the sequencer. -/
  | decant (d b : BitVec 5)
  /-- CASKDROP (R324). Discards a sealed tape of the issuer's tenant. -/
  | caskdrop (a : BitVec 5)
  /-- CSTAT (R325). Reads the state of a tape. -/
  | cstatTape (d b : BitVec 5)
  /-- CSTAT (R325). Reads the free lines of the cask store. -/
  | cstatFree (d : BitVec 5)
  /-- CSTAT (R325). Reads NEXT of a paused tape. -/
  | cstatNext (d b : BitVec 5)
  /-- SYSCALL (R354). Raises the SYSCALL trap. -/
  | syscall (i : BitVec 20)
  /-- BREAK (R354). Raises the BREAK trap. -/
  | brk (i : BitVec 20)
  /-- RESUME (R355). Resumes a parked slot or job named by a token. -/
  | resume (d a b : BitVec 5)
  /-- ABORT (R355). Aborts a parked activation or terminates a parked job. -/
  | abort (d a : BitVec 5)
  /-- SLOTRD (R356). Reads a register of a parked slot. -/
  | slotrd (d a b : BitVec 5)
  /-- SLOTWR (R356). Writes a register of a parked slot and clears its poison. -/
  | slotwr (s a b : BitVec 5)
  /-- FQPOP (R357). Removes the head record of a cluster's kernel fault queue into memory. -/
  | fqpop (d a b : BitVec 5)
  /-- FQWAIT (R358). Holds a cellarer core until a watched fault queue is non-empty or time runs out. -/
  | fqwait (d a : BitVec 5)
  /-- KRET (R359). Returns from a cellarer trap. -/
  | kret
  /-- HINT (R75). Executes as a no-operation. -/
  | hint (i : BitVec 26)
  /-- ADMISSION (R45). Each cycle the core admits the best unmasked candidate into a slot or resumes a yielded slot. -/
  | admission (core : Nat)
  /-- CANDIDATE_AGING (R44). A candidate waiting past 4,096 cycles has its effective priority raised by one. -/
  | candidateAging (core : Nat) (cand : Cand)
  /-- MAILBOX (R280). A message at the head of a mesh channel is written into its mailbox, or discarded, and PEND set. -/
  | mailbox (msg : Nat)
  /-- DECREMENT_STEP (R39). A decrement is performed indivisibly at the counter's owning core, pushing the codelet at zero. -/
  | decrementStep (a : Agent) (e : Nat)
  /-- READY_RING_PUSH (R40). A push that waited at a full ready ring enters it once an entry frees. -/
  | readyRingPush (core : Nat)
  /-- CREDIT_RETURN (R226). Returned credits are added to MCRED at the sender's core. -/
  | creditReturn (a : Agent) (e : Nat)
  /-- PUMP_ANSWER (R63). The pump answers an arriving query and writes and fills its word. -/
  | pumpAnswer (launch k : Nat)
  /-- LOAD_REPLY_LAND (R169). The data of a remote load, global load or status read lands and fills or poisons the register. -/
  | loadReplyLand (a : Agent) (e : Nat)
  /-- PERFORM_LOAD (R276). A load entry is performed at its home. -/
  | performLoad (a : Agent) (e : Nat)
  /-- PERFORM_STORE (R276). A posted store entry is performed at its home. -/
  | performStore (a : Agent) (e : Nat)
  /-- PERFORM_ATOMIC (R177). A returning atomic reads and writes its word in one step at the home. -/
  | performAtomic (a : Agent) (e : Nat)
  /-- PERFORM_REDUCTION (R177). A posted non-returning reduction is performed at the memory side. -/
  | performReduction (a : Agent) (e : Nat)
  /-- PERFORM_MESSAGE (R280). A message leaves the send queue into its mesh channel. -/
  | performMessage (core : Nat)
  /-- PERFORM_ENGINE_ENTRY (R281). An engine entry is placed in its engine queue. -/
  | performEngineEntry (a : Agent) (e : Nat)
  /-- FENCE_DONE (R279). A fence's earlier entries are all performed and its hold ends. -/
  | fenceDone (a : Agent)
  /-- WAIT_DONE (R282). A WAITC, WAITR or drain condition is met and its hold ends as an acquire. -/
  | waitDone (a : Agent)
  /-- COMMIT (R283). A sealed retire buffer whose effects are translated commits in one step. -/
  | commit (a : Agent)
  /-- SEALED_EFFECT_ENQUEUE (R51). A message or racking command waiting in a sealed buffer enters its queue as room frees. -/
  | sealedEffectEnqueue (core k : Nat)
  /-- ROLE_DONE (R58). Once the other activations of a role that executed DONE have ended, the role is marked done. -/
  | roleDone (core : Nat)
  /-- JOB_START (R218). The head of the racking queue moves into the in-flight set when it has room. -/
  | jobStart (core : Nat)
  /-- GRANULE_BYTE (R281). A byte of a granule is read from its source and written to its destination. -/
  | granuleByte (press : Bool) (unit job g b m : Nat)
  /-- COUNT (R220). A performed granule's count is added at the counter's home. -/
  | count (core job m : Nat)
  /-- DICTLD_PERFORM (R235). With no RACKZ in flight the dictionary is loaded and its generation raised. -/
  | dictldPerform (core : Nat)
  /-- LEASE_ARBITRATION (R247). A free press chooses a requesting core and asks the power governor for leave. -/
  | leaseArbitration (cluster : Nat)
  /-- LEAVE_GIVEN (R247). The governor gives leave and the press grants the lease, resetting foreign rows. -/
  | leaveGiven (cluster : Nat)
  /-- PRESS_COMMAND_START (R254). The holder's queue head reaches the press and its start checks run. -/
  | pressCommandStart (cluster : Nat)
  /-- PRESS_COMMAND_COMPLETE (R251). A press command completes and the lease may end. -/
  | pressCommandComplete (cluster : Nat)
  /-- UNLEASE_ACT (R250). UNLEASE reaches the head of the press-port queue and ends or clears the lease. -/
  | unleaseAct (core : Nat)
  /-- LEASE_CYCLE_LIMIT (R248). The lease reaches 65,536 cycles with no command running and ends. -/
  | leaseCycleLimit (cluster : Nat)
  /-- LEASE_IDLE_END (R248). A lease idle for 1,024 cycles while another core requests ends. -/
  | leaseIdleEnd (cluster : Nat)
  /-- DRAIN_DELIVERY (R262). A drained row takes a drain-buffer entry and sends a drain notice. -/
  | drainDelivery (cluster : Nat)
  /-- TRCFG_PERFORM (R295). The Trellis latches a configuration and claims ownership. -/
  | trcfgPerform (cluster : Nat)
  /-- TRBIN_PERFORM (R298). The Trellis bins particles and writes work records. -/
  | trbinPerform (cluster : Nat)
  /-- TRUPD_PERFORM (R299). The Trellis writes new positions and may mark the bins stale. -/
  | trupdPerform (cluster : Nat)
  /-- TRPAIRS_START (R300). A queued TRPAIRS reaches the engine, is checked and begins its stream. -/
  | trpairsStart (cluster : Nat)
  /-- EMIT (R301). One batch of pairs, or an end message, is sent to a receiver. -/
  | emit (cluster n : Nat)
  /-- TRREL_PERFORM (R295). The Trellis drops its configuration and bins for the owner. -/
  | trrelPerform (cluster : Nat)
  /-- DECANT_RECORD_ISSUE (R322). The sequencer rebuilds, checks and issues one tape record. -/
  | decantRecordIssue (a : Agent)
  /-- FAULT_QUEUE_ENTRY (R352). A fault record enters the TSC view or the kernel part of the fault queue. -/
  | faultQueueEntry (cluster k : Nat)
  /-- MISS_POST (R367). A cluster-TLB miss posts or joins a miss-queue entry. -/
  | missPost (cluster k : Nat)
  /-- MQPOP (R368). Removes the head miss entry from the view. -/
  | mqpop (cluster : Nat)
  /-- MQCNT (R368). Reads the miss counts and clears BAD. -/
  | mqcnt (cluster : Nat)
  /-- FILL (R369). Installs the staged entry and closes the named miss. -/
  | fill (cluster : Nat) (v : Word)
  /-- REFUSE (R369). Closes a miss with a cause, trapping or parking its held accesses. -/
  | refuse (cluster : Nat) (v : Word)
  /-- RECPOP (R368). Removes the head record of the TSC view. -/
  | recpop (cluster : Nat)
  /-- RECFWD (R368). Moves the head record to the kernel part of the fault queue. -/
  | recfwd (cluster : Nat)
  /-- INVGO (R370). Invalidates an ASID range in every TLB and raises its generations. -/
  | invgo (v : Word)
  /-- PZGO (R371). Zeroes a page and clears its poison. -/
  | pzgo (v : Word)
  /-- MGO (R375). Starts a page migration, holding its stores and copying it. -/
  | mgo (v : Word)
  /-- MIGRATION_COPIED (R375). All granules are copied and the page's entries are removed. -/
  | migrationCopied
  /-- MIGRATION_ABANDON (R375). A transfer or uncorrectable error abandons the migration. -/
  | migrationAbandon
  /-- MEND (R375). Ends a migration and releases held accesses and misses. -/
  | mend
  /-- CKRECL (R329). Reclaims the selected cask tape whatever its tenant. -/
  | ckrecl (cluster : Nat)
  /-- DOORBELL (R379). Validates a launch queue and starts fetching records. -/
  | doorbell (q : Nat)
  /-- QRESET (R378). Resets a queue's read index, state and error bit. -/
  | qreset (q : Nat)
  /-- LAUNCH_RECORD_FETCH (R379). The dispatcher fetches one launch record and advances QRIDX. -/
  | launchRecordFetch (q : Nat)
  /-- LAUNCH_START (R383). With cores free the dispatcher binds and starts a group. -/
  | launchStart (q : Nat) (cores : List Nat)
  /-- GROUP_COMPLETION (R384). A complete group's work drains, its resources are freed and its completion word written. -/
  | groupCompletion (launch : Nat)
  /-- SLICE_END (R385). A group's slice runs out and may start the ladder. -/
  | sliceEnd (launch : Nat)
  /-- PREQ (R387). Starts the escalation ladder for a group. -/
  | preq (v : Word)
  /-- TASK_LEVEL_SAVE (R387). Every slot of a group in SOFT is free and the group is saved at task level. -/
  | taskLevelSave (launch : Nat)
  /-- GRACE_TIMER_EXPIRY (R387). TGRACE is reached, the slots are halted and a full save begins. -/
  | graceTimerExpiry (launch : Nat)
  /-- SAVE_COMPLETE (R387). The save is written and the group's cores are freed. -/
  | saveComplete (launch : Nat)
  /-- KILL_TIMER_EXPIRY (R387). TKILL is reached and the group is killed. -/
  | killTimerExpiry (launch : Nat)
  /-- PKILL (R388). Kills a named group at once. -/
  | pkill (v : Word)
  /-- GROUP_RESUME (R393). A saved group is restored on a new binding when cores are free. -/
  | groupResume (launch : Nat) (cores : List Nat)
  /-- CORRECTED_ERROR (R401). A corrected soft error is counted and changes nothing else. -/
  | correctedError (kind : Nat)
  /-- UNCORRECTABLE_ERROR (R401). An uncorrectable error poisons, quarantines or triggers containment. -/
  | uncorrectableError (place : ErrWhere)
  /-- TSCLD (R400). Starts reloading a cluster's TSC firmware. -/
  | tscld (v : Word)
  /-- TSC_LOAD_COMPLETE (R400). The TSC image verifies and the TSC restarts, or the load is refused. -/
  | tscLoadComplete (cluster : Nat)
  /-- TREE_RESULT_DELIVER (R407). Once every operand is taken the tree writes the result to each participant's TEXT. -/
  | treeResultDeliver (op : Nat)
  /-- REDUCTION_PACKET_PERFORM (R411). An endpoint performs a reduction packet at the home, discarding duplicates. -/
  | reductionPacketPerform (k : Nat)
  /-- LINK_FAILURE (R412). A failed Ndeley link makes switches resend unacknowledged packets on another route. -/
  | linkFailure (peer : Nat) (up : Bool)
  /-- POWER_ON (R417). Cellarer core 0 runs the boot ROM, fetches, verifies and applies the boot image. -/
  | powerOn (inp : BootInput)
  /-- BOOT_RETRY (R417). After a failed attempt the back-off expires and a new boot attempt starts. -/
  | bootRetry (inp : BootInput)
  /-- KSTART (R419). Starts verifying a kernel image to release masked cellarer cores. -/
  | kstart (partition : Nat) (v : Word)
  /-- KERNEL_IMAGE_VERIFIED (R419). Verification ends and the masked cores leave reset or KST becomes refused. -/
  | kernelImageVerified (partition : Nat)
  /-- MB_TEMPERATURE (R421). Mailbox command 0x01 returns the coolant inlet temperature. -/
  | mbTemperature
  /-- MB_RAIL (R421). Mailbox command 0x02 returns rail voltage and current. -/
  | mbRail
  /-- MB_POWER_LIMIT (R421). Mailbox command 0x03 sets the module power limit. -/
  | mbPowerLimit (watts : BitVec 32)
  /-- MB_STANDBY (R421). Mailbox command 0x04 makes the board controller remove power. -/
  | mbStandby
  /-- MBST (R421). Reading MBST as done or refused returns it to idle. -/
  | mbst
  /-- FQWAIT_TIMEOUT (R358). FQWAIT's cycle limit expires with no record. -/
  | fqwaitTimeout (k : Nat)
  /-- REGISTER_WRITE (R8). A write to a window or control register with no behaviour of its own, under its access code. -/
  | registerWrite (host : Bool) (address : Nat) (v : Word)
  /-- ILLEGAL_INSTRUCTION (R74). A fetched word that no entry assigns (majors 0x00, 0x0D to 0x0F, 0x3F and the others marked ILLEGAL, or an unallocated function value) raises ILLEGAL with the word in C.FADDR. -/
  | illegalInstruction (w : IWord)
  /-- INSTRUCTION_FETCH_FAULT (R64). An instruction fetch that fails translation, or meets a poisoned line, raises PAGE_FAULT or POISON at the fetch address before any word is decoded. -/
  | instructionFetchFault
  /-- VECTOR_QUEUE_SERVE (R141). When the engine-occupancy count of the previous entry runs out, the vector engine takes the next entry of its two-entry queue, performs it and frees the entry for a stalled slot. -/
  | vectorQueueServe (core : Nat)
  /-- MBCMD_DONE (R421). The board controller finishes a mailbox command, writes MBRSP and moves MBST from busy to done or refused. -/
  | mbcmdDone
deriving DecidableEq, Repr

end Sys2Proof
end

