-- ==== Sys2Proof/WellFormed.lean ====
section
/-! DEFINITION. The values of an instruction's fields that its entry accepts: sizes and orderings of memory accesses
(Tables 3-12 and 3-13), rounding modes and float widths (R146, R151, R153), fence scopes and spaces (R181), and a first
parameter register of zero where a copy takes no parameter (R217).  A word that breaks one of these is no instruction: it
raises ILLEGAL (R66).  Fields that the layout itself holds to zero have no place in `Instr`. -/

namespace Sys2Proof

/-- Whether an instruction's entry accepts its fields.  Every event of the device is accepted. -/
def wellFormed : Instr → Bool
  | .add _ _ _ _ _ => true
  | .sub _ _ _ _ _ => true
  | .addW _ _ _ _ _ => true
  | .subW _ _ _ _ _ => true
  | .addsl1 _ _ _ _ _ => true
  | .addsl2 _ _ _ _ _ => true
  | .addsl3 _ _ _ _ _ => true
  | .mkca _ _ _ _ _ => true
  | .and _ _ _ _ _ => true
  | .or _ _ _ _ _ => true
  | .xor _ _ _ _ _ => true
  | .andn _ _ _ _ _ => true
  | .orn _ _ _ _ _ => true
  | .xnor _ _ _ _ _ => true
  | .sll _ _ _ _ _ => true
  | .srl _ _ _ _ _ => true
  | .sra _ _ _ _ _ => true
  | .ror _ _ _ _ _ => true
  | .sllW _ _ _ _ _ => true
  | .srlW _ _ _ _ _ => true
  | .sraW _ _ _ _ _ => true
  | .seq _ _ _ _ _ => true
  | .sne _ _ _ _ _ => true
  | .slt _ _ _ _ _ => true
  | .sltu _ _ _ _ _ => true
  | .sge _ _ _ _ _ => true
  | .sgeu _ _ _ _ _ => true
  | .min _ _ _ _ _ => true
  | .max _ _ _ _ _ => true
  | .minu _ _ _ _ _ => true
  | .maxu _ _ _ _ _ => true
  | .cmovz _ _ _ _ _ => true
  | .cmovnz _ _ _ _ _ => true
  | .mul _ _ _ _ _ => true
  | .mulh _ _ _ _ _ => true
  | .mulhu _ _ _ _ _ => true
  | .mulW _ _ _ _ _ => true
  | .div _ _ _ _ _ => true
  | .divu _ _ _ _ _ => true
  | .rem _ _ _ _ _ => true
  | .remu _ _ _ _ _ => true
  | .clz _ _ _ => true
  | .ctz _ _ _ => true
  | .popc _ _ _ => true
  | .bswap _ _ _ => true
  | .brev _ _ _ => true
  | .jr _ _ => true
  | .jlr _ _ _ => true
  | .crr _ _ => true
  | .crw _ _ _ => true
  | .crrw _ _ _ _ => true
  | .crrBank1 _ _ => true
  | .crwBank1 _ _ _ => true
  | .crrwBank1 _ _ _ _ => true
  | .empw _ _ => true
  | .fulw _ _ => true
  | .few _ _ _ => true
  | .addi _ _ _ _ => true
  | .andi _ _ _ _ => true
  | .ori _ _ _ _ => true
  | .xori _ _ _ _ => true
  | .slti _ _ _ _ => true
  | .sltiu _ _ _ _ => true
  | .slli _ _ _ _ => true
  | .srli _ _ _ _ => true
  | .srai _ _ _ _ => true
  | .rori _ _ _ _ => true
  | .cati _ _ _ _ => true
  | .repf _ _ _ _ _ => true
  | .b _ => true
  | .bEqz _ _ => true
  | .bNez _ _ => true
  | .bLtz _ _ => true
  | .bGez _ _ => true
  | .bGtz _ _ => true
  | .bLez _ _ => true
  | .bBc _ _ => true
  | .bBs _ _ => true
  | .bFull _ _ => true
  | .bEmpty _ _ => true
  | .bPany _ _ => true
  | .bPnone _ _ => true
  | .j _ => true
  | .jl _ => true
  | .yield => true
  | .retire => true
  | .done => true
  | .uret => true
  | .send _ _ _ _ _ => true
  | .spawn _ _ _ _ => true
  | .decr _ _ _ _ => true
  | .htset _ _ _ _ => true
  | .htget _ _ _ => true
  | .pumpq _ _ => true
  | .rslv _ _ _ => true
  | .lds _ _ _ o s _ => decide (s ≤ 5) && decide (o ≠ 2)
  | .sts _ _ _ o s _ => decide (s ≤ 5) && decide (o ≠ 1)
  | .ldc _ _ _ o s _ => decide (s ≤ 5) && decide (o ≠ 2)
  | .stc _ _ _ o s _ => decide (s ≤ 5) && decide (o ≠ 1)
  | .ld _ _ _ o s _ => decide (s ≤ 5) && decide (o ≠ 2)
  | .st _ _ _ o s _ => decide (s ≤ 5) && decide (o ≠ 1)
  | .ldf _ _ _ o _ => decide (o ≠ 2)
  | .aswap _ _ _ _ _ _ _ => true
  | .acas _ _ _ _ _ _ _ => true
  | .aadd _ _ _ _ _ _ _ => true
  | .aand _ _ _ _ _ _ _ => true
  | .aor _ _ _ _ _ _ _ => true
  | .axor _ _ _ _ _ _ _ => true
  | .amin _ _ _ _ _ _ _ => true
  | .amax _ _ _ _ _ _ _ => true
  | .aminu _ _ _ _ _ _ _ => true
  | .amaxu _ _ _ _ _ _ _ => true
  | .afadd _ _ _ _ _ _ _ => true
  | .aminp _ _ _ _ _ _ => true
  | .redadd _ _ _ _ _ _ => true
  | .redand _ _ _ _ _ _ => true
  | .redor _ _ _ _ _ _ => true
  | .redxor _ _ _ _ _ _ => true
  | .redmin _ _ _ _ _ _ => true
  | .redmax _ _ _ _ _ _ => true
  | .redminu _ _ _ _ _ _ => true
  | .redmaxu _ _ _ _ _ _ => true
  | .redfadd _ _ _ _ _ _ => true
  | .redminp _ _ _ _ _ => true
  | .fence s x => decide (s ≤ 5) && decide (x ≠ 0)
  | .fenceAcq s x => decide (s ≤ 5) && decide (x ≠ 0)
  | .fenceRel s x => decide (s ≤ 5) && decide (x ≠ 0)
  | .vadd _ _ _ _ _ => true
  | .vsub _ _ _ _ _ => true
  | .vadds _ _ _ _ _ => true
  | .vaddus _ _ _ _ _ => true
  | .vsubs _ _ _ _ _ => true
  | .vsubus _ _ _ _ _ => true
  | .vmul _ _ _ _ _ => true
  | .vmulh _ _ _ _ _ => true
  | .vmulhu _ _ _ _ _ => true
  | .vmacc _ _ _ _ _ => true
  | .vmin _ _ _ _ _ => true
  | .vmax _ _ _ _ _ => true
  | .vminu _ _ _ _ _ => true
  | .vmaxu _ _ _ _ _ => true
  | .vabs _ _ _ _ => true
  | .vand _ _ _ _ _ => true
  | .vor _ _ _ _ _ => true
  | .vxor _ _ _ _ _ => true
  | .vandn _ _ _ _ _ => true
  | .vsll _ _ _ _ _ => true
  | .vsrl _ _ _ _ _ => true
  | .vsra _ _ _ _ _ => true
  | .vcmpeq _ _ _ _ _ => true
  | .vcmpne _ _ _ _ _ => true
  | .vcmplt _ _ _ _ _ => true
  | .vcmpltu _ _ _ _ _ => true
  | .vcmple _ _ _ _ _ => true
  | .vcmpleu _ _ _ _ _ => true
  | .vfadd _ _ _ _ e r => decide (e ≠ 0) && decide (r ≤ 4)
  | .vfsub _ _ _ _ e r => decide (e ≠ 0) && decide (r ≤ 4)
  | .vfmul _ _ _ _ e r => decide (e ≠ 0) && decide (r ≤ 4)
  | .vfma _ _ _ _ e r => decide (e ≠ 0) && decide (r ≤ 4)
  | .vfmin _ _ _ _ e => decide (e ≠ 0)
  | .vfmax _ _ _ _ e => decide (e ≠ 0)
  | .vfdiv _ _ _ _ e r => decide (e ≠ 0) && decide (r ≤ 4)
  | .vfsqrt _ _ _ e r => decide (e ≠ 0) && decide (r ≤ 4)
  | .vcvt _ _ _ _ _ => true
  | .vcvtS _ _ _ _ _ => true
  | .vmov _ _ _ _ => true
  | .vsplat _ _ _ _ => true
  | .vext _ _ _ _ => true
  | .vins _ _ _ _ => true
  | .vpermv _ _ _ _ _ => true
  | .viota _ _ _ => true
  | .pand _ _ _ => true
  | .por _ _ _ => true
  | .pxor _ _ _ => true
  | .pandn _ _ _ => true
  | .pmovx _ _ => true
  | .pmovp _ _ => true
  | .pcnt _ _ _ => true
  | .vfcmpeq _ _ _ _ e => decide (e ≠ 0)
  | .vfcmplt _ _ _ _ e => decide (e ≠ 0)
  | .vfcmple _ _ _ _ e => decide (e ≠ 0)
  | .vfcmpun _ _ _ _ e => decide (e ≠ 0)
  | .vredadd _ _ _ _ => true
  | .vredaddu _ _ _ _ => true
  | .vredmin _ _ _ _ => true
  | .vredmax _ _ _ _ => true
  | .vredminu _ _ _ _ => true
  | .vredmaxu _ _ _ _ => true
  | .vfredadd _ _ r _ e => decide (e ≠ 0) && decide (r ≤ 4)
  | .vfredmin _ _ _ e => decide (e ≠ 0)
  | .vfredmax _ _ _ e => decide (e ≠ 0)
  | .fmtw _ _ => true
  | .fmtr _ _ => true
  | .vgatherS _ _ _ _ _ => true
  | .vscatterS _ _ _ _ _ => true
  | .vgatherC _ _ _ _ _ => true
  | .vscatterC _ _ _ _ _ => true
  | .vgatherG _ _ _ _ _ => true
  | .vscatterG _ _ _ _ _ => true
  | .tshape _ _ _ => true
  | .trel _ => true
  | .tzero _ => true
  | .twrow _ _ _ _ _ => true
  | .trdrow _ _ _ _ => true
  | .twcol _ _ _ _ _ => true
  | .trdcol _ _ _ _ => true
  | .tmac _ _ _ => true
  | .tstat _ _ => true
  | .qand _ _ _ _ => true
  | .qor _ _ _ _ => true
  | .qsub _ _ _ _ => true
  | .qxlt _ _ _ _ => true
  | .qdil _ _ _ _ => true
  | .qproj _ _ _ _ => true
  | .qsplit _ _ _ _ => true
  | .qclip _ _ => true
  | .qbbox _ _ => true
  | .qcnt _ _ => true
  | .qcmp _ _ _ => true
  | .qgetb _ _ _ => true
  | .qmkb _ _ _ => true
  | .qmkbs _ _ _ => true
  | .qrag _ _ _ => true
  | .qall _ _ => true
  | .qdtbw _ => true
  | .qdtbr _ => true
  | .qld _ _ => true
  | .qst _ _ => true
  | .rack _ _ n c t s => decide (c = 1) || decide (t = 1) || decide (s = 1) || decide (n = 0)
  | .rackT _ _ n c t s => decide (c = 1) || decide (t = 1) || decide (s = 1) || decide (n = 0)
  | .rackm _ _ _ _ _ _ => true
  | .rackzC _ _ _ => true
  | .rackzD _ _ n c => decide (c = 1) || decide (n = 0)
  | .relslot _ _ => true
  | .dictld _ => true
  | .waitc _ _ => true
  | .waitr _ => true
  | .drainS => true
  | .drainG => true
  | .drainM => true
  | .rstatState _ => true
  | .rstatGeneration _ => true
  | .rstatFault _ => true
  | .rstatCredit _ _ => true
  | .lease _ => true
  | .unlease => true
  | .ploadw _ => true
  | .pstream _ => true
  | .pdrain _ => true
  | .dleave _ _ _ => true
  | .pstatState _ => true
  | .pstatFault _ => true
  | .pstatRow _ _ => true
  | .trcfg _ => true
  | .trbin _ => true
  | .trupd _ => true
  | .trpairs _ _ => true
  | .trstatState _ => true
  | .trstatFault _ => true
  | .trstatCell _ _ => true
  | .trrel => true
  | .caskrec _ => true
  | .caskend _ => true
  | .decant _ _ => true
  | .caskdrop _ => true
  | .cstatTape _ _ => true
  | .cstatFree _ => true
  | .cstatNext _ _ => true
  | .syscall _ => true
  | .brk _ => true
  | .resume _ _ _ => true
  | .abort _ _ => true
  | .slotrd _ _ _ => true
  | .slotwr _ _ _ => true
  | .fqpop _ _ _ => true
  | .fqwait _ _ => true
  | .kret => true
  | .hint _ => true
  | .admission _ => true
  | .candidateAging _ _ => true
  | .mailbox _ => true
  | .decrementStep _ _ => true
  | .readyRingPush _ => true
  | .creditReturn _ _ => true
  | .pumpAnswer _ _ => true
  | .loadReplyLand _ _ => true
  | .performLoad _ _ => true
  | .performStore _ _ => true
  | .performAtomic _ _ => true
  | .performReduction _ _ => true
  | .performMessage _ => true
  | .performEngineEntry _ _ => true
  | .fenceDone _ => true
  | .waitDone _ => true
  | .commit _ => true
  | .sealedEffectEnqueue _ _ => true
  | .roleDone _ => true
  | .jobStart _ => true
  | .granuleByte _ _ _ _ _ _ => true
  | .count _ _ _ => true
  | .dictldPerform _ => true
  | .leaseArbitration _ => true
  | .leaveGiven _ => true
  | .pressCommandStart _ => true
  | .pressCommandComplete _ => true
  | .unleaseAct _ => true
  | .leaseCycleLimit _ => true
  | .leaseIdleEnd _ => true
  | .drainDelivery _ => true
  | .trcfgPerform _ => true
  | .trbinPerform _ => true
  | .trupdPerform _ => true
  | .trpairsStart _ => true
  | .emit _ _ => true
  | .trrelPerform _ => true
  | .decantRecordIssue _ => true
  | .faultQueueEntry _ _ => true
  | .missPost _ _ => true
  | .mqpop _ => true
  | .mqcnt _ => true
  | .fill _ _ => true
  | .refuse _ _ => true
  | .recpop _ => true
  | .recfwd _ => true
  | .invgo _ => true
  | .pzgo _ => true
  | .mgo _ => true
  | .migrationCopied => true
  | .migrationAbandon => true
  | .mend => true
  | .ckrecl _ => true
  | .doorbell _ => true
  | .qreset _ => true
  | .launchRecordFetch _ => true
  | .launchStart _ _ => true
  | .groupCompletion _ => true
  | .sliceEnd _ => true
  | .preq _ => true
  | .taskLevelSave _ => true
  | .graceTimerExpiry _ => true
  | .saveComplete _ => true
  | .killTimerExpiry _ => true
  | .pkill _ => true
  | .groupResume _ _ => true
  | .correctedError _ => true
  | .uncorrectableError _ => true
  | .tscld _ => true
  | .tscLoadComplete _ => true
  | .treeResultDeliver _ => true
  | .reductionPacketPerform _ => true
  | .linkFailure _ _ => true
  | .powerOn _ => true
  | .bootRetry _ => true
  | .kstart _ _ => true
  | .kernelImageVerified _ => true
  | .mbTemperature => true
  | .mbRail => true
  | .mbPowerLimit _ => true
  | .mbStandby => true
  | .mbst => true
  | .fqwaitTimeout _ => true
  | .registerWrite _ _ _ => true
  | .illegalInstruction _ => true
  | .instructionFetchFault => true
  | .vectorQueueServe _ => true
  | .mbcmdDone => true

end Sys2Proof
end

