-- ==== Sys2Proof/Decode.lean ====
section
/-! DEFINITION. Decoding of instruction words (R64 to R76), total on every word, and after it the encoder, written from the
same layouts.  What builds an `Instr` is marked noncomputable because Lean's runtime holds at most 245 constructors
with fields in one type; the kernel evaluates it like any other definition. -/

namespace Sys2Proof

/-- The `n` bits of a word from bit `lo` upwards (R4). -/
def fld (w : IWord) (lo n : Nat) : BitVec n :=
  w.extractLsb' lo n

/-- Major 0x01 (Table 5-4). -/
def decodeOPA (w : IWord) : Option Instr :=
  match (fld w 0 9).toNat with
  | 0x0 => some (.add (fld w 21 5) (fld w 16 5) (fld w 11 5) (fld w 10 1) (fld w 9 1))
  | 0x1 => some (.sub (fld w 21 5) (fld w 16 5) (fld w 11 5) (fld w 10 1) (fld w 9 1))
  | 0x2 => some (.addW (fld w 21 5) (fld w 16 5) (fld w 11 5) (fld w 10 1) (fld w 9 1))
  | 0x3 => some (.subW (fld w 21 5) (fld w 16 5) (fld w 11 5) (fld w 10 1) (fld w 9 1))
  | 0x4 => some (.addsl1 (fld w 21 5) (fld w 16 5) (fld w 11 5) (fld w 10 1) (fld w 9 1))
  | 0x5 => some (.addsl2 (fld w 21 5) (fld w 16 5) (fld w 11 5) (fld w 10 1) (fld w 9 1))
  | 0x6 => some (.addsl3 (fld w 21 5) (fld w 16 5) (fld w 11 5) (fld w 10 1) (fld w 9 1))
  | 0x7 => some (.mkca (fld w 21 5) (fld w 16 5) (fld w 11 5) (fld w 10 1) (fld w 9 1))
  | 0x8 => some (.and (fld w 21 5) (fld w 16 5) (fld w 11 5) (fld w 10 1) (fld w 9 1))
  | 0x9 => some (.or (fld w 21 5) (fld w 16 5) (fld w 11 5) (fld w 10 1) (fld w 9 1))
  | 0xA => some (.xor (fld w 21 5) (fld w 16 5) (fld w 11 5) (fld w 10 1) (fld w 9 1))
  | 0xB => some (.andn (fld w 21 5) (fld w 16 5) (fld w 11 5) (fld w 10 1) (fld w 9 1))
  | 0xC => some (.orn (fld w 21 5) (fld w 16 5) (fld w 11 5) (fld w 10 1) (fld w 9 1))
  | 0xD => some (.xnor (fld w 21 5) (fld w 16 5) (fld w 11 5) (fld w 10 1) (fld w 9 1))
  | 0x10 => some (.sll (fld w 21 5) (fld w 16 5) (fld w 11 5) (fld w 10 1) (fld w 9 1))
  | 0x11 => some (.srl (fld w 21 5) (fld w 16 5) (fld w 11 5) (fld w 10 1) (fld w 9 1))
  | 0x12 => some (.sra (fld w 21 5) (fld w 16 5) (fld w 11 5) (fld w 10 1) (fld w 9 1))
  | 0x13 => some (.ror (fld w 21 5) (fld w 16 5) (fld w 11 5) (fld w 10 1) (fld w 9 1))
  | 0x14 => some (.sllW (fld w 21 5) (fld w 16 5) (fld w 11 5) (fld w 10 1) (fld w 9 1))
  | 0x15 => some (.srlW (fld w 21 5) (fld w 16 5) (fld w 11 5) (fld w 10 1) (fld w 9 1))
  | 0x16 => some (.sraW (fld w 21 5) (fld w 16 5) (fld w 11 5) (fld w 10 1) (fld w 9 1))
  | 0x18 => some (.seq (fld w 21 5) (fld w 16 5) (fld w 11 5) (fld w 10 1) (fld w 9 1))
  | 0x19 => some (.sne (fld w 21 5) (fld w 16 5) (fld w 11 5) (fld w 10 1) (fld w 9 1))
  | 0x1A => some (.slt (fld w 21 5) (fld w 16 5) (fld w 11 5) (fld w 10 1) (fld w 9 1))
  | 0x1B => some (.sltu (fld w 21 5) (fld w 16 5) (fld w 11 5) (fld w 10 1) (fld w 9 1))
  | 0x1C => some (.sge (fld w 21 5) (fld w 16 5) (fld w 11 5) (fld w 10 1) (fld w 9 1))
  | 0x1D => some (.sgeu (fld w 21 5) (fld w 16 5) (fld w 11 5) (fld w 10 1) (fld w 9 1))
  | 0x20 => some (.min (fld w 21 5) (fld w 16 5) (fld w 11 5) (fld w 10 1) (fld w 9 1))
  | 0x21 => some (.max (fld w 21 5) (fld w 16 5) (fld w 11 5) (fld w 10 1) (fld w 9 1))
  | 0x22 => some (.minu (fld w 21 5) (fld w 16 5) (fld w 11 5) (fld w 10 1) (fld w 9 1))
  | 0x23 => some (.maxu (fld w 21 5) (fld w 16 5) (fld w 11 5) (fld w 10 1) (fld w 9 1))
  | 0x28 => some (.cmovz (fld w 21 5) (fld w 16 5) (fld w 11 5) (fld w 10 1) (fld w 9 1))
  | 0x29 => some (.cmovnz (fld w 21 5) (fld w 16 5) (fld w 11 5) (fld w 10 1) (fld w 9 1))
  | _ => none

/-- Major 0x02 (Table 5-5). -/
def decodeOPM (w : IWord) : Option Instr :=
  match (fld w 0 9).toNat with
  | 0x0 => some (.mul (fld w 21 5) (fld w 16 5) (fld w 11 5) (fld w 10 1) (fld w 9 1))
  | 0x1 => some (.mulh (fld w 21 5) (fld w 16 5) (fld w 11 5) (fld w 10 1) (fld w 9 1))
  | 0x2 => some (.mulhu (fld w 21 5) (fld w 16 5) (fld w 11 5) (fld w 10 1) (fld w 9 1))
  | 0x3 => some (.mulW (fld w 21 5) (fld w 16 5) (fld w 11 5) (fld w 10 1) (fld w 9 1))
  | 0x8 => some (.div (fld w 21 5) (fld w 16 5) (fld w 11 5) (fld w 10 1) (fld w 9 1))
  | 0x9 => some (.divu (fld w 21 5) (fld w 16 5) (fld w 11 5) (fld w 10 1) (fld w 9 1))
  | 0xA => some (.rem (fld w 21 5) (fld w 16 5) (fld w 11 5) (fld w 10 1) (fld w 9 1))
  | 0xB => some (.remu (fld w 21 5) (fld w 16 5) (fld w 11 5) (fld w 10 1) (fld w 9 1))
  | 0x10 => if fld w 9 1 = 0 ∧ fld w 11 5 = 0 then some (.clz (fld w 21 5) (fld w 16 5) (fld w 10 1)) else none
  | 0x11 => if fld w 9 1 = 0 ∧ fld w 11 5 = 0 then some (.ctz (fld w 21 5) (fld w 16 5) (fld w 10 1)) else none
  | 0x12 => if fld w 9 1 = 0 ∧ fld w 11 5 = 0 then some (.popc (fld w 21 5) (fld w 16 5) (fld w 10 1)) else none
  | 0x13 => if fld w 9 1 = 0 ∧ fld w 11 5 = 0 then some (.bswap (fld w 21 5) (fld w 16 5) (fld w 10 1)) else none
  | 0x14 => if fld w 9 1 = 0 ∧ fld w 11 5 = 0 then some (.brev (fld w 21 5) (fld w 16 5) (fld w 10 1)) else none
  | _ => none

/-- Major 0x03 (R118, R119, R122). -/
def decodeOPC (w : IWord) : Option Instr :=
  match (fld w 0 9).toNat with
  | 0x0 => if fld w 9 1 = 0 ∧ fld w 11 5 = 0 ∧ fld w 21 5 = 0 then some (.jr (fld w 16 5) (fld w 10 1)) else none
  | 0x1 => if fld w 9 1 = 0 ∧ fld w 11 5 = 0 then some (.jlr (fld w 21 5) (fld w 16 5) (fld w 10 1)) else none
  | 0x10 => if fld w 9 2 = 0 ∧ fld w 16 5 = 0 then some (.crr (fld w 21 5) (fld w 11 5)) else none
  | 0x11 => if fld w 9 1 = 0 ∧ fld w 21 5 = 0 then some (.crw (fld w 16 5) (fld w 11 5) (fld w 10 1)) else none
  | 0x12 => if fld w 9 1 = 0 then some (.crrw (fld w 21 5) (fld w 16 5) (fld w 11 5) (fld w 10 1)) else none
  | 0x14 => if fld w 9 2 = 0 ∧ fld w 16 5 = 0 then some (.crrBank1 (fld w 21 5) (fld w 11 5)) else none
  | 0x15 => if fld w 9 1 = 0 ∧ fld w 21 5 = 0 then some (.crwBank1 (fld w 16 5) (fld w 11 5) (fld w 10 1)) else none
  | 0x16 => if fld w 9 1 = 0 then some (.crrwBank1 (fld w 21 5) (fld w 16 5) (fld w 11 5) (fld w 10 1)) else none
  | 0x20 => if fld w 9 1 = 0 ∧ fld w 11 5 = 0 ∧ fld w 21 5 = 0 then some (.empw (fld w 16 5) (fld w 10 1)) else none
  | 0x21 => if fld w 9 1 = 0 ∧ fld w 11 5 = 0 ∧ fld w 21 5 = 0 then some (.fulw (fld w 16 5) (fld w 10 1)) else none
  | 0x22 => if fld w 9 1 = 0 ∧ fld w 11 5 = 0 then some (.few (fld w 21 5) (fld w 16 5) (fld w 10 1)) else none
  | _ => none

/-- Major 0x0A (Table 3-16). -/
def decodeShift (w : IWord) : Option Instr :=
  match (fld w 12 3).toNat with
  | 0x0 => if fld w 6 6 = 0 then some (.slli (fld w 21 5) (fld w 16 5) (fld w 15 1) (fld w 0 6)) else none
  | 0x1 => if fld w 6 6 = 0 then some (.srli (fld w 21 5) (fld w 16 5) (fld w 15 1) (fld w 0 6)) else none
  | 0x2 => if fld w 6 6 = 0 then some (.srai (fld w 21 5) (fld w 16 5) (fld w 15 1) (fld w 0 6)) else none
  | 0x3 => if fld w 6 6 = 0 then some (.rori (fld w 21 5) (fld w 16 5) (fld w 15 1) (fld w 0 6)) else none
  | _ => none

/-- Major 0x10 (Table 3-18). -/
def decodeB (w : IWord) : Option Instr :=
  match (fld w 22 4).toNat with
  | 0x0 => if fld w 17 5 = 0 then some (.b (fld w 0 17)) else none
  | 0x1 => some (.bEqz (fld w 17 5) (fld w 0 17))
  | 0x2 => some (.bNez (fld w 17 5) (fld w 0 17))
  | 0x3 => some (.bLtz (fld w 17 5) (fld w 0 17))
  | 0x4 => some (.bGez (fld w 17 5) (fld w 0 17))
  | 0x5 => some (.bGtz (fld w 17 5) (fld w 0 17))
  | 0x6 => some (.bLez (fld w 17 5) (fld w 0 17))
  | 0x7 => some (.bBc (fld w 17 5) (fld w 0 17))
  | 0x8 => some (.bBs (fld w 17 5) (fld w 0 17))
  | 0x9 => some (.bFull (fld w 17 5) (fld w 0 17))
  | 0xA => some (.bEmpty (fld w 17 5) (fld w 0 17))
  | 0xB => if fld w 20 2 = 0 then some (.bPany (fld w 17 3) (fld w 0 17)) else none
  | 0xC => if fld w 20 2 = 0 then some (.bPnone (fld w 17 3) (fld w 0 17)) else none
  | _ => none

/-- Major 0x14 (Table 5-14). -/
def decodeTASK (w : IWord) : Option Instr :=
  match (fld w 0 9).toNat with
  | 0x0 => if fld w 9 17 = 0 then some (.yield) else none
  | 0x1 => if fld w 9 17 = 0 then some (.retire) else none
  | 0x2 => if fld w 9 17 = 0 then some (.done) else none
  | 0x3 => if fld w 9 17 = 0 then some (.uret) else none
  | 0x4 => some (.send (fld w 21 5) (fld w 16 5) (fld w 11 5) (fld w 10 1) (fld w 9 1))
  | 0x5 => if fld w 21 5 = 0 then some (.spawn (fld w 16 5) (fld w 11 5) (fld w 10 1) (fld w 9 1)) else none
  | 0x6 => if fld w 21 5 = 0 then some (.decr (fld w 16 5) (fld w 11 5) (fld w 10 1) (fld w 9 1)) else none
  | 0x7 => if fld w 21 5 = 0 then some (.htset (fld w 16 5) (fld w 11 5) (fld w 10 1) (fld w 9 1)) else none
  | 0x8 => if fld w 9 1 = 0 ∧ fld w 11 5 = 0 then some (.htget (fld w 21 5) (fld w 16 5) (fld w 10 1)) else none
  | 0x9 => if fld w 9 1 = 0 ∧ fld w 11 5 = 0 ∧ fld w 21 5 = 0 then some (.pumpq (fld w 16 5) (fld w 10 1)) else none
  | 0xA => if fld w 9 1 = 0 ∧ fld w 11 5 = 0 then some (.rslv (fld w 21 5) (fld w 16 5) (fld w 10 1)) else none
  | _ => none

/-- Major 0x1F (Table 7-5, R181). -/
def decodeATOM (w : IWord) : Option Instr :=
  match (fld w 6 3).toNat * 16 + (fld w 0 4).toNat with
  | 0x0 => some (.aswap (fld w 21 5) (fld w 16 5) (fld w 11 5) (fld w 10 1) (fld w 9 1) (fld w 5 1) (fld w 4 1))
  | 0x1 => some (.acas (fld w 21 5) (fld w 16 5) (fld w 11 5) (fld w 10 1) (fld w 9 1) (fld w 5 1) (fld w 4 1))
  | 0x2 => some (.aadd (fld w 21 5) (fld w 16 5) (fld w 11 5) (fld w 10 1) (fld w 9 1) (fld w 5 1) (fld w 4 1))
  | 0x3 => some (.aand (fld w 21 5) (fld w 16 5) (fld w 11 5) (fld w 10 1) (fld w 9 1) (fld w 5 1) (fld w 4 1))
  | 0x4 => some (.aor (fld w 21 5) (fld w 16 5) (fld w 11 5) (fld w 10 1) (fld w 9 1) (fld w 5 1) (fld w 4 1))
  | 0x5 => some (.axor (fld w 21 5) (fld w 16 5) (fld w 11 5) (fld w 10 1) (fld w 9 1) (fld w 5 1) (fld w 4 1))
  | 0x6 => some (.amin (fld w 21 5) (fld w 16 5) (fld w 11 5) (fld w 10 1) (fld w 9 1) (fld w 5 1) (fld w 4 1))
  | 0x7 => some (.amax (fld w 21 5) (fld w 16 5) (fld w 11 5) (fld w 10 1) (fld w 9 1) (fld w 5 1) (fld w 4 1))
  | 0x8 => some (.aminu (fld w 21 5) (fld w 16 5) (fld w 11 5) (fld w 10 1) (fld w 9 1) (fld w 5 1) (fld w 4 1))
  | 0x9 => some (.amaxu (fld w 21 5) (fld w 16 5) (fld w 11 5) (fld w 10 1) (fld w 9 1) (fld w 5 1) (fld w 4 1))
  | 0xA => some (.afadd (fld w 21 5) (fld w 16 5) (fld w 11 5) (fld w 10 1) (fld w 9 1) (fld w 5 1) (fld w 4 1))
  | 0xB => if fld w 4 1 = 1 then some (.aminp (fld w 21 5) (fld w 16 5) (fld w 11 5) (fld w 10 1) (fld w 9 1) (fld w 5 1)) else none
  | 0x12 => if fld w 21 5 = 0 then some (.redadd (fld w 16 5) (fld w 11 5) (fld w 10 1) (fld w 9 1) (fld w 5 1) (fld w 4 1)) else none
  | 0x13 => if fld w 21 5 = 0 then some (.redand (fld w 16 5) (fld w 11 5) (fld w 10 1) (fld w 9 1) (fld w 5 1) (fld w 4 1)) else none
  | 0x14 => if fld w 21 5 = 0 then some (.redor (fld w 16 5) (fld w 11 5) (fld w 10 1) (fld w 9 1) (fld w 5 1) (fld w 4 1)) else none
  | 0x15 => if fld w 21 5 = 0 then some (.redxor (fld w 16 5) (fld w 11 5) (fld w 10 1) (fld w 9 1) (fld w 5 1) (fld w 4 1)) else none
  | 0x16 => if fld w 21 5 = 0 then some (.redmin (fld w 16 5) (fld w 11 5) (fld w 10 1) (fld w 9 1) (fld w 5 1) (fld w 4 1)) else none
  | 0x17 => if fld w 21 5 = 0 then some (.redmax (fld w 16 5) (fld w 11 5) (fld w 10 1) (fld w 9 1) (fld w 5 1) (fld w 4 1)) else none
  | 0x18 => if fld w 21 5 = 0 then some (.redminu (fld w 16 5) (fld w 11 5) (fld w 10 1) (fld w 9 1) (fld w 5 1) (fld w 4 1)) else none
  | 0x19 => if fld w 21 5 = 0 then some (.redmaxu (fld w 16 5) (fld w 11 5) (fld w 10 1) (fld w 9 1) (fld w 5 1) (fld w 4 1)) else none
  | 0x1A => if fld w 21 5 = 0 then some (.redfadd (fld w 16 5) (fld w 11 5) (fld w 10 1) (fld w 9 1) (fld w 5 1) (fld w 4 1)) else none
  | 0x1B => if fld w 4 1 = 1 ∧ fld w 21 5 = 0 then some (.redminp (fld w 16 5) (fld w 11 5) (fld w 10 1) (fld w 9 1) (fld w 5 1)) else none
  | 0x20 => if fld w 4 2 = 0 ∧ fld w 9 7 = 0 ∧ fld w 18 3 = 0 then some (.fence (fld w 21 5) (fld w 16 2)) else none
  | 0x21 => if fld w 4 2 = 0 ∧ fld w 9 7 = 0 ∧ fld w 18 3 = 0 then some (.fenceAcq (fld w 21 5) (fld w 16 2)) else none
  | 0x22 => if fld w 4 2 = 0 ∧ fld w 9 7 = 0 ∧ fld w 18 3 = 0 then some (.fenceRel (fld w 21 5) (fld w 16 2)) else none
  | _ => none

/-- Major 0x20 (Table 6-3). -/
def decodeVOP (w : IWord) : Option Instr :=
  match (fld w 0 6).toNat with
  | 0x0 => some (.vadd (fld w 21 5) (fld w 16 5) (fld w 11 5) (fld w 8 3) (fld w 6 2))
  | 0x1 => some (.vsub (fld w 21 5) (fld w 16 5) (fld w 11 5) (fld w 8 3) (fld w 6 2))
  | 0x2 => some (.vadds (fld w 21 5) (fld w 16 5) (fld w 11 5) (fld w 8 3) (fld w 6 2))
  | 0x3 => some (.vaddus (fld w 21 5) (fld w 16 5) (fld w 11 5) (fld w 8 3) (fld w 6 2))
  | 0x4 => some (.vsubs (fld w 21 5) (fld w 16 5) (fld w 11 5) (fld w 8 3) (fld w 6 2))
  | 0x5 => some (.vsubus (fld w 21 5) (fld w 16 5) (fld w 11 5) (fld w 8 3) (fld w 6 2))
  | 0x6 => some (.vmul (fld w 21 5) (fld w 16 5) (fld w 11 5) (fld w 8 3) (fld w 6 2))
  | 0x7 => some (.vmulh (fld w 21 5) (fld w 16 5) (fld w 11 5) (fld w 8 3) (fld w 6 2))
  | 0x8 => some (.vmulhu (fld w 21 5) (fld w 16 5) (fld w 11 5) (fld w 8 3) (fld w 6 2))
  | 0x9 => some (.vmacc (fld w 21 5) (fld w 16 5) (fld w 11 5) (fld w 8 3) (fld w 6 2))
  | 0xA => some (.vmin (fld w 21 5) (fld w 16 5) (fld w 11 5) (fld w 8 3) (fld w 6 2))
  | 0xB => some (.vmax (fld w 21 5) (fld w 16 5) (fld w 11 5) (fld w 8 3) (fld w 6 2))
  | 0xC => some (.vminu (fld w 21 5) (fld w 16 5) (fld w 11 5) (fld w 8 3) (fld w 6 2))
  | 0xD => some (.vmaxu (fld w 21 5) (fld w 16 5) (fld w 11 5) (fld w 8 3) (fld w 6 2))
  | 0xE => if fld w 11 5 = 0 then some (.vabs (fld w 21 5) (fld w 16 5) (fld w 8 3) (fld w 6 2)) else none
  | 0x10 => some (.vand (fld w 21 5) (fld w 16 5) (fld w 11 5) (fld w 8 3) (fld w 6 2))
  | 0x11 => some (.vor (fld w 21 5) (fld w 16 5) (fld w 11 5) (fld w 8 3) (fld w 6 2))
  | 0x12 => some (.vxor (fld w 21 5) (fld w 16 5) (fld w 11 5) (fld w 8 3) (fld w 6 2))
  | 0x13 => some (.vandn (fld w 21 5) (fld w 16 5) (fld w 11 5) (fld w 8 3) (fld w 6 2))
  | 0x18 => some (.vsll (fld w 21 5) (fld w 16 5) (fld w 11 5) (fld w 8 3) (fld w 6 2))
  | 0x19 => some (.vsrl (fld w 21 5) (fld w 16 5) (fld w 11 5) (fld w 8 3) (fld w 6 2))
  | 0x1A => some (.vsra (fld w 21 5) (fld w 16 5) (fld w 11 5) (fld w 8 3) (fld w 6 2))
  | 0x28 => if fld w 24 2 = 0 then some (.vcmpeq (fld w 21 3) (fld w 16 5) (fld w 11 5) (fld w 8 3) (fld w 6 2)) else none
  | 0x29 => if fld w 24 2 = 0 then some (.vcmpne (fld w 21 3) (fld w 16 5) (fld w 11 5) (fld w 8 3) (fld w 6 2)) else none
  | 0x2A => if fld w 24 2 = 0 then some (.vcmplt (fld w 21 3) (fld w 16 5) (fld w 11 5) (fld w 8 3) (fld w 6 2)) else none
  | 0x2B => if fld w 24 2 = 0 then some (.vcmpltu (fld w 21 3) (fld w 16 5) (fld w 11 5) (fld w 8 3) (fld w 6 2)) else none
  | 0x2C => if fld w 24 2 = 0 then some (.vcmple (fld w 21 3) (fld w 16 5) (fld w 11 5) (fld w 8 3) (fld w 6 2)) else none
  | 0x2D => if fld w 24 2 = 0 then some (.vcmpleu (fld w 21 3) (fld w 16 5) (fld w 11 5) (fld w 8 3) (fld w 6 2)) else none
  | _ => none

/-- Major 0x21 (Table 6-4). -/
def decodeVFP (w : IWord) : Option Instr :=
  match (fld w 3 3).toNat with
  | 0x0 => some (.vfadd (fld w 21 5) (fld w 16 5) (fld w 11 5) (fld w 8 3) (fld w 6 2) (fld w 0 3))
  | 0x1 => some (.vfsub (fld w 21 5) (fld w 16 5) (fld w 11 5) (fld w 8 3) (fld w 6 2) (fld w 0 3))
  | 0x2 => some (.vfmul (fld w 21 5) (fld w 16 5) (fld w 11 5) (fld w 8 3) (fld w 6 2) (fld w 0 3))
  | 0x3 => some (.vfma (fld w 21 5) (fld w 16 5) (fld w 11 5) (fld w 8 3) (fld w 6 2) (fld w 0 3))
  | 0x4 => if fld w 0 3 = 0 then some (.vfmin (fld w 21 5) (fld w 16 5) (fld w 11 5) (fld w 8 3) (fld w 6 2)) else none
  | 0x5 => if fld w 0 3 = 0 then some (.vfmax (fld w 21 5) (fld w 16 5) (fld w 11 5) (fld w 8 3) (fld w 6 2)) else none
  | 0x6 => some (.vfdiv (fld w 21 5) (fld w 16 5) (fld w 11 5) (fld w 8 3) (fld w 6 2) (fld w 0 3))
  | 0x7 => if fld w 11 5 = 0 then some (.vfsqrt (fld w 21 5) (fld w 16 5) (fld w 8 3) (fld w 6 2) (fld w 0 3)) else none
  | _ => none

/-- Major 0x22 (Table 6-5). -/
def decodeVCVT (w : IWord) : Option Instr :=
  match (fld w 4 2).toNat with
  | 0x0 => if fld w 6 2 = 0 ∧ fld w 11 1 = 0 ∧ fld w 15 1 = 0 then some (.vcvt (fld w 21 5) (fld w 16 5) (fld w 12 3) (fld w 8 3) (fld w 0 4)) else none
  | 0x1 => if fld w 6 2 = 0 ∧ fld w 11 1 = 0 ∧ fld w 15 1 = 0 then some (.vcvtS (fld w 21 5) (fld w 16 5) (fld w 12 3) (fld w 8 3) (fld w 0 4)) else none
  | _ => none

/-- Major 0x23 (Table 6-6). -/
def decodeVPERM (w : IWord) : Option Instr :=
  match (fld w 0 6).toNat with
  | 0x0 => if fld w 11 5 = 0 then some (.vmov (fld w 21 5) (fld w 16 5) (fld w 8 3) (fld w 6 2)) else none
  | 0x1 => if fld w 11 5 = 0 then some (.vsplat (fld w 21 5) (fld w 16 5) (fld w 8 3) (fld w 6 2)) else none
  | 0x2 => if fld w 8 3 = 0 then some (.vext (fld w 21 5) (fld w 16 5) (fld w 11 5) (fld w 6 2)) else none
  | 0x3 => if fld w 8 3 = 0 then some (.vins (fld w 21 5) (fld w 16 5) (fld w 11 5) (fld w 6 2)) else none
  | 0x4 => some (.vpermv (fld w 21 5) (fld w 16 5) (fld w 11 5) (fld w 8 3) (fld w 6 2))
  | 0x5 => if fld w 11 10 = 0 then some (.viota (fld w 21 5) (fld w 8 3) (fld w 6 2)) else none
  | 0x8 => if fld w 6 5 = 0 ∧ fld w 14 2 = 0 ∧ fld w 19 2 = 0 ∧ fld w 24 2 = 0 then some (.pand (fld w 21 3) (fld w 16 3) (fld w 11 3)) else none
  | 0x9 => if fld w 6 5 = 0 ∧ fld w 14 2 = 0 ∧ fld w 19 2 = 0 ∧ fld w 24 2 = 0 then some (.por (fld w 21 3) (fld w 16 3) (fld w 11 3)) else none
  | 0xA => if fld w 6 5 = 0 ∧ fld w 14 2 = 0 ∧ fld w 19 2 = 0 ∧ fld w 24 2 = 0 then some (.pxor (fld w 21 3) (fld w 16 3) (fld w 11 3)) else none
  | 0xB => if fld w 6 5 = 0 ∧ fld w 14 2 = 0 ∧ fld w 19 2 = 0 ∧ fld w 24 2 = 0 then some (.pandn (fld w 21 3) (fld w 16 3) (fld w 11 3)) else none
  | 0xC => if fld w 6 10 = 0 ∧ fld w 24 2 = 0 then some (.pmovx (fld w 21 3) (fld w 16 5)) else none
  | 0xD => if fld w 6 10 = 0 ∧ fld w 19 2 = 0 then some (.pmovp (fld w 21 5) (fld w 16 3)) else none
  | 0xE => if fld w 8 8 = 0 ∧ fld w 19 2 = 0 then some (.pcnt (fld w 21 5) (fld w 16 3) (fld w 6 2)) else none
  | 0x10 => if fld w 24 2 = 0 then some (.vfcmpeq (fld w 21 3) (fld w 16 5) (fld w 11 5) (fld w 8 3) (fld w 6 2)) else none
  | 0x11 => if fld w 24 2 = 0 then some (.vfcmplt (fld w 21 3) (fld w 16 5) (fld w 11 5) (fld w 8 3) (fld w 6 2)) else none
  | 0x12 => if fld w 24 2 = 0 then some (.vfcmple (fld w 21 3) (fld w 16 5) (fld w 11 5) (fld w 8 3) (fld w 6 2)) else none
  | 0x13 => if fld w 24 2 = 0 then some (.vfcmpun (fld w 21 3) (fld w 16 5) (fld w 11 5) (fld w 8 3) (fld w 6 2)) else none
  | 0x18 => if fld w 11 5 = 0 then some (.vredadd (fld w 21 5) (fld w 16 5) (fld w 8 3) (fld w 6 2)) else none
  | 0x19 => if fld w 11 5 = 0 then some (.vredaddu (fld w 21 5) (fld w 16 5) (fld w 8 3) (fld w 6 2)) else none
  | 0x1A => if fld w 11 5 = 0 then some (.vredmin (fld w 21 5) (fld w 16 5) (fld w 8 3) (fld w 6 2)) else none
  | 0x1B => if fld w 11 5 = 0 then some (.vredmax (fld w 21 5) (fld w 16 5) (fld w 8 3) (fld w 6 2)) else none
  | 0x1C => if fld w 11 5 = 0 then some (.vredminu (fld w 21 5) (fld w 16 5) (fld w 8 3) (fld w 6 2)) else none
  | 0x1D => if fld w 11 5 = 0 then some (.vredmaxu (fld w 21 5) (fld w 16 5) (fld w 8 3) (fld w 6 2)) else none
  | 0x20 => if fld w 14 2 = 0 then some (.vfredadd (fld w 21 5) (fld w 16 5) (fld w 11 3) (fld w 8 3) (fld w 6 2)) else none
  | 0x21 => if fld w 11 5 = 0 then some (.vfredmin (fld w 21 5) (fld w 16 5) (fld w 8 3) (fld w 6 2)) else none
  | 0x22 => if fld w 11 5 = 0 then some (.vfredmax (fld w 21 5) (fld w 16 5) (fld w 8 3) (fld w 6 2)) else none
  | 0x30 => if fld w 6 10 = 0 ∧ fld w 25 1 = 0 then some (.fmtw (fld w 21 4) (fld w 16 5)) else none
  | 0x31 => if fld w 6 10 = 0 ∧ fld w 20 1 = 0 then some (.fmtr (fld w 21 5) (fld w 16 4)) else none
  | _ => none

/-- Major 0x24 (Table 6-7). -/
def decodeVMEM (w : IWord) : Option Instr :=
  match (fld w 0 6).toNat with
  | 0x0 => some (.vgatherS (fld w 21 5) (fld w 16 5) (fld w 11 5) (fld w 8 3) (fld w 6 2))
  | 0x1 => some (.vscatterS (fld w 21 5) (fld w 16 5) (fld w 11 5) (fld w 8 3) (fld w 6 2))
  | 0x2 => some (.vgatherC (fld w 21 5) (fld w 16 5) (fld w 11 5) (fld w 8 3) (fld w 6 2))
  | 0x3 => some (.vscatterC (fld w 21 5) (fld w 16 5) (fld w 11 5) (fld w 8 3) (fld w 6 2))
  | 0x4 => some (.vgatherG (fld w 21 5) (fld w 16 5) (fld w 11 5) (fld w 8 3) (fld w 6 2))
  | 0x5 => some (.vscatterG (fld w 21 5) (fld w 16 5) (fld w 11 5) (fld w 8 3) (fld w 6 2))
  | _ => none

/-- Major 0x26 (Table 6-9). -/
def decodeTILE (w : IWord) : Option Instr :=
  match (fld w 0 9).toNat with
  | 0x0 => if fld w 9 1 = 0 ∧ fld w 11 5 = 0 ∧ fld w 24 2 = 0 then some (.tshape (fld w 21 3) (fld w 16 5) (fld w 10 1)) else none
  | 0x1 => if fld w 9 12 = 0 ∧ fld w 24 2 = 0 then some (.trel (fld w 21 3)) else none
  | 0x2 => if fld w 9 12 = 0 ∧ fld w 24 2 = 0 then some (.tzero (fld w 21 3)) else none
  | 0x3 => if fld w 24 2 = 0 then some (.twrow (fld w 21 3) (fld w 16 5) (fld w 11 5) (fld w 10 1) (fld w 9 1)) else none
  | 0x4 => if fld w 10 1 = 0 ∧ fld w 19 2 = 0 then some (.trdrow (fld w 21 5) (fld w 16 3) (fld w 11 5) (fld w 9 1)) else none
  | 0x5 => if fld w 24 2 = 0 then some (.twcol (fld w 21 3) (fld w 16 5) (fld w 11 5) (fld w 10 1) (fld w 9 1)) else none
  | 0x6 => if fld w 10 1 = 0 ∧ fld w 19 2 = 0 then some (.trdcol (fld w 21 5) (fld w 16 3) (fld w 11 5) (fld w 9 1)) else none
  | 0x7 => if fld w 9 2 = 0 ∧ fld w 14 2 = 0 ∧ fld w 19 2 = 0 ∧ fld w 24 2 = 0 then some (.tmac (fld w 21 3) (fld w 16 3) (fld w 11 3)) else none
  | 0x8 => if fld w 9 7 = 0 ∧ fld w 19 2 = 0 then some (.tstat (fld w 21 5) (fld w 16 3)) else none
  | _ => none

/-- Major 0x28 (Table 8-6). -/
def decodeREG (w : IWord) : Option Instr :=
  match (fld w 8 6).toNat with
  | 0x0 => if fld w 0 7 = 0 then some (.qand (fld w 22 4) (fld w 18 4) (fld w 14 4) (fld w 7 1)) else none
  | 0x1 => if fld w 0 7 = 0 then some (.qor (fld w 22 4) (fld w 18 4) (fld w 14 4) (fld w 7 1)) else none
  | 0x2 => if fld w 0 7 = 0 then some (.qsub (fld w 22 4) (fld w 18 4) (fld w 14 4) (fld w 7 1)) else none
  | 0x3 => if fld w 5 2 = 0 ∧ fld w 14 4 = 0 then some (.qxlt (fld w 22 4) (fld w 18 4) (fld w 7 1) (fld w 0 5)) else none
  | 0x4 => if fld w 5 2 = 0 ∧ fld w 14 4 = 0 then some (.qdil (fld w 22 4) (fld w 18 4) (fld w 7 1) (fld w 0 5)) else none
  | 0x6 => if fld w 4 3 = 0 ∧ fld w 14 4 = 0 then some (.qproj (fld w 22 4) (fld w 18 4) (fld w 7 1) (fld w 0 4)) else none
  | 0x7 => if fld w 5 2 = 0 ∧ fld w 14 4 = 0 then some (.qsplit (fld w 22 4) (fld w 18 4) (fld w 7 1) (fld w 0 5)) else none
  | 0x8 => if fld w 0 8 = 0 ∧ fld w 14 4 = 0 then some (.qclip (fld w 22 4) (fld w 18 4)) else none
  | 0x9 => if fld w 0 8 = 0 ∧ fld w 14 4 = 0 then some (.qbbox (fld w 22 4) (fld w 18 4)) else none
  | 0xA => if fld w 5 3 = 0 ∧ fld w 14 4 = 0 ∧ fld w 22 4 = 0 then some (.qcnt (fld w 18 4) (fld w 0 5)) else none
  | 0xB => if fld w 5 3 = 0 ∧ fld w 22 4 = 0 then some (.qcmp (fld w 18 4) (fld w 14 4) (fld w 0 5)) else none
  | 0xC => if fld w 14 4 = 0 ∧ fld w 22 4 = 0 then some (.qgetb (fld w 18 4) (fld w 5 3) (fld w 0 5)) else none
  | 0xD => if fld w 5 3 = 0 ∧ fld w 14 4 = 0 then some (.qmkb (fld w 22 4) (fld w 18 4) (fld w 0 5)) else none
  | 0xE => if fld w 5 3 = 0 ∧ fld w 14 4 = 0 then some (.qmkbs (fld w 22 4) (fld w 18 4) (fld w 0 5)) else none
  | 0xF => if fld w 5 3 = 0 ∧ fld w 14 4 = 0 then some (.qrag (fld w 22 4) (fld w 18 4) (fld w 0 5)) else none
  | 0x10 => if fld w 6 2 = 0 ∧ fld w 14 8 = 0 then some (.qall (fld w 22 4) (fld w 0 6)) else none
  | 0x11 => if fld w 5 3 = 0 ∧ fld w 14 12 = 0 then some (.qdtbw (fld w 0 5)) else if fld w 5 3 = 1 ∧ fld w 14 12 = 0 then some (.qdtbr (fld w 0 5)) else none
  | 0x12 => if fld w 5 3 = 0 ∧ fld w 14 8 = 0 then some (.qld (fld w 22 4) (fld w 0 5)) else none
  | 0x13 => if fld w 5 3 = 0 ∧ fld w 14 4 = 0 ∧ fld w 22 4 = 0 then some (.qst (fld w 18 4) (fld w 0 5)) else none
  | _ => none

/-- Major 0x2C (Tables 9-3, 10-2, 12-1 and 13-2). -/
noncomputable def decodeENG (w : IWord) : Option Instr :=
  match (fld w 19 7).toNat with
  | 0x0 => if fld w 0 3 = 0 then some (.rack (fld w 15 4) (fld w 11 4) (fld w 6 5) (fld w 5 1) (fld w 4 1) (fld w 3 1)) else none
  | 0x1 => if fld w 0 3 = 0 then some (.rackT (fld w 15 4) (fld w 11 4) (fld w 6 5) (fld w 5 1) (fld w 4 1) (fld w 3 1)) else none
  | 0x2 => if fld w 0 3 = 0 then some (.rackm (fld w 15 4) (fld w 11 4) (fld w 6 5) (fld w 5 1) (fld w 4 1) (fld w 3 1)) else none
  | 0x3 => if fld w 0 6 = 32 then some (.rackzC (fld w 15 4) (fld w 11 4) (fld w 6 5)) else if fld w 0 5 = 4 then some (.rackzD (fld w 15 4) (fld w 11 4) (fld w 6 5) (fld w 5 1)) else none
  | 0x4 => if fld w 0 9 = 0 then some (.relslot (fld w 14 5) (fld w 9 5)) else none
  | 0x5 => if fld w 0 14 = 0 then some (.dictld (fld w 14 5)) else none
  | 0x6 => if fld w 0 9 = 0 then some (.waitc (fld w 14 5) (fld w 9 5)) else none
  | 0x7 => if fld w 0 15 = 0 then some (.waitr (fld w 15 4)) else none
  | 0x8 => if fld w 0 19 = 0 then some (.drainS) else none
  | 0x9 => if fld w 0 19 = 0 then some (.drainG) else none
  | 0xA => if fld w 0 19 = 0 then some (.drainM) else none
  | 0xB => if fld w 0 14 = 0 then some (.rstatState (fld w 14 5)) else if fld w 0 14 = 64 then some (.rstatGeneration (fld w 14 5)) else if fld w 0 14 = 128 then some (.rstatFault (fld w 14 5)) else if fld w 0 9 = 192 then some (.rstatCredit (fld w 14 5) (fld w 9 5)) else none
  | 0x20 => if fld w 0 14 = 0 then some (.lease (fld w 14 5)) else none
  | 0x21 => if fld w 0 19 = 0 then some (.unlease) else none
  | 0x22 => if fld w 0 14 = 0 then some (.ploadw (fld w 14 5)) else none
  | 0x23 => if fld w 0 14 = 0 then some (.pstream (fld w 14 5)) else none
  | 0x24 => if fld w 0 14 = 0 then some (.pdrain (fld w 14 5)) else none
  | 0x25 => if fld w 0 10 = 0 then some (.dleave (fld w 14 5) (fld w 11 3) (fld w 10 1)) else none
  | 0x26 => if fld w 0 14 = 0 then some (.pstatState (fld w 14 5)) else if fld w 0 14 = 64 then some (.pstatFault (fld w 14 5)) else if fld w 0 9 = 128 then some (.pstatRow (fld w 14 5) (fld w 9 5)) else none
  | 0x40 => if fld w 0 14 = 0 then some (.trcfg (fld w 14 5)) else none
  | 0x41 => if fld w 0 15 = 0 then some (.trbin (fld w 15 4)) else none
  | 0x42 => if fld w 0 15 = 0 then some (.trupd (fld w 15 4)) else none
  | 0x43 => if fld w 0 10 = 0 then some (.trpairs (fld w 15 4) (fld w 10 5)) else none
  | 0x44 => if fld w 0 14 = 0 then some (.trstatState (fld w 14 5)) else if fld w 0 14 = 64 then some (.trstatFault (fld w 14 5)) else if fld w 0 9 = 128 then some (.trstatCell (fld w 14 5) (fld w 9 5)) else none
  | 0x45 => if fld w 0 19 = 0 then some (.trrel) else none
  | 0x60 => if fld w 0 14 = 0 then some (.caskrec (fld w 14 5)) else none
  | 0x61 => if fld w 0 14 = 0 then some (.caskend (fld w 14 5)) else none
  | 0x62 => if fld w 0 9 = 0 then some (.decant (fld w 14 5) (fld w 9 5)) else none
  | 0x63 => if fld w 0 14 = 0 then some (.caskdrop (fld w 14 5)) else none
  | 0x64 => if fld w 0 9 = 0 then some (.cstatTape (fld w 14 5) (fld w 9 5)) else if fld w 0 14 = 64 then some (.cstatFree (fld w 14 5)) else if fld w 0 9 = 128 then some (.cstatNext (fld w 14 5) (fld w 9 5)) else none
  | _ => none

/-- Major 0x30 (Table 18-13). -/
noncomputable def decodeSYS (w : IWord) : Option Instr :=
  match (fld w 20 6).toNat with
  | 0x0 => some (.syscall (fld w 0 20))
  | 0x1 => some (.brk (fld w 0 20))
  | 0x2 => if fld w 0 5 = 0 then some (.resume (fld w 15 5) (fld w 10 5) (fld w 5 5)) else none
  | 0x3 => if fld w 0 10 = 0 then some (.abort (fld w 15 5) (fld w 10 5)) else none
  | 0x4 => if fld w 0 5 = 0 then some (.slotrd (fld w 15 5) (fld w 10 5) (fld w 5 5)) else none
  | 0x5 => if fld w 0 5 = 0 then some (.slotwr (fld w 15 5) (fld w 10 5) (fld w 5 5)) else none
  | 0x6 => if fld w 0 5 = 0 then some (.fqpop (fld w 15 5) (fld w 10 5) (fld w 5 5)) else none
  | 0x7 => if fld w 0 10 = 0 then some (.fqwait (fld w 15 5) (fld w 10 5)) else none
  | 0x8 => if fld w 0 20 = 0 then some (.kret) else none
  | _ => none

/-- The instruction that a word's bits name, before the values that its entry refuses are looked at (Table 3-14). -/
noncomputable def decodeRaw (w : IWord) : Option Instr :=
  match (fld w 26 6).toNat with
  | 0x01 => decodeOPA w
  | 0x02 => decodeOPM w
  | 0x03 => decodeOPC w
  | 0x04 => some (.addi (fld w 21 5) (fld w 16 5) (fld w 15 1) (fld w 0 15))
  | 0x05 => some (.andi (fld w 21 5) (fld w 16 5) (fld w 15 1) (fld w 0 15))
  | 0x06 => some (.ori (fld w 21 5) (fld w 16 5) (fld w 15 1) (fld w 0 15))
  | 0x07 => some (.xori (fld w 21 5) (fld w 16 5) (fld w 15 1) (fld w 0 15))
  | 0x08 => some (.slti (fld w 21 5) (fld w 16 5) (fld w 15 1) (fld w 0 15))
  | 0x09 => some (.sltiu (fld w 21 5) (fld w 16 5) (fld w 15 1) (fld w 0 15))
  | 0x0A => decodeShift w
  | 0x0B => some (.cati (fld w 21 5) (fld w 16 5) (fld w 15 1) (fld w 0 15))
  | 0x0C => if fld w 0 1 = 0 ∧ fld w 15 11 = 0 then some (.repf (fld w 11 4) (fld w 7 4) (fld w 5 2) (fld w 3 2) (fld w 1 2)) else none
  | 0x10 => decodeB w
  | 0x11 => some (.j (fld w 0 26))
  | 0x12 => some (.jl (fld w 0 26))
  | 0x14 => decodeTASK w
  | 0x18 => some (.lds (fld w 21 5) (fld w 16 5) (fld w 15 1) (fld w 13 2) (fld w 10 3) (fld w 0 10))
  | 0x19 => some (.sts (fld w 21 5) (fld w 16 5) (fld w 15 1) (fld w 13 2) (fld w 10 3) (fld w 0 10))
  | 0x1A => some (.ldc (fld w 21 5) (fld w 16 5) (fld w 15 1) (fld w 13 2) (fld w 10 3) (fld w 0 10))
  | 0x1B => some (.stc (fld w 21 5) (fld w 16 5) (fld w 15 1) (fld w 13 2) (fld w 10 3) (fld w 0 10))
  | 0x1C => some (.ld (fld w 21 5) (fld w 16 5) (fld w 15 1) (fld w 13 2) (fld w 10 3) (fld w 0 10))
  | 0x1D => some (.st (fld w 21 5) (fld w 16 5) (fld w 15 1) (fld w 13 2) (fld w 10 3) (fld w 0 10))
  | 0x1E => if fld w 10 3 = 3 then some (.ldf (fld w 21 5) (fld w 16 5) (fld w 15 1) (fld w 13 2) (fld w 0 10)) else none
  | 0x1F => decodeATOM w
  | 0x20 => decodeVOP w
  | 0x21 => decodeVFP w
  | 0x22 => decodeVCVT w
  | 0x23 => decodeVPERM w
  | 0x24 => decodeVMEM w
  | 0x26 => decodeTILE w
  | 0x28 => decodeREG w
  | 0x2C => decodeENG w
  | 0x30 => decodeSYS w
  | 0x3E => some (.hint (fld w 0 26))
  | _ => none

/-- The instruction of a word; none where the word raises ILLEGAL (R66, R72 to R74). -/
noncomputable def decode (w : IWord) : Option Instr :=
  (decodeRaw w).filter wellFormed

/-- Whether a number lies in one of some ranges. -/
def inRanges (n : Nat) (rs : List (Nat × Nat)) : Bool :=
  rs.any fun r => decide (r.1 ≤ n) && decide (n ≤ r.2)

/-- Whether the function field of a word of a Rep major holds a value that an entry gives (R74, Tables 3-16 and 3-17); true of every
other major. -/
def fnAllocated (w : IWord) : Bool :=
  match (fld w 26 6).toNat with
  | 0x01 => inRanges (fld w 0 9).toNat [(0, 0xD), (0x10, 0x16), (0x18, 0x1D), (0x20, 0x23), (0x28, 0x29)]
  | 0x02 => inRanges (fld w 0 9).toNat [(0, 3), (8, 0xB), (0x10, 0x14)]
  | 0x0A => inRanges (fld w 12 3).toNat [(0, 3)]
  | 0x20 => inRanges (fld w 0 6).toNat [(0, 0xE), (0x10, 0x13), (0x18, 0x1A), (0x28, 0x2D)]
  | 0x21 =>
    if fld w 5 1 = 1 ∧ fld w 4 1 = 0 then decide (fld w 0 3 = 0) else inRanges (fld w 0 3).toNat [(0, 4)]
  | 0x22 => inRanges (fld w 4 2).toNat [(0, 1)]
  | 0x23 =>
    inRanges (fld w 0 6).toNat [(0, 5), (8, 0xE), (0x10, 0x13), (0x18, 0x1D), (0x20, 0x22), (0x30, 0x31)]
  | _ => true

/-- A little-endian number of bytes (R4). -/
def leNat : List Byte → Nat
  | [] => 0
  | b :: bs => b.toNat + 256 * leNat bs

/-- The instruction at the head of a list of bytes, and the bytes after it (R64). -/
noncomputable def decodeBytes : List Byte → Option (Instr × List Byte)
  | b0 :: b1 :: b2 :: b3 :: rest => (decode (BitVec.ofNat 32 (leNat [b0, b1, b2, b3]))).map fun i => (i, rest)
  | _ => none

/-- The bytes of a word as they lie in memory (R64). -/
def wordBytes (w : IWord) : List Byte :=
  [fld w 0 8, fld w 8 8, fld w 16 8, fld w 24 8]

/-- The instruction this decoder reads from an instruction whose bits are `w`. -/
noncomputable def decodeTableWord (_nbits w : Nat) : Option Instr :=
  (decodeBytes (wordBytes (BitVec.ofNat 32 w))).map Prod.fst

/-- A field at a bit position. -/
def put {n : Nat} (f : BitVec n) (lo : Nat) : Nat :=
  f.toNat * 2 ^ lo

/-- The word of an instruction; none for an event of the device, which has no word. -/
def encode : Instr → Option IWord
  | .add d a b k m => some (BitVec.ofNat 32 (0x04000000 + put d 21 + put a 16 + put b 11 + put k 10 + put m 9))
  | .sub d a b k m => some (BitVec.ofNat 32 (0x04000001 + put d 21 + put a 16 + put b 11 + put k 10 + put m 9))
  | .addW d a b k m => some (BitVec.ofNat 32 (0x04000002 + put d 21 + put a 16 + put b 11 + put k 10 + put m 9))
  | .subW d a b k m => some (BitVec.ofNat 32 (0x04000003 + put d 21 + put a 16 + put b 11 + put k 10 + put m 9))
  | .addsl1 d a b k m => some (BitVec.ofNat 32 (0x04000004 + put d 21 + put a 16 + put b 11 + put k 10 + put m 9))
  | .addsl2 d a b k m => some (BitVec.ofNat 32 (0x04000005 + put d 21 + put a 16 + put b 11 + put k 10 + put m 9))
  | .addsl3 d a b k m => some (BitVec.ofNat 32 (0x04000006 + put d 21 + put a 16 + put b 11 + put k 10 + put m 9))
  | .mkca d a b k m => some (BitVec.ofNat 32 (0x04000007 + put d 21 + put a 16 + put b 11 + put k 10 + put m 9))
  | .and d a b k m => some (BitVec.ofNat 32 (0x04000008 + put d 21 + put a 16 + put b 11 + put k 10 + put m 9))
  | .or d a b k m => some (BitVec.ofNat 32 (0x04000009 + put d 21 + put a 16 + put b 11 + put k 10 + put m 9))
  | .xor d a b k m => some (BitVec.ofNat 32 (0x0400000A + put d 21 + put a 16 + put b 11 + put k 10 + put m 9))
  | .andn d a b k m => some (BitVec.ofNat 32 (0x0400000B + put d 21 + put a 16 + put b 11 + put k 10 + put m 9))
  | .orn d a b k m => some (BitVec.ofNat 32 (0x0400000C + put d 21 + put a 16 + put b 11 + put k 10 + put m 9))
  | .xnor d a b k m => some (BitVec.ofNat 32 (0x0400000D + put d 21 + put a 16 + put b 11 + put k 10 + put m 9))
  | .sll d a b k m => some (BitVec.ofNat 32 (0x04000010 + put d 21 + put a 16 + put b 11 + put k 10 + put m 9))
  | .srl d a b k m => some (BitVec.ofNat 32 (0x04000011 + put d 21 + put a 16 + put b 11 + put k 10 + put m 9))
  | .sra d a b k m => some (BitVec.ofNat 32 (0x04000012 + put d 21 + put a 16 + put b 11 + put k 10 + put m 9))
  | .ror d a b k m => some (BitVec.ofNat 32 (0x04000013 + put d 21 + put a 16 + put b 11 + put k 10 + put m 9))
  | .sllW d a b k m => some (BitVec.ofNat 32 (0x04000014 + put d 21 + put a 16 + put b 11 + put k 10 + put m 9))
  | .srlW d a b k m => some (BitVec.ofNat 32 (0x04000015 + put d 21 + put a 16 + put b 11 + put k 10 + put m 9))
  | .sraW d a b k m => some (BitVec.ofNat 32 (0x04000016 + put d 21 + put a 16 + put b 11 + put k 10 + put m 9))
  | .seq d a b k m => some (BitVec.ofNat 32 (0x04000018 + put d 21 + put a 16 + put b 11 + put k 10 + put m 9))
  | .sne d a b k m => some (BitVec.ofNat 32 (0x04000019 + put d 21 + put a 16 + put b 11 + put k 10 + put m 9))
  | .slt d a b k m => some (BitVec.ofNat 32 (0x0400001A + put d 21 + put a 16 + put b 11 + put k 10 + put m 9))
  | .sltu d a b k m => some (BitVec.ofNat 32 (0x0400001B + put d 21 + put a 16 + put b 11 + put k 10 + put m 9))
  | .sge d a b k m => some (BitVec.ofNat 32 (0x0400001C + put d 21 + put a 16 + put b 11 + put k 10 + put m 9))
  | .sgeu d a b k m => some (BitVec.ofNat 32 (0x0400001D + put d 21 + put a 16 + put b 11 + put k 10 + put m 9))
  | .min d a b k m => some (BitVec.ofNat 32 (0x04000020 + put d 21 + put a 16 + put b 11 + put k 10 + put m 9))
  | .max d a b k m => some (BitVec.ofNat 32 (0x04000021 + put d 21 + put a 16 + put b 11 + put k 10 + put m 9))
  | .minu d a b k m => some (BitVec.ofNat 32 (0x04000022 + put d 21 + put a 16 + put b 11 + put k 10 + put m 9))
  | .maxu d a b k m => some (BitVec.ofNat 32 (0x04000023 + put d 21 + put a 16 + put b 11 + put k 10 + put m 9))
  | .cmovz d a b k m => some (BitVec.ofNat 32 (0x04000028 + put d 21 + put a 16 + put b 11 + put k 10 + put m 9))
  | .cmovnz d a b k m => some (BitVec.ofNat 32 (0x04000029 + put d 21 + put a 16 + put b 11 + put k 10 + put m 9))
  | .mul d a b k m => some (BitVec.ofNat 32 (0x08000000 + put d 21 + put a 16 + put b 11 + put k 10 + put m 9))
  | .mulh d a b k m => some (BitVec.ofNat 32 (0x08000001 + put d 21 + put a 16 + put b 11 + put k 10 + put m 9))
  | .mulhu d a b k m => some (BitVec.ofNat 32 (0x08000002 + put d 21 + put a 16 + put b 11 + put k 10 + put m 9))
  | .mulW d a b k m => some (BitVec.ofNat 32 (0x08000003 + put d 21 + put a 16 + put b 11 + put k 10 + put m 9))
  | .div d a b k m => some (BitVec.ofNat 32 (0x08000008 + put d 21 + put a 16 + put b 11 + put k 10 + put m 9))
  | .divu d a b k m => some (BitVec.ofNat 32 (0x08000009 + put d 21 + put a 16 + put b 11 + put k 10 + put m 9))
  | .rem d a b k m => some (BitVec.ofNat 32 (0x0800000A + put d 21 + put a 16 + put b 11 + put k 10 + put m 9))
  | .remu d a b k m => some (BitVec.ofNat 32 (0x0800000B + put d 21 + put a 16 + put b 11 + put k 10 + put m 9))
  | .clz d a k => some (BitVec.ofNat 32 (0x08000010 + put d 21 + put a 16 + put k 10))
  | .ctz d a k => some (BitVec.ofNat 32 (0x08000011 + put d 21 + put a 16 + put k 10))
  | .popc d a k => some (BitVec.ofNat 32 (0x08000012 + put d 21 + put a 16 + put k 10))
  | .bswap d a k => some (BitVec.ofNat 32 (0x08000013 + put d 21 + put a 16 + put k 10))
  | .brev d a k => some (BitVec.ofNat 32 (0x08000014 + put d 21 + put a 16 + put k 10))
  | .jr a k => some (BitVec.ofNat 32 (0x0C000000 + put a 16 + put k 10))
  | .jlr d a k => some (BitVec.ofNat 32 (0x0C000001 + put d 21 + put a 16 + put k 10))
  | .crr d c => some (BitVec.ofNat 32 (0x0C000010 + put d 21 + put c 11))
  | .crw a c k => some (BitVec.ofNat 32 (0x0C000011 + put a 16 + put c 11 + put k 10))
  | .crrw d a c k => some (BitVec.ofNat 32 (0x0C000012 + put d 21 + put a 16 + put c 11 + put k 10))
  | .crrBank1 d c => some (BitVec.ofNat 32 (0x0C000014 + put d 21 + put c 11))
  | .crwBank1 a c k => some (BitVec.ofNat 32 (0x0C000015 + put a 16 + put c 11 + put k 10))
  | .crrwBank1 d a c k => some (BitVec.ofNat 32 (0x0C000016 + put d 21 + put a 16 + put c 11 + put k 10))
  | .empw a k => some (BitVec.ofNat 32 (0x0C000020 + put a 16 + put k 10))
  | .fulw a k => some (BitVec.ofNat 32 (0x0C000021 + put a 16 + put k 10))
  | .few d a k => some (BitVec.ofNat 32 (0x0C000022 + put d 21 + put a 16 + put k 10))
  | .addi d a k i => some (BitVec.ofNat 32 (0x10000000 + put d 21 + put a 16 + put k 15 + put i 0))
  | .andi d a k i => some (BitVec.ofNat 32 (0x14000000 + put d 21 + put a 16 + put k 15 + put i 0))
  | .ori d a k i => some (BitVec.ofNat 32 (0x18000000 + put d 21 + put a 16 + put k 15 + put i 0))
  | .xori d a k i => some (BitVec.ofNat 32 (0x1C000000 + put d 21 + put a 16 + put k 15 + put i 0))
  | .slti d a k i => some (BitVec.ofNat 32 (0x20000000 + put d 21 + put a 16 + put k 15 + put i 0))
  | .sltiu d a k i => some (BitVec.ofNat 32 (0x24000000 + put d 21 + put a 16 + put k 15 + put i 0))
  | .slli d a k s => some (BitVec.ofNat 32 (0x28000000 + put d 21 + put a 16 + put k 15 + put s 0))
  | .srli d a k s => some (BitVec.ofNat 32 (0x28001000 + put d 21 + put a 16 + put k 15 + put s 0))
  | .srai d a k s => some (BitVec.ofNat 32 (0x28002000 + put d 21 + put a 16 + put k 15 + put s 0))
  | .rori d a k s => some (BitVec.ofNat 32 (0x28003000 + put d 21 + put a 16 + put k 15 + put s 0))
  | .cati d a k i => some (BitVec.ofNat 32 (0x2C000000 + put d 21 + put a 16 + put k 15 + put i 0))
  | .repf n m x y z => some (BitVec.ofNat 32 (0x30000000 + put n 11 + put m 7 + put x 5 + put y 3 + put z 1))
  | .b i => some (BitVec.ofNat 32 (0x40000000 + put i 0))
  | .bEqz a i => some (BitVec.ofNat 32 (0x40400000 + put a 17 + put i 0))
  | .bNez a i => some (BitVec.ofNat 32 (0x40800000 + put a 17 + put i 0))
  | .bLtz a i => some (BitVec.ofNat 32 (0x40C00000 + put a 17 + put i 0))
  | .bGez a i => some (BitVec.ofNat 32 (0x41000000 + put a 17 + put i 0))
  | .bGtz a i => some (BitVec.ofNat 32 (0x41400000 + put a 17 + put i 0))
  | .bLez a i => some (BitVec.ofNat 32 (0x41800000 + put a 17 + put i 0))
  | .bBc a i => some (BitVec.ofNat 32 (0x41C00000 + put a 17 + put i 0))
  | .bBs a i => some (BitVec.ofNat 32 (0x42000000 + put a 17 + put i 0))
  | .bFull a i => some (BitVec.ofNat 32 (0x42400000 + put a 17 + put i 0))
  | .bEmpty a i => some (BitVec.ofNat 32 (0x42800000 + put a 17 + put i 0))
  | .bPany p i => some (BitVec.ofNat 32 (0x42C00000 + put p 17 + put i 0))
  | .bPnone p i => some (BitVec.ofNat 32 (0x43000000 + put p 17 + put i 0))
  | .j i => some (BitVec.ofNat 32 (0x44000000 + put i 0))
  | .jl i => some (BitVec.ofNat 32 (0x48000000 + put i 0))
  | .yield => some (BitVec.ofNat 32 (0x50000000))
  | .retire => some (BitVec.ofNat 32 (0x50000001))
  | .done => some (BitVec.ofNat 32 (0x50000002))
  | .uret => some (BitVec.ofNat 32 (0x50000003))
  | .send d a b k m => some (BitVec.ofNat 32 (0x50000004 + put d 21 + put a 16 + put b 11 + put k 10 + put m 9))
  | .spawn a b k m => some (BitVec.ofNat 32 (0x50000005 + put a 16 + put b 11 + put k 10 + put m 9))
  | .decr a b k m => some (BitVec.ofNat 32 (0x50000006 + put a 16 + put b 11 + put k 10 + put m 9))
  | .htset a b k m => some (BitVec.ofNat 32 (0x50000007 + put a 16 + put b 11 + put k 10 + put m 9))
  | .htget d a k => some (BitVec.ofNat 32 (0x50000008 + put d 21 + put a 16 + put k 10))
  | .pumpq a k => some (BitVec.ofNat 32 (0x50000009 + put a 16 + put k 10))
  | .rslv d a k => some (BitVec.ofNat 32 (0x5000000A + put d 21 + put a 16 + put k 10))
  | .lds d a k o s i => some (BitVec.ofNat 32 (0x60000000 + put d 21 + put a 16 + put k 15 + put o 13 + put s 10 + put i 0))
  | .sts d a k o s i => some (BitVec.ofNat 32 (0x64000000 + put d 21 + put a 16 + put k 15 + put o 13 + put s 10 + put i 0))
  | .ldc d a k o s i => some (BitVec.ofNat 32 (0x68000000 + put d 21 + put a 16 + put k 15 + put o 13 + put s 10 + put i 0))
  | .stc d a k o s i => some (BitVec.ofNat 32 (0x6C000000 + put d 21 + put a 16 + put k 15 + put o 13 + put s 10 + put i 0))
  | .ld d a k o s i => some (BitVec.ofNat 32 (0x70000000 + put d 21 + put a 16 + put k 15 + put o 13 + put s 10 + put i 0))
  | .st d a k o s i => some (BitVec.ofNat 32 (0x74000000 + put d 21 + put a 16 + put k 15 + put o 13 + put s 10 + put i 0))
  | .ldf d a k o i => some (BitVec.ofNat 32 (0x78000C00 + put d 21 + put a 16 + put k 15 + put o 13 + put i 0))
  | .aswap d a b k m c z => some (BitVec.ofNat 32 (0x7C000000 + put d 21 + put a 16 + put b 11 + put k 10 + put m 9 + put c 5 + put z 4))
  | .acas d a b k m c z => some (BitVec.ofNat 32 (0x7C000001 + put d 21 + put a 16 + put b 11 + put k 10 + put m 9 + put c 5 + put z 4))
  | .aadd d a b k m c z => some (BitVec.ofNat 32 (0x7C000002 + put d 21 + put a 16 + put b 11 + put k 10 + put m 9 + put c 5 + put z 4))
  | .aand d a b k m c z => some (BitVec.ofNat 32 (0x7C000003 + put d 21 + put a 16 + put b 11 + put k 10 + put m 9 + put c 5 + put z 4))
  | .aor d a b k m c z => some (BitVec.ofNat 32 (0x7C000004 + put d 21 + put a 16 + put b 11 + put k 10 + put m 9 + put c 5 + put z 4))
  | .axor d a b k m c z => some (BitVec.ofNat 32 (0x7C000005 + put d 21 + put a 16 + put b 11 + put k 10 + put m 9 + put c 5 + put z 4))
  | .amin d a b k m c z => some (BitVec.ofNat 32 (0x7C000006 + put d 21 + put a 16 + put b 11 + put k 10 + put m 9 + put c 5 + put z 4))
  | .amax d a b k m c z => some (BitVec.ofNat 32 (0x7C000007 + put d 21 + put a 16 + put b 11 + put k 10 + put m 9 + put c 5 + put z 4))
  | .aminu d a b k m c z => some (BitVec.ofNat 32 (0x7C000008 + put d 21 + put a 16 + put b 11 + put k 10 + put m 9 + put c 5 + put z 4))
  | .amaxu d a b k m c z => some (BitVec.ofNat 32 (0x7C000009 + put d 21 + put a 16 + put b 11 + put k 10 + put m 9 + put c 5 + put z 4))
  | .afadd d a b k m c z => some (BitVec.ofNat 32 (0x7C00000A + put d 21 + put a 16 + put b 11 + put k 10 + put m 9 + put c 5 + put z 4))
  | .aminp d a b k m c => some (BitVec.ofNat 32 (0x7C00001B + put d 21 + put a 16 + put b 11 + put k 10 + put m 9 + put c 5))
  | .redadd a b k m c z => some (BitVec.ofNat 32 (0x7C000042 + put a 16 + put b 11 + put k 10 + put m 9 + put c 5 + put z 4))
  | .redand a b k m c z => some (BitVec.ofNat 32 (0x7C000043 + put a 16 + put b 11 + put k 10 + put m 9 + put c 5 + put z 4))
  | .redor a b k m c z => some (BitVec.ofNat 32 (0x7C000044 + put a 16 + put b 11 + put k 10 + put m 9 + put c 5 + put z 4))
  | .redxor a b k m c z => some (BitVec.ofNat 32 (0x7C000045 + put a 16 + put b 11 + put k 10 + put m 9 + put c 5 + put z 4))
  | .redmin a b k m c z => some (BitVec.ofNat 32 (0x7C000046 + put a 16 + put b 11 + put k 10 + put m 9 + put c 5 + put z 4))
  | .redmax a b k m c z => some (BitVec.ofNat 32 (0x7C000047 + put a 16 + put b 11 + put k 10 + put m 9 + put c 5 + put z 4))
  | .redminu a b k m c z => some (BitVec.ofNat 32 (0x7C000048 + put a 16 + put b 11 + put k 10 + put m 9 + put c 5 + put z 4))
  | .redmaxu a b k m c z => some (BitVec.ofNat 32 (0x7C000049 + put a 16 + put b 11 + put k 10 + put m 9 + put c 5 + put z 4))
  | .redfadd a b k m c z => some (BitVec.ofNat 32 (0x7C00004A + put a 16 + put b 11 + put k 10 + put m 9 + put c 5 + put z 4))
  | .redminp a b k m c => some (BitVec.ofNat 32 (0x7C00005B + put a 16 + put b 11 + put k 10 + put m 9 + put c 5))
  | .fence s x => some (BitVec.ofNat 32 (0x7C000080 + put s 21 + put x 16))
  | .fenceAcq s x => some (BitVec.ofNat 32 (0x7C000081 + put s 21 + put x 16))
  | .fenceRel s x => some (BitVec.ofNat 32 (0x7C000082 + put s 21 + put x 16))
  | .vadd d a b p e => some (BitVec.ofNat 32 (0x80000000 + put d 21 + put a 16 + put b 11 + put p 8 + put e 6))
  | .vsub d a b p e => some (BitVec.ofNat 32 (0x80000001 + put d 21 + put a 16 + put b 11 + put p 8 + put e 6))
  | .vadds d a b p e => some (BitVec.ofNat 32 (0x80000002 + put d 21 + put a 16 + put b 11 + put p 8 + put e 6))
  | .vaddus d a b p e => some (BitVec.ofNat 32 (0x80000003 + put d 21 + put a 16 + put b 11 + put p 8 + put e 6))
  | .vsubs d a b p e => some (BitVec.ofNat 32 (0x80000004 + put d 21 + put a 16 + put b 11 + put p 8 + put e 6))
  | .vsubus d a b p e => some (BitVec.ofNat 32 (0x80000005 + put d 21 + put a 16 + put b 11 + put p 8 + put e 6))
  | .vmul d a b p e => some (BitVec.ofNat 32 (0x80000006 + put d 21 + put a 16 + put b 11 + put p 8 + put e 6))
  | .vmulh d a b p e => some (BitVec.ofNat 32 (0x80000007 + put d 21 + put a 16 + put b 11 + put p 8 + put e 6))
  | .vmulhu d a b p e => some (BitVec.ofNat 32 (0x80000008 + put d 21 + put a 16 + put b 11 + put p 8 + put e 6))
  | .vmacc d a b p e => some (BitVec.ofNat 32 (0x80000009 + put d 21 + put a 16 + put b 11 + put p 8 + put e 6))
  | .vmin d a b p e => some (BitVec.ofNat 32 (0x8000000A + put d 21 + put a 16 + put b 11 + put p 8 + put e 6))
  | .vmax d a b p e => some (BitVec.ofNat 32 (0x8000000B + put d 21 + put a 16 + put b 11 + put p 8 + put e 6))
  | .vminu d a b p e => some (BitVec.ofNat 32 (0x8000000C + put d 21 + put a 16 + put b 11 + put p 8 + put e 6))
  | .vmaxu d a b p e => some (BitVec.ofNat 32 (0x8000000D + put d 21 + put a 16 + put b 11 + put p 8 + put e 6))
  | .vabs d a p e => some (BitVec.ofNat 32 (0x8000000E + put d 21 + put a 16 + put p 8 + put e 6))
  | .vand d a b p e => some (BitVec.ofNat 32 (0x80000010 + put d 21 + put a 16 + put b 11 + put p 8 + put e 6))
  | .vor d a b p e => some (BitVec.ofNat 32 (0x80000011 + put d 21 + put a 16 + put b 11 + put p 8 + put e 6))
  | .vxor d a b p e => some (BitVec.ofNat 32 (0x80000012 + put d 21 + put a 16 + put b 11 + put p 8 + put e 6))
  | .vandn d a b p e => some (BitVec.ofNat 32 (0x80000013 + put d 21 + put a 16 + put b 11 + put p 8 + put e 6))
  | .vsll d a b p e => some (BitVec.ofNat 32 (0x80000018 + put d 21 + put a 16 + put b 11 + put p 8 + put e 6))
  | .vsrl d a b p e => some (BitVec.ofNat 32 (0x80000019 + put d 21 + put a 16 + put b 11 + put p 8 + put e 6))
  | .vsra d a b p e => some (BitVec.ofNat 32 (0x8000001A + put d 21 + put a 16 + put b 11 + put p 8 + put e 6))
  | .vcmpeq d a b p e => some (BitVec.ofNat 32 (0x80000028 + put d 21 + put a 16 + put b 11 + put p 8 + put e 6))
  | .vcmpne d a b p e => some (BitVec.ofNat 32 (0x80000029 + put d 21 + put a 16 + put b 11 + put p 8 + put e 6))
  | .vcmplt d a b p e => some (BitVec.ofNat 32 (0x8000002A + put d 21 + put a 16 + put b 11 + put p 8 + put e 6))
  | .vcmpltu d a b p e => some (BitVec.ofNat 32 (0x8000002B + put d 21 + put a 16 + put b 11 + put p 8 + put e 6))
  | .vcmple d a b p e => some (BitVec.ofNat 32 (0x8000002C + put d 21 + put a 16 + put b 11 + put p 8 + put e 6))
  | .vcmpleu d a b p e => some (BitVec.ofNat 32 (0x8000002D + put d 21 + put a 16 + put b 11 + put p 8 + put e 6))
  | .vfadd d a b p e r => some (BitVec.ofNat 32 (0x84000000 + put d 21 + put a 16 + put b 11 + put p 8 + put e 6 + put r 0))
  | .vfsub d a b p e r => some (BitVec.ofNat 32 (0x84000008 + put d 21 + put a 16 + put b 11 + put p 8 + put e 6 + put r 0))
  | .vfmul d a b p e r => some (BitVec.ofNat 32 (0x84000010 + put d 21 + put a 16 + put b 11 + put p 8 + put e 6 + put r 0))
  | .vfma d a b p e r => some (BitVec.ofNat 32 (0x84000018 + put d 21 + put a 16 + put b 11 + put p 8 + put e 6 + put r 0))
  | .vfmin d a b p e => some (BitVec.ofNat 32 (0x84000020 + put d 21 + put a 16 + put b 11 + put p 8 + put e 6))
  | .vfmax d a b p e => some (BitVec.ofNat 32 (0x84000028 + put d 21 + put a 16 + put b 11 + put p 8 + put e 6))
  | .vfdiv d a b p e r => some (BitVec.ofNat 32 (0x84000030 + put d 21 + put a 16 + put b 11 + put p 8 + put e 6 + put r 0))
  | .vfsqrt d a p e r => some (BitVec.ofNat 32 (0x84000038 + put d 21 + put a 16 + put p 8 + put e 6 + put r 0))
  | .vcvt d a k m p => some (BitVec.ofNat 32 (0x88000000 + put d 21 + put a 16 + put k 12 + put m 8 + put p 0))
  | .vcvtS d a k m p => some (BitVec.ofNat 32 (0x88000010 + put d 21 + put a 16 + put k 12 + put m 8 + put p 0))
  | .vmov d a p e => some (BitVec.ofNat 32 (0x8C000000 + put d 21 + put a 16 + put p 8 + put e 6))
  | .vsplat d a p e => some (BitVec.ofNat 32 (0x8C000001 + put d 21 + put a 16 + put p 8 + put e 6))
  | .vext d a b e => some (BitVec.ofNat 32 (0x8C000002 + put d 21 + put a 16 + put b 11 + put e 6))
  | .vins d a b e => some (BitVec.ofNat 32 (0x8C000003 + put d 21 + put a 16 + put b 11 + put e 6))
  | .vpermv d a b p e => some (BitVec.ofNat 32 (0x8C000004 + put d 21 + put a 16 + put b 11 + put p 8 + put e 6))
  | .viota d p e => some (BitVec.ofNat 32 (0x8C000005 + put d 21 + put p 8 + put e 6))
  | .pand d a b => some (BitVec.ofNat 32 (0x8C000008 + put d 21 + put a 16 + put b 11))
  | .por d a b => some (BitVec.ofNat 32 (0x8C000009 + put d 21 + put a 16 + put b 11))
  | .pxor d a b => some (BitVec.ofNat 32 (0x8C00000A + put d 21 + put a 16 + put b 11))
  | .pandn d a b => some (BitVec.ofNat 32 (0x8C00000B + put d 21 + put a 16 + put b 11))
  | .pmovx d a => some (BitVec.ofNat 32 (0x8C00000C + put d 21 + put a 16))
  | .pmovp d a => some (BitVec.ofNat 32 (0x8C00000D + put d 21 + put a 16))
  | .pcnt d a e => some (BitVec.ofNat 32 (0x8C00000E + put d 21 + put a 16 + put e 6))
  | .vfcmpeq d a b p e => some (BitVec.ofNat 32 (0x8C000010 + put d 21 + put a 16 + put b 11 + put p 8 + put e 6))
  | .vfcmplt d a b p e => some (BitVec.ofNat 32 (0x8C000011 + put d 21 + put a 16 + put b 11 + put p 8 + put e 6))
  | .vfcmple d a b p e => some (BitVec.ofNat 32 (0x8C000012 + put d 21 + put a 16 + put b 11 + put p 8 + put e 6))
  | .vfcmpun d a b p e => some (BitVec.ofNat 32 (0x8C000013 + put d 21 + put a 16 + put b 11 + put p 8 + put e 6))
  | .vredadd d a p e => some (BitVec.ofNat 32 (0x8C000018 + put d 21 + put a 16 + put p 8 + put e 6))
  | .vredaddu d a p e => some (BitVec.ofNat 32 (0x8C000019 + put d 21 + put a 16 + put p 8 + put e 6))
  | .vredmin d a p e => some (BitVec.ofNat 32 (0x8C00001A + put d 21 + put a 16 + put p 8 + put e 6))
  | .vredmax d a p e => some (BitVec.ofNat 32 (0x8C00001B + put d 21 + put a 16 + put p 8 + put e 6))
  | .vredminu d a p e => some (BitVec.ofNat 32 (0x8C00001C + put d 21 + put a 16 + put p 8 + put e 6))
  | .vredmaxu d a p e => some (BitVec.ofNat 32 (0x8C00001D + put d 21 + put a 16 + put p 8 + put e 6))
  | .vfredadd d a r p e => some (BitVec.ofNat 32 (0x8C000020 + put d 21 + put a 16 + put r 11 + put p 8 + put e 6))
  | .vfredmin d a p e => some (BitVec.ofNat 32 (0x8C000021 + put d 21 + put a 16 + put p 8 + put e 6))
  | .vfredmax d a p e => some (BitVec.ofNat 32 (0x8C000022 + put d 21 + put a 16 + put p 8 + put e 6))
  | .fmtw d a => some (BitVec.ofNat 32 (0x8C000030 + put d 21 + put a 16))
  | .fmtr d a => some (BitVec.ofNat 32 (0x8C000031 + put d 21 + put a 16))
  | .vgatherS d a b p e => some (BitVec.ofNat 32 (0x90000000 + put d 21 + put a 16 + put b 11 + put p 8 + put e 6))
  | .vscatterS d a b p e => some (BitVec.ofNat 32 (0x90000001 + put d 21 + put a 16 + put b 11 + put p 8 + put e 6))
  | .vgatherC d a b p e => some (BitVec.ofNat 32 (0x90000002 + put d 21 + put a 16 + put b 11 + put p 8 + put e 6))
  | .vscatterC d a b p e => some (BitVec.ofNat 32 (0x90000003 + put d 21 + put a 16 + put b 11 + put p 8 + put e 6))
  | .vgatherG d a b p e => some (BitVec.ofNat 32 (0x90000004 + put d 21 + put a 16 + put b 11 + put p 8 + put e 6))
  | .vscatterG d a b p e => some (BitVec.ofNat 32 (0x90000005 + put d 21 + put a 16 + put b 11 + put p 8 + put e 6))
  | .tshape d a k => some (BitVec.ofNat 32 (0x98000000 + put d 21 + put a 16 + put k 10))
  | .trel d => some (BitVec.ofNat 32 (0x98000001 + put d 21))
  | .tzero d => some (BitVec.ofNat 32 (0x98000002 + put d 21))
  | .twrow d a b k m => some (BitVec.ofNat 32 (0x98000003 + put d 21 + put a 16 + put b 11 + put k 10 + put m 9))
  | .trdrow d a b m => some (BitVec.ofNat 32 (0x98000004 + put d 21 + put a 16 + put b 11 + put m 9))
  | .twcol d a b k m => some (BitVec.ofNat 32 (0x98000005 + put d 21 + put a 16 + put b 11 + put k 10 + put m 9))
  | .trdcol d a b m => some (BitVec.ofNat 32 (0x98000006 + put d 21 + put a 16 + put b 11 + put m 9))
  | .tmac d a b => some (BitVec.ofNat 32 (0x98000007 + put d 21 + put a 16 + put b 11))
  | .tstat d a => some (BitVec.ofNat 32 (0x98000008 + put d 21 + put a 16))
  | .qand d a b e => some (BitVec.ofNat 32 (0xA0000000 + put d 22 + put a 18 + put b 14 + put e 7))
  | .qor d a b e => some (BitVec.ofNat 32 (0xA0000100 + put d 22 + put a 18 + put b 14 + put e 7))
  | .qsub d a b e => some (BitVec.ofNat 32 (0xA0000200 + put d 22 + put a 18 + put b 14 + put e 7))
  | .qxlt d a e n => some (BitVec.ofNat 32 (0xA0000300 + put d 22 + put a 18 + put e 7 + put n 0))
  | .qdil d a e n => some (BitVec.ofNat 32 (0xA0000400 + put d 22 + put a 18 + put e 7 + put n 0))
  | .qproj d a e m => some (BitVec.ofNat 32 (0xA0000600 + put d 22 + put a 18 + put e 7 + put m 0))
  | .qsplit d a e n => some (BitVec.ofNat 32 (0xA0000700 + put d 22 + put a 18 + put e 7 + put n 0))
  | .qclip d a => some (BitVec.ofNat 32 (0xA0000800 + put d 22 + put a 18))
  | .qbbox d a => some (BitVec.ofNat 32 (0xA0000900 + put d 22 + put a 18))
  | .qcnt a n => some (BitVec.ofNat 32 (0xA0000A00 + put a 18 + put n 0))
  | .qcmp a b n => some (BitVec.ofNat 32 (0xA0000B00 + put a 18 + put b 14 + put n 0))
  | .qgetb a j n => some (BitVec.ofNat 32 (0xA0000C00 + put a 18 + put j 5 + put n 0))
  | .qmkb d a n => some (BitVec.ofNat 32 (0xA0000D00 + put d 22 + put a 18 + put n 0))
  | .qmkbs d a n => some (BitVec.ofNat 32 (0xA0000E00 + put d 22 + put a 18 + put n 0))
  | .qrag d a n => some (BitVec.ofNat 32 (0xA0000F00 + put d 22 + put a 18 + put n 0))
  | .qall d k => some (BitVec.ofNat 32 (0xA0001000 + put d 22 + put k 0))
  | .qdtbw n => some (BitVec.ofNat 32 (0xA0001100 + put n 0))
  | .qdtbr n => some (BitVec.ofNat 32 (0xA0001120 + put n 0))
  | .qld d n => some (BitVec.ofNat 32 (0xA0001200 + put d 22 + put n 0))
  | .qst a n => some (BitVec.ofNat 32 (0xA0001300 + put a 18 + put n 0))
  | .rack a b n c t s => some (BitVec.ofNat 32 (0xB0000000 + put a 15 + put b 11 + put n 6 + put c 5 + put t 4 + put s 3))
  | .rackT a b n c t s => some (BitVec.ofNat 32 (0xB0080000 + put a 15 + put b 11 + put n 6 + put c 5 + put t 4 + put s 3))
  | .rackm a b n c t s => some (BitVec.ofNat 32 (0xB0100000 + put a 15 + put b 11 + put n 6 + put c 5 + put t 4 + put s 3))
  | .rackzC a b n => some (BitVec.ofNat 32 (0xB0180020 + put a 15 + put b 11 + put n 6))
  | .rackzD a b n c => some (BitVec.ofNat 32 (0xB0180004 + put a 15 + put b 11 + put n 6 + put c 5))
  | .relslot a b => some (BitVec.ofNat 32 (0xB0200000 + put a 14 + put b 9))
  | .dictld a => some (BitVec.ofNat 32 (0xB0280000 + put a 14))
  | .waitc a b => some (BitVec.ofNat 32 (0xB0300000 + put a 14 + put b 9))
  | .waitr a => some (BitVec.ofNat 32 (0xB0380000 + put a 15))
  | .drainS => some (BitVec.ofNat 32 (0xB0400000))
  | .drainG => some (BitVec.ofNat 32 (0xB0480000))
  | .drainM => some (BitVec.ofNat 32 (0xB0500000))
  | .rstatState d => some (BitVec.ofNat 32 (0xB0580000 + put d 14))
  | .rstatGeneration d => some (BitVec.ofNat 32 (0xB0580040 + put d 14))
  | .rstatFault d => some (BitVec.ofNat 32 (0xB0580080 + put d 14))
  | .rstatCredit d b => some (BitVec.ofNat 32 (0xB05800C0 + put d 14 + put b 9))
  | .lease a => some (BitVec.ofNat 32 (0xB1000000 + put a 14))
  | .unlease => some (BitVec.ofNat 32 (0xB1080000))
  | .ploadw a => some (BitVec.ofNat 32 (0xB1100000 + put a 14))
  | .pstream a => some (BitVec.ofNat 32 (0xB1180000 + put a 14))
  | .pdrain a => some (BitVec.ofNat 32 (0xB1200000 + put a 14))
  | .dleave n k g => some (BitVec.ofNat 32 (0xB1280000 + put n 14 + put k 11 + put g 10))
  | .pstatState d => some (BitVec.ofNat 32 (0xB1300000 + put d 14))
  | .pstatFault d => some (BitVec.ofNat 32 (0xB1300040 + put d 14))
  | .pstatRow d b => some (BitVec.ofNat 32 (0xB1300080 + put d 14 + put b 9))
  | .trcfg a => some (BitVec.ofNat 32 (0xB2000000 + put a 14))
  | .trbin a => some (BitVec.ofNat 32 (0xB2080000 + put a 15))
  | .trupd a => some (BitVec.ofNat 32 (0xB2100000 + put a 15))
  | .trpairs a n => some (BitVec.ofNat 32 (0xB2180000 + put a 15 + put n 10))
  | .trstatState d => some (BitVec.ofNat 32 (0xB2200000 + put d 14))
  | .trstatFault d => some (BitVec.ofNat 32 (0xB2200040 + put d 14))
  | .trstatCell d b => some (BitVec.ofNat 32 (0xB2200080 + put d 14 + put b 9))
  | .trrel => some (BitVec.ofNat 32 (0xB2280000))
  | .caskrec a => some (BitVec.ofNat 32 (0xB3000000 + put a 14))
  | .caskend d => some (BitVec.ofNat 32 (0xB3080000 + put d 14))
  | .decant d b => some (BitVec.ofNat 32 (0xB3100000 + put d 14 + put b 9))
  | .caskdrop a => some (BitVec.ofNat 32 (0xB3180000 + put a 14))
  | .cstatTape d b => some (BitVec.ofNat 32 (0xB3200000 + put d 14 + put b 9))
  | .cstatFree d => some (BitVec.ofNat 32 (0xB3200040 + put d 14))
  | .cstatNext d b => some (BitVec.ofNat 32 (0xB3200080 + put d 14 + put b 9))
  | .syscall i => some (BitVec.ofNat 32 (0xC0000000 + put i 0))
  | .brk i => some (BitVec.ofNat 32 (0xC0100000 + put i 0))
  | .resume d a b => some (BitVec.ofNat 32 (0xC0200000 + put d 15 + put a 10 + put b 5))
  | .abort d a => some (BitVec.ofNat 32 (0xC0300000 + put d 15 + put a 10))
  | .slotrd d a b => some (BitVec.ofNat 32 (0xC0400000 + put d 15 + put a 10 + put b 5))
  | .slotwr s a b => some (BitVec.ofNat 32 (0xC0500000 + put s 15 + put a 10 + put b 5))
  | .fqpop d a b => some (BitVec.ofNat 32 (0xC0600000 + put d 15 + put a 10 + put b 5))
  | .fqwait d a => some (BitVec.ofNat 32 (0xC0700000 + put d 15 + put a 10))
  | .kret => some (BitVec.ofNat 32 (0xC0800000))
  | .hint i => some (BitVec.ofNat 32 (0xF8000000 + put i 0))
  | .admission _ => none
  | .candidateAging _ _ => none
  | .mailbox _ => none
  | .decrementStep _ _ => none
  | .readyRingPush _ => none
  | .creditReturn _ _ => none
  | .pumpAnswer _ _ => none
  | .loadReplyLand _ _ => none
  | .performLoad _ _ => none
  | .performStore _ _ => none
  | .performAtomic _ _ => none
  | .performReduction _ _ => none
  | .performMessage _ => none
  | .performEngineEntry _ _ => none
  | .fenceDone _ => none
  | .waitDone _ => none
  | .commit _ => none
  | .sealedEffectEnqueue _ _ => none
  | .roleDone _ => none
  | .jobStart _ => none
  | .granuleByte _ _ _ _ _ _ => none
  | .count _ _ _ => none
  | .dictldPerform _ => none
  | .leaseArbitration _ => none
  | .leaveGiven _ => none
  | .pressCommandStart _ => none
  | .pressCommandComplete _ => none
  | .unleaseAct _ => none
  | .leaseCycleLimit _ => none
  | .leaseIdleEnd _ => none
  | .drainDelivery _ => none
  | .trcfgPerform _ => none
  | .trbinPerform _ => none
  | .trupdPerform _ => none
  | .trpairsStart _ => none
  | .emit _ _ => none
  | .trrelPerform _ => none
  | .decantRecordIssue _ => none
  | .faultQueueEntry _ _ => none
  | .missPost _ _ => none
  | .mqpop _ => none
  | .mqcnt _ => none
  | .fill _ _ => none
  | .refuse _ _ => none
  | .recpop _ => none
  | .recfwd _ => none
  | .invgo _ => none
  | .pzgo _ => none
  | .mgo _ => none
  | .migrationCopied => none
  | .migrationAbandon => none
  | .mend => none
  | .ckrecl _ => none
  | .doorbell _ => none
  | .qreset _ => none
  | .launchRecordFetch _ => none
  | .launchStart _ _ => none
  | .groupCompletion _ => none
  | .sliceEnd _ => none
  | .preq _ => none
  | .taskLevelSave _ => none
  | .graceTimerExpiry _ => none
  | .saveComplete _ => none
  | .killTimerExpiry _ => none
  | .pkill _ => none
  | .groupResume _ _ => none
  | .correctedError _ => none
  | .uncorrectableError _ => none
  | .tscld _ => none
  | .tscLoadComplete _ => none
  | .treeResultDeliver _ => none
  | .reductionPacketPerform _ => none
  | .linkFailure _ _ => none
  | .powerOn _ => none
  | .bootRetry _ => none
  | .kstart _ _ => none
  | .kernelImageVerified _ => none
  | .mbTemperature => none
  | .mbRail => none
  | .mbPowerLimit _ => none
  | .mbStandby => none
  | .mbst => none
  | .fqwaitTimeout _ => none
  | .registerWrite _ _ _ => none
  | .illegalInstruction _ => none
  | .instructionFetchFault => none
  | .vectorQueueServe _ => none
  | .mbcmdDone => none

end Sys2Proof
end

