-- ==== Sys2Proof/Config.lean ====
section
/-! DEFINITION. What the spec leaves open and the device settles: constants without a body, so that no proof can learn
their values, and the structural figures of the device (R1, R10, R363, R365, R367). -/

namespace Sys2Proof.Config

/-- A fresh value each time, for a choice or a value that the spec leaves open: the argument is `State.fresh`, which
every use advances (log entries 10 and 11). -/
opaque freeWord : Nat → Word

/-- The SHA-384 digests of the two public keys that the boot ROM holds: of the P-384 key, and of the LMS key (R416; log entry
12). -/
opaque romDigest : (lms : Bool) → List Byte

/-- Whether a tie between `lower` and `lower` + 1 units of 2^`exp` goes up in RNE, for a format without fraction bits: R97
names the value with an even last fraction bit, and such a format has none (log entry 26). -/
opaque tieUp : (lower : Nat) → (exp : Int) → Bool

/-- Which entry of a full TLB a new one displaces, from the time and the entries that it holds: the hardware's choice (R365; log
entry 45). -/
opaque tlbVictim : (now : Nat) → (entries : List (Word × Word)) → Nat

/-- Small cores of a cluster, the spare included (R10). -/
def coresPerCluster : Nat := 17

/-- Clusters of the device, the spares included (R346). -/
def clusters : Nat := 272

/-- Clusters of one die (R346). -/
def clustersPerDie : Nat := 68

/-- The first slice offset that is no ordinary scratchpad (Table 1-7). -/
def sliceTop : Nat := 0x3FF00

/-- Bytes of a slice (R22). -/
def sliceSize : Nat := 0x40000

/-- Bytes of HBM (Table 0-1, R363). -/
def hbmSize : Nat := 768 * 2 ^ 30

/-- The base of the cistern (R363). -/
def cisternBase : Nat := 0x01000000000000

/-- Bytes of the cistern (Table 0-1, R363). -/
def cisternSize : Nat := 2 * 2 ^ 40

/-- The base of host memory (R363). -/
def hostBase : Nat := 0x02000000000000

/-- The first address after host memory (R363). -/
def hostEnd : Nat := 0xFF000000000000

/-- The base of the cluster translation windows (R363). -/
def clusterWindow : Nat := 0xFF000000000000

/-- The base of the device translation window (R363). -/
def deviceWindow : Nat := 0xFF000100000000

/-- The base of the dispatch window (R363). -/
def dispatchWindow : Nat := 0xFF000200000000

/-- The base of the partition window (R363). -/
def partitionWindow : Nat := 0xFF000300000000

/-- The base of the board window (R363). -/
def boardWindow : Nat := 0xFF000400000000

/-- The size of each window but a cluster's (R363). -/
def windowSize : Nat := 0x10000

/-- HBM bytes of one of the 192 channels (Table 22-1: channel h is of stack h div 16); the spec gives no mapping of
addresses to channels, and the model takes equal contiguous ranges (log entry 13). -/
def hbmChannelSize : Nat := hbmSize / 192

end Sys2Proof.Config
end

