-- ==== Sys2Proof/Machine/State.lean ====
section
/-! DEFINITION. The state of the device, as plain data: every register, memory, queue and unit that the spec names, the
faults and refusals, and the state right after reset. -/

namespace Sys2Proof.Machine

/-- A finite table.  A key that is not listed has the default value that the accessor of the table names; the first entry
of a key is the one that counts. -/
abbrev Table (κ α : Type) := List (κ × α)

/-- Byte memory in canonical form: addresses strictly rising, no entry equal to what an unlisted address reads as
(zero, R24). -/
abbrev Memory := List Host.Cell

/-! ### Regions and descriptors -/

/-- One dimension of a box of a region register: bounds, step and phase (Table 8-2). -/
structure Dim where
  lo : Int
  hi : Int
  st : Nat
  ph : Nat
deriving DecidableEq, Repr

/-- A region register: the 576-byte image of Tables 8-1 and 8-2 without its reserved words. -/
structure Region where
  didx : Nat
  rank : Nat
  isOver : Bool
  strided : Bool
  ragged : Bool
  rsh0 : Int
  rshi : Int
  boxes : List (List Dim)
deriving DecidableEq, Repr

/-- The zero image: rank 1, descriptor 0, no boxes, no flags (R186). -/
def Region.zero : Region :=
  ⟨0, 1, false, false, false, 0, 0, []⟩

/-- A tensor descriptor as a unit has read it (Table 8-3), with the cellar address it was read from. -/
structure Desc where
  addr : Nat
  base : Nat
  fmt : BitVec 32
  ltv : Bool
  space : Nat
  rank : Nat
  ext : List Nat
  str : List Int
  ltab : Nat
  words : List Word
deriving DecidableEq, Repr

/-! ### Entries of the ordering machine -/

/-- A place that holds bytes: a slice offset of a role of a launch, a device-physical address, or an address of a peer
device (R272). -/
inductive Loc where
  | slice (launch role off : Nat)
  | mem (pa : Nat)
  | peer (dev pa : Nat)
deriving DecidableEq, Repr

/-- The ordering kind of what an entry touches: no page (slices, messages), or a page of kind SO, RC or UN (R25). -/
inductive PageKind where
  | cellar
  | so
  | rc
  | un
deriving DecidableEq, Repr

/-- Operations of atomics and reductions (Table 7-6). -/
inductive AtomOp where
  | swap
  | cas
  | add
  | and
  | or
  | xor
  | min
  | max
  | minu
  | maxu
  | fadd
  | minp
deriving DecidableEq, Repr

/-- A message of 64 bytes as it travels (R34): header fields and the payload bytes 0 to 59. -/
structure Msg where
  kind : Nat
  len : Nat
  src : Nat
  extra : Nat
  channel : Nat
  payload : List Byte
deriving DecidableEq, Repr

/-- The commands of a racking engine (Table 9-3). -/
inductive RackKind where
  | rack
  | rackT
  | rackM
  | rackzC
  | rackzD
  | dictld
deriving DecidableEq, Repr

/-- A coder's block (R232 to R234): the source bytes read by position, the tokens or the words made of them, how many source bytes
they took, whether some of them were poisoned, and the positions of the made bytes that have been written. -/
structure Block where
  got : Table Nat Byte
  out : List Byte
  used : Nat
  tainted : Bool
  written : List Nat
deriving DecidableEq, Repr

/-- A racking command and, once in flight, its progress (R217 to R220, R237): the granules begun, those counted at each
receiver, the bytes written of each granule and receiver of a copy, the bits that its begun granules have read, with their poison,
a coder's blocks, and the entries that the accesses of the granules at hand were translated through.  `parked` is cause 0 and
an address while a miss holds the job, and the cause and the address of its fault record while it is parked on a fault; `doomed` is
the detail of a job that ends once the granules below `edge` have been performed and counted; `parkAt` is the granule that is
parked. -/
structure Job where
  id : Nat
  kind : RackKind
  word : IWord
  slot : Nat
  act : Nat
  launch : Nat
  role : Nat
  asid : Nat
  qa : Region
  qb : Region
  da : Desc
  db : Desc
  lta : List Nat
  ltb : List Nat
  params : List Word
  trans : List Int
  ctr : Option Nat
  start : Nat
  recv : List Nat
  dictAt : Nat
  begun : Nat
  counted : List Nat
  written : Table (Nat × Nat) (List Nat)
  got : Table (Nat × Nat) (List (Bool × Bool))
  blocks : Table Nat Block
  pages : Table (Nat × Nat) (Word × Word)
  parked : Option (Nat × Nat)
  doomed : Option (Nat × Nat)
  edge : Nat
  parkAt : Nat
deriving DecidableEq, Repr

/-- The commands of a press port (Table 10-2). -/
inductive PressKind where
  | unlease
  | ploadw
  | pstream
  | pdrain
deriving DecidableEq, Repr

/-- A press-port command with its latched operand block or word (R252). -/
structure PressCmd where
  id : Nat
  kind : PressKind
  slot : Nat
  act : Nat
  core : Nat
  launch : Nat
  role : Nat
  nroles : Nat
  addr : Nat
  block : List Word
  boxes : List (Nat × Nat)
  key : Nat
  ctr : Nat
  next : Nat
  latched : Table Nat Word
  reload : Bool
deriving DecidableEq, Repr

/-- The commands of a Trellis (Table 12-1). -/
inductive TrelKind where
  | trcfg
  | trbin
  | trupd
  | trpairs
  | trrel
deriving DecidableEq, Repr

/-- A Trellis command with what it latched at issue, and the cycle of its issue (R293); a TRPAIRS that a resume routine issues again
has the number of end messages that its stream has sent (R309). -/
structure TrelCmd where
  id : Nat
  kind : TrelKind
  slot : Nat
  act : Nat
  core : Nat
  launch : Nat
  role : Nat
  nroles : Nat
  asid : Nat
  qnum : Nat
  addr : Nat
  block : List Word
  region : Region
  desc : Desc
  lt : List Nat
  ctrl : Word
  boxes : List (Nat × Nat)
  issuedAt : Nat
  ends : Nat
deriving DecidableEq, Repr

/-- A command of an engine entry (R281). -/
inductive EngCmd where
  | rack (j : Job)
  | press (c : PressCmd)
  | trel (c : TrelCmd)
deriving DecidableEq, Repr

/-- What PERFORM of an entry does (R276, R280, R281, Table 11-3).  Loads and returning atomics name the load record that collects their
data; a status read holds its answer (log entry 38); a tree load reads a TEXT word (R406); `seen` counts the buffered effects that were
there when a load issued (R49), `vec` marks a .V store (R174). -/
inductive Payload where
  | load (rec : Nat) (loc : Loc) (n seen : Nat)
  | ldf (rec : Nat) (loc : Loc)
  | store (loc : Loc) (bytes : List Byte) (nibble : Option Bool) (vec : Bool)
  | atomic (rec : Nat) (loc : Loc) (op : AtomOp) (dbl : Bool) (y cmp : Word)
  | reduce (loc : Loc) (op : AtomOp) (dbl : Bool) (y : Word)
  | empw (loc : Loc)
  | fulw (loc : Loc)
  | few (rec : Nat) (loc : Loc)
  | tree (rec : Nat) (loc : Loc)
  | message (dst : Nat) (m : Msg)
  | decr (loc : Loc) (n : Nat)
  | credit (role count : Nat)
  | inject (ctl value : Word)
  | status (rec : Nat) (answer : Word)
  | engine (c : EngCmd)
deriving DecidableEq, Repr

/-- An entry of an access queue (R271): the bytes it touches are those of its payload's place, `va` is its virtual or
cellar address, `chain` names an earlier element of the same gather or scatter (R156), `tlb` the translation entry it went
through (R370). -/
structure Entry where
  id : Nat
  acq : Bool
  rel : Bool
  page : PageKind
  va : Nat
  what : Payload
  chain : Option Nat
  tlb : Option (Word × Word)
deriving DecidableEq, Repr

/-- Where the data of a load goes: an X register, a V register, element `j` of `w` bytes of a V register, or nowhere,
once the activation that issued it has ended (Table 5-15). -/
inductive LoadDst where
  | x (d : BitVec 5)
  | v (d : BitVec 5)
  | elem (d : BitVec 5) (w j : Nat)
  | nowhere
deriving DecidableEq, Repr

/-- A buffered global effect of an atomic task (R47, Table 2-9); it holds virtual addresses (R175). -/
inductive Effect where
  | store (va : Nat) (bytes : List Byte) (nibble : Option Bool) (vec : Bool)
  | reduce (va : Nat) (op : AtomOp) (dbl : Bool) (y : Word)
  | message (dst : Nat) (m : Msg)
  | rack (j : Job)
deriving DecidableEq, Repr

/-! ### Contexts -/

/-- The states of Table 2-2, and those of a core that is held in reset, runs the boot ROM or has stopped
(R359, R417). -/
inductive Status where
  | free
  | running
  | blocked
  | stalled
  | yielded
  | parked
  | inReset
  | inRom
  | stopped
deriving DecidableEq, Repr

/-- A register that carries a full/empty bit. -/
inductive RegName where
  | x (n : BitVec 5)
  | v (n : BitVec 5)
deriving DecidableEq, Repr

/-- The queue or resource whose room a STALLED slot waits for (R12, R40, R63, R131, R225, R293, R407). -/
inductive Resource where
  | racking
  | press
  | vector
  | send
  | ring
  | pump
  | credits
  | trellis
  | tree
deriving DecidableEq, Repr

/-- What keeps a RUNNING slot from issuing (R29, R274): a fence of a kind over spaces and a scope, whose set is the entries
before `before`; a wait; a load, gather or command that keeps its slot; a miss of an address; the commit of a sealed buffer; a decant;
FQWAIT. -/
inductive Hold where
  | fence (loadsOnly : Bool) (scope : Nat) (s g : Bool) (before : Nat)
  | waitc (off : Nat) (target : Nat)
  | jobs (ids : List Nat)
  | gather (d : BitVec 5) (emptied : Bool) (recs : List Nat) (trap : Option (Nat × Nat × Word))
  | command (id : Nat)
  | miss (va : Nat)
  | commit
  | decant
  | fqwait (d : BitVec 5) (until_ : Option Nat)
deriving DecidableEq, Repr

/-- A pending redirect: the address to fetch after the last delay slot, and the delay slots still to execute (R81). -/
structure Redirect where
  target : Addr
  nds : Nat
deriving DecidableEq, Repr

/-- A repeat frame in flight (R84): the address of its REPF, its lengths and strides, the pass and the body index, and the
body words captured so far (R82). -/
structure Frame where
  base : Addr
  n : Nat
  m : Nat
  sd : Nat
  sa : Nat
  sb : Nat
  j : Nat
  i : Nat
  body : Table Nat IWord
deriving DecidableEq, Repr

/-- The control of a context: where it is, the word it issues (as a repeat frame has changed it), and what keeps it.
`refusal` is the page and the cause of a REFUSE that answered its miss (R369).  `late` is the cycle until which the rotation may skip
the slot, for a result that is on its way or for a hold (R29, R110; log entry 5). -/
structure Control where
  status : Status
  pc : Addr
  iword : IWord
  redirect : Option Redirect
  frame : Option Frame
  awaits : Option RegName
  stallOn : Option Resource
  hold : Option Hold
  refusal : Option (Nat × Nat)
  quiesced : Bool
  late : Nat
deriving DecidableEq, Repr

/-- A load in flight: its parts by entry, the nibble it selects, and what its performed parts returned (R169, R174); `so` when
it touches an SO page.  A load that keeps its slot (R110, R174: of the own slice, and a cellar atomic on the own role) has in
`own` the control with which it issued, at which its trap is taken, and in `spare` what it read when a later instruction
issued past it (log entry 18). -/
structure LoadRec where
  id : Nat
  dst : LoadDst
  parts : List (Nat × Option (List Byte))
  nibble : Option Bool
  poison : Option Nat
  so : Bool
  own : Option Control
  spare : Option (List Byte)
deriving DecidableEq, Repr

/-- The register files of a context (R27, R54, R174): the X, V, P, Q and FMT registers, and the full/empty bits and poison
marks of X and V. -/
structure Regs where
  x : Vector Word 32
  v : Vector VReg 32
  p : Vector Word 8
  q : Vector Region 16
  fmt : Vector (BitVec 32) 16
  xEmpty : BitVec 32
  vEmpty : BitVec 32
  xPoison : BitVec 32
  vPoison : BitVec 32
deriving DecidableEq, Repr

/-- The trap registers and the return record (R345, R346, R348). -/
structure TrapRegs where
  cause : Word
  faddr : Word
  epc : Word
  btgt : Word
  prog : Word
  frame : Word
  utvec : Word
  uepc : Word
  ubtgt : Word
  uframe : Word
  uh : Bool
  seq : BitVec 16
deriving DecidableEq, Repr

/-- The other per-slot registers: C.SEED, C.FSTAT, C.TCB, DTBASE, C.SLOT.EPRIO, C.PRIV.PL, TCTL (R28, R100, R102, R121, R188, R342, R406),
and a cellarer core's C.KTVEC, C.KSTAT, C.KSCR and C.FQW0 to C.FQW4 (Table 18-5), and the cycle at which the core left reset (Table 5-12;
slots use their core's). -/
structure SlotRegs where
  seed : Word
  fstat : Word
  tcb : Word
  dtbase : Word
  eprio : Nat
  pl : Bool
  tctl : Word
  ktvec : Word
  kstat : Word
  kscr : Word
  fqw : Vector Word 5
  cycleBase : Nat
deriving DecidableEq, Repr

/-- The activation a slot runs (R28, R30, R36, R48): its source (X3), whether X2 named a mailbox entry and whether that
entry was forgotten, the latched TCB words and footprint boxes, the drain-buffer entry it holds, the use and the contents of
its retire buffer, the pages and causes its commit was refused (R175), whether that buffer is sealed, whether DONE ends it, and
since when it is YIELDED.  `id` tells one activation from another. -/
structure Activation where
  id : Nat
  source : Nat
  named : Bool
  forgotten : Bool
  join : Word
  ctl : Word
  boxes : List Word
  drain : Option Nat
  used : Nat
  buffer : List Effect
  refused : List (Nat × Nat)
  sealed : Bool
  done : Bool
  yieldedAt : Nat
  aged : Bool
deriving DecidableEq, Repr

/-- The view a slot has of a tile (R160): its state 0 UNCONF, 1 RESIDENT, 2 OUT, and its shape word. -/
structure TileView where
  state : Nat
  shape : Word
deriving DecidableEq, Repr

/-- What a slot has to report of a recording (R315, R318): nothing, the tape it records, or the detail of an abandoned
recording and its tape. -/
inductive CaskNote where
  | none
  | recording (tape : Nat)
  | abandoned (tape detail : Nat)
deriving DecidableEq, Repr

/-- A thread context: a slot of a small core, a cellarer core, or a TSC.  `scatter` is the last store entry of a scatter that
trapped, which the stores of its re-execution follow (R156); `issuedAt` is the cycle in which a cellarer core or a TSC last
issued. -/
structure Ctx where
  ctl : Control
  regs : Regs
  trap : TrapRegs
  sp : SlotRegs
  act : Activation
  tiles : Vector TileView 8
  rackFault : Word
  pressFault : Word
  trelFault : Word
  cask : CaskNote
  decantTape : Nat
  decantDst : BitVec 5
  decantPv : List Word
  queue : List Entry
  loads : List LoadRec
  scatter : Option Nat
  issuedAt : Option Nat
deriving DecidableEq, Repr

/-! ### Small cores -/

/-- Where a core stands: in service, held as the cluster's spare, or quarantined (R10, R402). -/
inductive CoreService where
  | enabled
  | spare
  | quarantined
deriving DecidableEq, Repr

/-- The role bound to a core (R16, R17, R58, R363). -/
structure Binding where
  launch : Nat
  role : Nat
  stage : Nat
  srank : Nat
  sroles : Nat
  nroles : Nat
  nstages : Nat
  asid : Nat
  ended : Bool
  done : Bool
  admits : Bool
deriving DecidableEq, Repr

/-- A handler-table entry (Table 2-4), with the cycle since which the channel is a candidate and its raise (R43, R44). -/
structure Handler where
  en : Bool
  pend : Bool
  run : Bool
  prio : Nat
  haddr : Nat
  tcbp : Nat
  mbase : Nat
  mlog : Nat
  mv : Bool
  head : Nat
  tail : Nat
  since : Nat
  aged : Bool
deriving DecidableEq, Repr

/-- C.LEASE (Table 10-4) with the cycle of the grant and the cycle since which the port is idle (R248). -/
structure Lease where
  held : Bool
  req : Bool
  wv : Bool
  lv : Bool
  pcls : Nat
  prio : Nat
  cmds : Nat
  rows : Nat
  row0 : Nat
  cyc : Nat
  idle : Nat
deriving DecidableEq, Repr

/-- A tile (R160): the slot it is resident for, its contents row by row of 16, and DIRTY. -/
structure Tile where
  owner : Option Nat
  dirty : Bool
  cells : Vector (BitVec 32) 256
deriving DecidableEq, Repr

/-- A result waiting in TEXT (R406, Table 22-4). -/
structure TextResult where
  status : Word
  value : Word
deriving DecidableEq, Repr

/-- A sealed buffer whose messages and racking commands still wait for room (R51, R52). -/
structure SealedBuf where
  slot : Nat
  rest : List Effect
deriving DecidableEq, Repr

/-- A translation entry (Table 19-1) with its access count (R374) and whether it has posted HOT. -/
structure TlbEntry where
  w0 : Word
  w1 : Word
  hot : Nat
  posted : Bool
deriving DecidableEq, Repr

/-- A small core with the units of Table 1-1 (the slots stand in `State.ctxs`).  `ringHead` is HEAD of the ready ring (R40, Table 20-7),
`drainAt` gives the drain-buffer entry of the notice at a mailbox index of channel 0, `sendQueue` gives each message its access-queue
entry, or a number that no queue holds for one of a committed buffer, and its receiver; `loader` the address, the slot and the activation
of the PLOADW whose block is latched (R267), `mailLast` the cycle and the SRC of the message that a channel's mailbox took last (R35). -/
structure Core where
  service : CoreService
  binding : Option Binding
  slice : Memory
  emptyWords : List Nat
  poisonWords : List Nat
  dirty : BitVec 256
  handlers : Table Nat Handler
  ring : List Nat
  ringHead : Nat
  ringSince : Nat
  ringAged : Bool
  ringInput : List Nat
  sched : Word
  lease : Lease
  latched : Option (List Word)
  loader : Nat × Nat × Nat
  rackQueue : List Job
  inflight : Table Nat Job
  vecQueue : List Nat
  pressQueue : List PressCmd
  sendQueue : List (Nat × Nat × Msg)
  mcred : Table Nat Nat
  dict : Table Nat Word
  dictGen : Word
  drain : Table Nat (List VReg)
  drainAt : Table Nat Nat
  mailLast : Table Nat (Nat × Nat)
  tiles : Table Nat Tile
  text : List TextResult
  treeOpen : Nat
  injected : Table (Nat × Nat) Nat
  sealed : List SealedBuf
  pumpOut : Nat
  utlb : List (Word × Word)
  lastSlot : Nat
  lastIssue : Option Nat
  cycleBase : Nat
deriving DecidableEq, Repr

/-! ### Clusters -/

/-- The states of Table 10-6; a started command is held with the press. -/
inductive PressState where
  | free
  | asking (core : Nat)
  | held (core : Nat)
  | busy (core : Nat) (cmd : PressCmd)
deriving DecidableEq, Repr

/-- An accumulator row (R105, R106): the group it is tagged with, its mode and anchor, and per column the 72-bit sum S with
its flag OVF (anchored), or an FP64 pattern (float). -/
structure AccRow where
  tag : Option Nat
  anchored : Bool
  anchor : Int
  cells : Vector (BitVec 72) 128
  ovf : BitVec 128
  bad : BitVec 128
deriving DecidableEq, Repr

/-- The weight tile a press holds: the core whose block it is, FMTB, K, and the K × 128 expanded weights as BF16 or FMTB
patterns with their scale bytes (R103, R104, R255). -/
structure Weights where
  core : Nat
  fmtb : BitVec 32
  k : Nat
  bits : List (BitVec 16)
  scales : List Byte
deriving DecidableEq, Repr

/-- The press of a cluster (R243 to R270). -/
structure Press where
  state : PressState
  weights : Option Weights
  rows : Table Nat AccRow
  source : Table Nat AccRow
  last : Nat
deriving DecidableEq, Repr

/-- The states of Table 12-6. -/
inductive TrelState where
  | free
  | empty
  | binned
  | stale
deriving DecidableEq, Repr

/-- A running stream (R301): its command, messages formed, tests made, pairs held, pairs per receiver, end messages sent,
and what it is parked or refused on (R306). -/
structure Stream where
  cmd : TrelCmd
  formed : Nat
  tested : Nat
  held : List (List Byte)
  counts : List Nat
  ends : Nat
  parked : Option (Nat × Nat)
deriving DecidableEq, Repr

/-- The Trellis of a cluster (R289): state, owner, latched block, NPART, the bins, the queue, a running stream, and the cycle and
the core of the entry that arrived last (R293). -/
structure Trellis where
  state : TrelState
  owner : Option Nat
  block : List Word
  npart : Nat
  bins : Table Nat (List Nat)
  queue : List TrelCmd
  stream : Option Stream
  last : Option (Nat × Nat)
deriving DecidableEq, Repr

/-- The states of Table 13-10. -/
inductive TapeState where
  | empty
  | recording
  | sealed
  | decanting
  | paused
deriving DecidableEq, Repr

/-- A guard of a tape (R317) with FIRST. -/
inductive Guard where
  | desc (first didx : Nat) (words : List Word)
  | press (first : Nat) (fmtb : BitVec 32)
  | gen (first start : Nat) (g : BitVec 32)
deriving DecidableEq, Repr

/-- A command record of a tape (R315, R319): the word, the operand words, and for each patched address word its entry. -/
structure TapeCmd where
  word : IWord
  ops : List Word
  marks : Table Nat Nat
deriving DecidableEq, Repr

/-- A tape (R312 to R319): state, tenant, KEY, the recording or decanting context, the recording patch entries, guards,
command records, NPV, NEXT, the lines that hold an uncorrectable error (R328), the saved launch that a PAUSED tape waits for
(R327), and the number of its first record, which is not 0 for one restored from its remaining lines. -/
structure Tape where
  state : TapeState
  tenant : Nat
  key : Nat
  owner : Option Agent
  patches : List (Nat × Nat × Nat)
  guards : List Guard
  cmds : List TapeCmd
  npv : Nat
  next : Nat
  badLines : List Nat
  savedFor : Option Nat
  base : Nat
deriving DecidableEq, Repr

/-- What a miss holds (Table 19-2): `view` until MQPOP, and the requesters that have joined it and ask again while they wait (a
Trellis command, a commit), each of which counts once. -/
structure Miss where
  kind : Nat
  vpn : Nat
  asid : Nat
  tag : Nat
  count : Nat
  hwid : Nat
  src : Nat
  role : Nat
  view : Bool
  askers : List Nat
deriving DecidableEq, Repr

/-- A miss at the cluster TLB that has not been posted (R367): the page, whether it is HOT, and the requester, where it asks again
while it waits. -/
structure MissWait where
  kind : Nat
  va : Nat
  asid : Nat
  hwid : Nat
  src : Nat
  role : Nat
  asker : Option Nat
deriving DecidableEq, Repr

/-- A fault record (Table 18-10). -/
structure FaultRec where
  token : Word
  cause : Word
  faddr : Word
  epc : Word
  btgt : Word
  prog : Word
  frame : Word
  owner : Word
deriving DecidableEq, Repr

/-- A record on its way to the fault queue (R352): the cycle in which it was sent, the physical core of its source, and whether an
engine sent it. -/
structure SentRec where
  rec_ : FaultRec
  at_ : Nat
  core : Nat
  engine : Bool
deriving DecidableEq, Repr

/-- A cluster with the shared units of Table 1-2. -/
structure Cluster where
  press : Press
  trellis : Trellis
  tapes : Table Nat Tape
  ckSel : Word
  tlb : List TlbEntry
  misses : List Miss
  missWaits : List MissWait
  bad : Bool
  ent0 : Word
  ent1 : Word
  view : List FaultRec
  kernelQueue : List FaultRec
  pending : List SentRec
  barrier : Table Nat Nat
  tscLoading : Bool
deriving DecidableEq, Repr

/-! ### The device -/

/-- The phases of Table 20-5, and that of a group that ends: one killed whose sealed buffers still commit (R51), or one whose
completion word is still to be written (R384). -/
inductive Phase where
  | run
  | soft
  | saving
  | saved
  | ending
deriving DecidableEq, Repr

/-- What an activation keeps across a full save beside its slot record (log entry 14): its number, its drain-buffer entry,
what it has to report of a recording, whether its redirect was pending, and the tapes it had PAUSED. -/
structure KeptAct where
  id : Nat
  drain : Option Nat
  cask : CaskNote
  delayed : Bool
  tapes : List Nat
deriving DecidableEq, Repr

/-- What a role keeps across a save beside its save area (R409; log entry 14): the core it was saved from, the drain-buffer
entries of waiting notices, its results in TEXT, its open operations, its injection counts, TCTL and C.SEED of each slot,
whether DONE was executed for it, the TRPAIRS that the resume routine issues again (R309), what its activations by slot and
its unfinished jobs in record order keep, codelets that wait for the ready ring, the empty and poisoned words of its
slice, what C.LEASE's latched block came from, and the accesses of its slots to other roles that are held (R19, R394). -/
structure Kept where
  core : Nat
  drainAt : Table Nat Nat
  text : List TextResult
  treeOpen : Nat
  injected : Table (Nat × Nat) Nat
  tctl : List Word
  seeds : List Word
  ended : Bool
  pairs : List TrelCmd
  acts : Table Nat KeptAct
  jobs : List Job
  ringInput : List Nat
  emptyWords : List Nat
  poisonWords : List Nat
  loader : Nat × Nat × Nat
  held : List (Nat × Entry)
deriving DecidableEq, Repr

/-- A query on its way to the pump (R63). -/
structure Query where
  core : Nat
  role : Nat
  off : Nat
deriving DecidableEq, Repr

/-- A pump and its walk (R61), with the cycle and the role of the query that arrived last (R63). -/
structure Pump where
  nx : Nat
  ny : Nat
  nz : Nat
  order : Nat
  code : Nat
  seq : Nat
  queries : List Query
  last : Option (Nat × Nat)
deriving DecidableEq, Repr

/-- A group from its binding to its completion (R380 to R393), and a launch that was refused (R382).  `frecs` holds the fault
entries whose write still waits for a translation, `status` the status of its completion word once it ends, `forQueue` the
queue whose waiting launch started its ladder (R385). -/
structure Group where
  queue : Nat
  tenant : Nat
  asid : Nat
  prio : Nat
  partition : Nat
  record : List Word
  stages : List Nat
  nstages : Nat
  cores : List Nat
  doneRoles : List Nat
  reported : List Nat
  pump : Option Pump
  phase : Phase
  sliceAt : Nat
  sliceLen : Nat
  softAt : Nat
  step : Nat
  faults : Nat
  afterDone : Bool
  status : Nat
  forQueue : Option Nat
  frecs : List (Nat × Word × Word)
  kept : Table Nat Kept
deriving DecidableEq, Repr

/-- A launch queue (Table 20-2) with the last validated write index and the records fetched but not started. -/
structure LaunchQueue where
  base : Word
  size : Word
  widx : Word
  ridx : Word
  stat : Nat
  reason : Nat
  valid : Nat
  records : List (List Word)
  ring : Bool
deriving DecidableEq, Repr

/-- The dispatch window and the dispatcher (Table 20-1, R383).  `asked` holds the ASIDs and pages of the dispatcher's own open
misses, `refused` those, with their causes, that a REFUSE answered. -/
structure Dispatch where
  tgrace : Word
  tkill : Word
  qerr : BitVec 256
  slice : Table Nat Word
  debt : Table Nat Word
  qcfg : Table Nat Word
  qpart : Table Nat Nat
  queues : Table Nat LaunchQueue
  lastLaunch : Nat
  lastTenant : Table Nat Nat
  lastQueue : Table (Nat × Nat) Nat
  reserved : Table Nat (List Nat)
  frozen : List Nat
  asked : List (Nat × Nat)
  refused : List (Nat × Nat × Nat)
  reclaims : List (Nat × Nat × Nat)
deriving DecidableEq, Repr

/-- The page under migration, as MGO found it (R375): its source, its new place, its virtual base, ASID and SIZE, and the number of
granules of 512 bytes that have been copied. -/
structure Moving where
  src : Loc
  dst : Nat
  va : Nat
  asid : Nat
  size : Nat
  copied : Nat
deriving DecidableEq, Repr

/-- The device translation window (Table 19-4), the generations (R372), each the sum of `genAll` and its own entry, and the
page under migration. -/
structure Translation where
  inva : Word
  invn : Word
  pzb : Word
  migt : Word
  mva : Word
  mdst : Word
  mstat : Nat
  moving : Option Moving
  gens : Table Nat (BitVec 32)
  genAll : BitVec 32
deriving DecidableEq, Repr

/-- The partition window (Table 22-1); `failing` lists the cores and clusters that have stopped and still wait to be quarantined
(R402, R403). -/
structure Partition where
  cpart : Table Nat Nat
  spare : List Nat
  quar : List Nat
  kpart : Table Nat Nat
  hpart : Table Nat Nat
  epart : Table Nat Nat
  tscimg : Word
  tscst : Nat
  failing : List ErrWhere
deriving DecidableEq, Repr

/-- The board window (Table 23-3) and the board controller, with the cycle and the core of the write of MBCMD that it runs (R422); `entry`
is where each cellarer core started, which is where containment restarts it (R404). -/
structure Board where
  domain : Word
  kimg : Table Nat Word
  kst : Table Nat Nat
  kmask : Table Nat Nat
  entry : Table Nat Nat
  mbrsp : Word
  mbst : Nat
  command : Word
  commandAt : Nat
  commandBy : Nat
  limit : Nat
  powered : Bool
deriving DecidableEq, Repr

/-- The host window (Table 23-2), the boot attempts, the raised MSI-X vectors, and the cycle at which the small cores left reset
(R417, R420; log entry 114). -/
structure HostPort where
  boot : Nat
  reason : Nat
  attempts : Nat
  retryAt : Nat
  cecnt : Word
  uecnt : Word
  mailh : Table Nat Word
  msix : List Nat
  coresOn : Option Nat
deriving DecidableEq, Repr

/-- A message in the mesh (R280): its number, launch and receiving role, and the drain-buffer entry that a drain notice
names (R262). -/
structure MeshMsg where
  id : Nat
  launch : Nat
  dst : Nat
  msg : Msg
  drain : Option Nat
deriving DecidableEq, Repr

/-- An operand of a combining operation (R407): the injecting role, its place in the order of injections, TCTL and the
value. -/
structure TreeOperand where
  role : Nat
  seq : Nat
  ctl : Word
  value : Word
deriving DecidableEq, Repr

/-- A combining operation (R407): the launch, set, TAG, number, the operands whose participants still wait for the result, and
the result once every operand has been taken. -/
structure TreeOp where
  launch : Nat
  pset : Nat
  group : Nat
  tag : Nat
  n : Nat
  operands : List TreeOperand
  result : Option TextResult
deriving DecidableEq, Repr

/-- A contribution of a reduction packet (R411): the device it comes from and its number among that device's packets to the peer,
and, where this device sent it, the access-queue entry that stays until it is performed, and the launch, role and address of the
reduction. -/
structure Contribution where
  dev : Nat
  seq : Nat
  entry : Nat
  launch : Nat
  role : Nat
  va : Nat
deriving DecidableEq, Repr

/-- A reduction packet on its way to a device (R411): the address, op and width, the value it carries (R107: an integer sum modulo
2^(w+8)), the bitmap of the devices that contribute, and their contributions; one that was sent again is not merged (R412). -/
structure Packet where
  dev : Nat
  pa : Nat
  op : AtomOp
  dbl : Bool
  sum : BitVec 72
  devices : BitVec 256
  from_ : List Contribution
  resent : Bool
deriving DecidableEq, Repr

/-- A choice of what the device does next: an agent issues, an event is taken, time passes, a restarted kernel has re-adopted its tenants
but those listed (R404), or a packet of other devices reaches a switch (R411).  `State.agenda` lists the choices that the environment has
already made, which is how the model says "any enabled transition may be taken" (R271) with one deterministic step. -/
inductive Move where
  | issue (a : Agent)
  | take (e : Instr)
  | elapse (n : Nat)
  | readopt (partition : Nat) (lost : List Nat)
  | packet (p : Packet)
deriving DecidableEq, Repr

/-- The state of the device.  `performed` holds the contributions that an endpoint has performed: the endpoint, the device that sent
it, and its number (R412). -/
structure State where
  ctxs : Table Agent Ctx
  cores : Table Nat Core
  clusters : Table Nat Cluster
  mem : Memory
  poison : List Nat
  peers : Table Nat Memory
  peerPoison : Table Nat (List Nat)
  unreachable : List Nat
  packets : List Packet
  packetSeq : Table Nat Nat
  performed : List (Nat × Nat × Nat)
  mesh : List MeshMsg
  tree : List TreeOp
  groups : Table Nat Group
  dispatch : Dispatch
  xlat : Translation
  parts : Partition
  board : Board
  hostPort : HostPort
  cur : Agent
  now : Nat
  agenda : List Move
  fresh : Nat
  nextId : Nat
deriving DecidableEq, Repr

/-- Why the device stops. -/
inductive Fault where
  /-- The board controller has removed power after the standby command (R421, Table 23-4): raised by every step of a device
  without power.  Safe: no device goes on without power. -/
  | noPower
deriving DecidableEq, Repr

/-- Why the model has no answer. -/
inductive Refusal where
  /-- The instruction has no meaning in this model yet: raised by an arm of `exec` only.  Safe: nothing is claimed of it. -/
  | notModelled (mnemonic : String)
deriving DecidableEq, Repr

/-! ### Reset -/

/-- Register files as the model resets them (log entry 1). -/
def Regs.reset : Regs :=
  ⟨Vector.replicate 32 0, Vector.replicate 32 0, Vector.replicate 8 0, Vector.replicate 16 Region.zero,
    Vector.replicate 16 0, 0, 0, 0, 0⟩

/-- The trap registers read zero (Tables 18-1 to 18-4, R345). -/
def TrapRegs.reset : TrapRegs :=
  ⟨0, 0, 0, 0, 0, 0, 0, 0, 0, 0, false, 0⟩

/-- The per-slot registers: C.KSTAT resets to PL = 1 (Table 18-8), the others to zero. -/
def SlotRegs.reset : SlotRegs :=
  ⟨0, 0, 0, 0, 0, false, 0, 0, 1, 0, Vector.replicate 5 0, 0⟩

/-- No activation; its source is no channel. -/
def Activation.none : Activation :=
  ⟨0, 64, false, false, 0, 0, [], Option.none, 0, [], [], false, false, 0, false⟩

/-- Nothing runs, at address zero. -/
def Control.reset (st : Status) : Control :=
  ⟨st, 0, 0, none, none, none, none, none, none, false, 0⟩

/-- A context in a given status with every register reset. -/
def Ctx.reset (st : Status) : Ctx :=
  ⟨Control.reset st, Regs.reset, TrapRegs.reset, SlotRegs.reset, Activation.none, Vector.replicate 8 ⟨0, 0⟩,
    0, 0, 0, .none, 0, 0, [], [], [], none, none⟩

/-- The reset context of an agent: cellarer core 0 runs the boot ROM, the other cellarer cores, the TSCs and the slots of the
small cores are held in reset (R417). -/
def Ctx.init : Agent → Ctx
  | .slot _ _ => Ctx.reset .inReset
  | .cel 0 => Ctx.reset .inRom
  | .cel _ => Ctx.reset .inReset
  | .tsc _ => Ctx.reset .inReset

/-- The context of an agent that nothing has changed: once the small cores have left reset, at the cycle given, a slot is FREE. -/
def Ctx.initial (on : Option Nat) (a : Agent) : Ctx :=
  match on, a with
  | some _, .slot _ _ => Ctx.reset .free
  | _, _ => Ctx.init a

/-- No lease (R244). -/
def Lease.none : Lease :=
  ⟨false, false, false, false, 0, 0, 0, 0, 0, 0, 0⟩

/-- An unlisted channel: every field zero (R32). -/
def Handler.zero : Handler :=
  ⟨false, false, false, 0, 0, 0, 0, 0, false, 0, 0, 0, false⟩

/-- A tile that is resident for no slot. -/
def Tile.zero : Tile :=
  ⟨Option.none, false, Vector.replicate 256 0⟩

/-- A core with no role.  Core 16 of a cluster is the spare (R10; log entry 2). -/
def Core.init (n : Nat) : Core :=
  ⟨if n % 17 = 16 then .spare else .enabled, none, [], [], [], 0, [], [], 0, 0, false, [], 0, Lease.none, none, (0, 0, 0),
    [], [], [], [], [], [], [], 0, [], [], [], [], [], 0, [], [], 0, [], 7, none, 0⟩

/-- A row in float mode with +0 in every column, tagged with no group. -/
def AccRow.zero : AccRow :=
  ⟨none, false, 0, Vector.replicate 128 0, 0, 0⟩

/-- A free press. -/
def Press.init : Press :=
  ⟨.free, none, [], [], 16⟩

/-- A free Trellis. -/
def Trellis.init : Trellis :=
  ⟨.free, none, [], 0, [], [], none, none⟩

/-- An empty tape. -/
def Tape.init : Tape :=
  ⟨.empty, 0, 0, none, [], [], [], 0, 0, [], none, 0⟩

/-- A cluster with nothing in it. -/
def Cluster.init : Cluster :=
  ⟨Press.init, Trellis.init, [], 0, [], [], [], false, 0, 0, [], [], [], [], false⟩

/-- A queue before its guest sets it up (Table 20-2; log entry 1). -/
def LaunchQueue.init : LaunchQueue :=
  ⟨0, 0, 0, 0, 0, 0, 0, [], false⟩

/-- The dispatch window: TGRACE and TKILL as Table 20-1 resets them; SLICE resets to 1,250,000 in every tenant. -/
def Dispatch.reset : Dispatch :=
  ⟨250000, 2500000, 0, [], [], [], [], [], 0, [], [], [], [], [], [], []⟩

/-- The device translation window: zero, idle (R372; log entry 1). -/
def Translation.reset : Translation :=
  ⟨0, 0, 0, 0, 0, 0, 0, none, [], 0⟩

/-- The partition window: every resource in partition 0 (R417); the last four clusters of each die are its spares
(log entry 2). -/
def Partition.reset : Partition :=
  ⟨[], [64, 65, 66, 67, 132, 133, 134, 135, 200, 201, 202, 203, 268, 269, 270, 271], [], [], [], [], 0, 0, []⟩

/-- The board window (log entry 1). -/
def Board.reset : Board :=
  ⟨0, [], [], [], [], 0, 0, 0, 0, 0, 3600, true⟩

/-- The host window: in ROM, no attempt made (Table 23-2). -/
def HostPort.reset : HostPort :=
  ⟨0, 0, 0, 0, 0, 0, [], [], none⟩

/-- The device right after power-on (R417). -/
def State.reset : State where
  ctxs := []
  cores := []
  clusters := []
  mem := []
  poison := []
  peers := []
  peerPoison := []
  unreachable := []
  packets := []
  packetSeq := []
  performed := []
  mesh := []
  tree := []
  groups := []
  dispatch := Dispatch.reset
  xlat := Translation.reset
  parts := Partition.reset
  board := Board.reset
  hostPort := HostPort.reset
  cur := .cel 0
  now := 0
  agenda := []
  fresh := 0
  nextId := 0

end Sys2Proof.Machine
end

