-- ==== Sys2Proof/Machine/Bits.lean ====
section
/-! DEFINITION. Bit fields, sign extension, byte order and tables: the helpers that the meanings use (R4, R9, R87). -/

namespace Sys2Proof.Machine

/-- Bits `hi` down to `lo` of a number. -/
def bits (n hi lo : Nat) : Nat :=
  n / 2 ^ lo % 2 ^ (hi + 1 - lo)

/-- Bits `hi` down to `lo` of a word (R4). -/
def wbits (w : Word) (hi lo : Nat) : Nat :=
  bits w.toNat hi lo

/-- A number as a word, modulo 2^64. -/
def toWord (n : Nat) : Word :=
  BitVec.ofNat 64 n

/-- An integer as a word, modulo 2^64. -/
def ofInt (n : Int) : Word :=
  BitVec.ofInt 64 n

/-- A Bool as 0 or 1. -/
def b2n (b : Bool) : Nat :=
  if b then 1 else 0

/-- The `w` low bits of a number read as a two's-complement integer: S() of the entries. -/
def signed (w n : Nat) : Int :=
  let m := n % 2 ^ w
  if 2 * m < 2 ^ w then (m : Int) else (m : Int) - 2 ^ w

/-- An integer modulo 2^`w`, as a number. -/
def wrap (w : Nat) (n : Int) : Nat :=
  (n % (2 ^ w : Int)).toNat

/-- Clamp of Table 4-1. -/
def clamp (x lo hi : Int) : Int :=
  if x < lo then lo else if hi < x then hi else x

/-- Word-sized arithmetic of the .W forms: the low 32 bits, sign-extended (Table 5-4). -/
def sextW (w : Word) : Word :=
  (w.extractLsb' 0 32).signExtend 64

/-- `n` bytes of a number, the lowest first (R4). -/
def toBytes : Nat → Nat → List Byte
  | 0, _ => []
  | n + 1, v => BitVec.ofNat 8 v :: toBytes n (v / 256)

/-- The number that bytes hold, the lowest first (R4). -/
def fromBytes : List Byte → Nat
  | [] => 0
  | b :: bs => b.toNat + 256 * fromBytes bs

/-- The eight bytes of a word. -/
def wordToBytes (w : Word) : List Byte :=
  toBytes 8 w.toNat

/-- The numbers from `lo` on, `n` of them. -/
def upFrom (lo : Nat) : Nat → List Nat
  | 0 => []
  | n + 1 => lo :: upFrom (lo + 1) n

/-- The list without its element at a position. -/
def dropAt {α : Type} : List α → Nat → List α
  | [], _ => []
  | _ :: l, 0 => l
  | x :: l, n + 1 => x :: dropAt l n

/-- The integer square root, by binary search from the given bit downwards. -/
def isqrtFrom : Nat → Nat → Nat → Nat
  | 0, _, r => r
  | k + 1, n, r => if (r + 2 ^ k) * (r + 2 ^ k) ≤ n then isqrtFrom k n (r + 2 ^ k) else isqrtFrom k n r

/-- The integer square root of a number. -/
def isqrt (n : Nat) : Nat :=
  isqrtFrom (n.log2 / 2 + 1) n 0

/-- The entry of a key. -/
def Table.find? {κ α : Type} [DecidableEq κ] : Table κ α → κ → Option α
  | [], _ => none
  | (k', v) :: t, k => if k' = k then some v else Table.find? t k

/-- The entry of a key, or the default of an unlisted key. -/
def Table.get {κ α : Type} [DecidableEq κ] (t : Table κ α) (k : κ) (d : α) : α :=
  (Table.find? t k).getD d

/-- The table with an entry for a key. -/
def Table.put {κ α : Type} [DecidableEq κ] : Table κ α → κ → α → Table κ α
  | [], k, v => [(k, v)]
  | (k', v') :: t, k, v => if k' = k then (k, v) :: t else (k', v') :: Table.put t k v

/-- The table without the entries of a key. -/
def Table.erase {κ α : Type} [DecidableEq κ] (t : Table κ α) (k : κ) : Table κ α :=
  t.filter fun p => decide (p.1 ≠ k)

end Sys2Proof.Machine
end

