-- ==== Sys2Proof/Machine/Ops.lean ====
section
/-! DEFINITION. The named operations over the state: the parts of the device, memory, registers, the flow of control of a
context, and taking a trap and returning from one. -/

namespace Sys2Proof.Machine

/-! ### The parts of the device -/

/-- The context of an agent. -/
def State.ctx (s : State) (a : Agent) : Ctx :=
  s.ctxs.get a (Ctx.initial s.hostPort.coresOn a)

/-- The state with a context changed. -/
def State.onCtx (s : State) (a : Agent) (f : Ctx → Ctx) : State :=
  { s with ctxs := s.ctxs.put a (f (s.ctx a)) }

/-- The small core of a number. -/
def State.core (s : State) (n : Nat) : Core :=
  s.cores.get n (Core.init n)

/-- The state with a small core changed. -/
def State.onCore (s : State) (n : Nat) (f : Core → Core) : State :=
  { s with cores := s.cores.put n (f (s.core n)) }

/-- The cluster of an index. -/
def State.cluster (s : State) (c : Nat) : Cluster :=
  s.clusters.get c Cluster.init

/-- The state with a cluster changed. -/
def State.onCluster (s : State) (c : Nat) (f : Cluster → Cluster) : State :=
  { s with clusters := s.clusters.put c (f (s.cluster c)) }

/-- The group of a launch number, while it is bound or saved. -/
def State.group? (s : State) (l : Nat) : Option Group :=
  s.groups.find? l

/-- The state with a group changed, if it is there. -/
def State.onGroup (s : State) (l : Nat) (f : Group → Group) : State :=
  match s.groups.find? l with
  | some g => { s with groups := s.groups.put l (f g) }
  | none => s

/-- The cluster index of a small core (R346, R408). -/
def clusterOf (core : Nat) : Nat :=
  core / Config.coresPerCluster

/-- C.HWID bits 15:0 of a small core (Table 18-7). -/
def hwidOf (core : Nat) : Nat :=
  let c := clusterOf core
  c / 68 * 2 ^ 12 + c % 68 * 2 ^ 5 + core % 17

/-- The cluster an agent stands in; cellarer cores stand in none, and get 0. -/
def agentCluster : Agent → Nat
  | .slot n _ => clusterOf n
  | .cel _ => 0
  | .tsc c => c

/-- Whether the agent is a slot of a small core. -/
def isSmall : Agent → Bool
  | .slot _ _ => true
  | _ => false

/-- The small core of an agent; 0 for the others, which have none. -/
def coreNo : Agent → Nat
  | .slot n _ => n
  | _ => 0

/-- The slot number of an agent; 0 for the others. -/
def slotNo : Agent → Nat
  | .slot _ n => n
  | _ => 0

/-- A number that nothing has had before. -/
def State.newId (s : State) : Nat × State :=
  (s.nextId, { s with nextId := s.nextId + 1 })

/-- A free value (R405 and the other choices that log entry 10 names). -/
def State.freeBit (s : State) : Bool × State :=
  ((Config.freeWord s.fresh).getLsbD 0, { s with fresh := s.fresh + 1 })

/-- A free word: a value that the spec leaves open (log entry 11). -/
def State.freeWord (s : State) : Word × State :=
  (Config.freeWord s.fresh, { s with fresh := s.fresh + 1 })

/-! ### Bytes and words -/

/-- What an address reads as that nothing is listed for (R24). -/
def unlistedByte : Byte := 0

/-- The byte at an address. -/
def Memory.read : Memory → Nat → Byte
  | [], _ => unlistedByte
  | (b, v) :: m, a => if b = a then v else if a < b then unlistedByte else Memory.read m a

/-- The memory with a byte written, in canonical form. -/
def Memory.write : Memory → Nat → Byte → Memory
  | [], a, v => if v = unlistedByte then [] else [(a, v)]
  | (b, w) :: m, a, v =>
    if a < b then if v = unlistedByte then (b, w) :: m else (a, v) :: (b, w) :: m
    else if b = a then if v = unlistedByte then m else (a, v) :: m
    else (b, w) :: Memory.write m a v

/-- Whether the addresses rise strictly from a bound and no entry is an unlisted byte's. -/
def Memory.risesFrom : Nat → Memory → Bool
  | _, [] => true
  | lo, (a, v) :: m => decide (lo ≤ a) && decide (v ≠ unlistedByte) && Memory.risesFrom (a + 1) m

/-- The canonical form of a memory: addresses strictly rising, no entry equal to what an unlisted address reads as. -/
def Memory.wf (m : Memory) : Bool :=
  Memory.risesFrom 0 m

/-- `n` bytes from an address. -/
def Memory.readN (m : Memory) (a : Nat) : Nat → List Byte
  | 0 => []
  | n + 1 => m.read a :: Memory.readN m (a + 1) n

/-- The memory with bytes written from an address on. -/
def Memory.writeL (m : Memory) (a : Nat) : List Byte → Memory
  | [] => m
  | b :: bs => Memory.writeL (m.write a b) (a + 1) bs

/-- The 64-bit word at an address (R4). -/
def Memory.word (m : Memory) (a : Nat) : Word :=
  toWord (fromBytes (m.readN a 8))

/-- The number with an element inserted in rising order, once. -/
def insertNat (n : Nat) : List Nat → List Nat
  | [] => [n]
  | k :: l => if n < k then n :: k :: l else if n = k then k :: l else k :: insertNat n l

/-- The word numbers that `n` bytes from an offset touch. -/
def wordsOf (off n : Nat) : List Nat :=
  if n = 0 then [] else upFrom (off / 8) ((off + n - 1) / 8 + 1 - off / 8)

/-- The words among them that the bytes cover whole. -/
def wholeWordsOf (off n : Nat) : List Nat :=
  (wordsOf off n).filter fun w => decide (off ≤ 8 * w) && decide (8 * w + 8 ≤ off + n)

/-- The dirty bitmap once a write has reached `n` bytes from an offset (R390). -/
def markDirty (d : BitVec 256) (off n : Nat) : BitVec 256 :=
  (upFrom (off / 1024) ((off + n - 1) / 1024 + 1 - off / 1024)).foldl (fun d b => d ||| (1#256 <<< b)) d

/-- A store of bytes to a slice: the bytes written, every word touched filled (R54, R168), the poison of each word written
whole cleared (R238), and the blocks touched dirty (R390). -/
def Core.sliceStore (c : Core) (off : Nat) (bs : List Byte) : Core :=
  let n := bs.length
  { c with
    slice := c.slice.writeL off bs
    emptyWords := c.emptyWords.filter fun w => !(wordsOf off n).contains w
    poisonWords := c.poisonWords.filter fun w => !(wholeWordsOf off n).contains w
    dirty := if n = 0 then c.dirty else markDirty c.dirty off n }

/-- The nibble of a byte replaced (R170): the high one, or the low one. -/
def putNibble (old : Byte) (high : Bool) (v : Byte) : Byte :=
  if high then (v.extractLsb' 0 4) ++ (old.extractLsb' 0 4) else (old.extractLsb' 4 4) ++ (v.extractLsb' 0 4)

/-- The nibble of a byte that an access selects (Table 3-12). -/
def getNibble (b : Byte) (high : Bool) : Byte :=
  if high then (b.extractLsb' 4 4).setWidth 8 else (b.extractLsb' 0 4).setWidth 8

/-- The first poisoned byte of `n` bytes from an offset of a slice (R174). -/
def Core.slicePoison (c : Core) (off n : Nat) : Option Nat :=
  ((wordsOf off n).find? c.poisonWords.contains).map fun w => max off (8 * w)

/-- The 64-bit word of a slice at an offset. -/
def Core.sliceWord (c : Core) (off : Nat) : Word :=
  c.slice.word off

/-- Whether the slice word at an offset is full (R54). -/
def Core.isFull (c : Core) (off : Nat) : Bool :=
  !c.emptyWords.contains (off / 8)

/-- The word of a slice at an offset made empty or full. -/
def Core.setFull (c : Core) (off : Nat) (full : Bool) : Core :=
  { c with emptyWords := if full then c.emptyWords.filter (· ≠ off / 8) else insertNat (off / 8) c.emptyWords }

/-- The core that serves a role of a launch; none while the group is saved or its role is unbound. -/
def State.coreOf? (s : State) (launch role : Nat) : Option Nat :=
  match s.groups.find? launch with
  | some g => if g.phase = .saved then none else g.cores[role]?
  | none => none

/-- Whether a core has stopped and waits to be quarantined, so that nothing issues on it (R402, R403). -/
def State.failing (s : State) (core : Nat) : Bool :=
  s.parts.failing.contains (.core core) || s.parts.failing.contains (.cluster (clusterOf core))

/-- Whether the core of a role has begun to quiesce for its quarantine: what is addressed to the role is held at its source until
another core serves it (R19, R402). -/
def State.movesAway (s : State) (launch role : Nat) : Bool :=
  (s.coreOf? launch role).any s.failing

/-- The memory of a peer device. -/
def State.peer (s : State) (dev : Nat) : Memory :=
  s.peers.get dev []

/-- The byte at a place; none while the place cannot be reached because its role is held (R19). -/
def State.readLoc (s : State) : Loc → Option Byte
  | .slice l r off => (s.coreOf? l r).map fun c => (s.core c).slice.read off
  | .mem pa => some (s.mem.read pa)
  | .peer d pa => some ((s.peer d).read pa)

/-- `n` places on. -/
def Loc.add (p : Loc) (n : Nat) : Loc :=
  match p with
  | .slice l r off => .slice l r (off + n)
  | .mem pa => .mem (pa + n)
  | .peer d pa => .peer d (pa + n)

/-- `n` bytes from a place. -/
def State.readBytes (s : State) (p : Loc) (n : Nat) : List Byte :=
  match p with
  | .slice l r off =>
    match s.coreOf? l r with
    | some c => (s.core c).slice.readN off n
    | none => []
  | .mem pa => s.mem.readN pa n
  | .peer d pa => (s.peer d).readN pa n

/-- The lines of 64 bytes that `n` bytes from an address touch. -/
def linesOf (pa n : Nat) : List Nat :=
  if n = 0 then [] else upFrom (pa / 64) ((pa + n - 1) / 64 + 1 - pa / 64)

/-- The distance from a place to the first poisoned byte among `n` (R174, R238). -/
def State.poisonAt (s : State) (p : Loc) (n : Nat) : Option Nat :=
  match p with
  | .slice l r off =>
    match s.coreOf? l r with
    | some c => ((s.core c).slicePoison off n).map (· - off)
    | none => none
  | .mem pa => ((linesOf pa n).find? s.poison.contains).map fun l => max pa (64 * l) - pa
  | .peer d pa => ((linesOf pa n).find? (s.peerPoison.get d []).contains).map fun l => max pa (64 * l) - pa

/-- Whether a place is in a peer that no route reaches (R413). -/
def State.noRoute (s : State) : Loc → Bool
  | .peer d _ => s.unreachable.contains d
  | _ => false

/-- Bytes stored at a place (R170, R284); a line that is poisoned stays so (R174). -/
def State.storeBytes (s : State) (p : Loc) (bs : List Byte) : State :=
  match p with
  | .slice l r off =>
    match s.coreOf? l r with
    | some c => s.onCore c (·.sliceStore off bs)
    | none => s
  | .mem pa => { s with mem := s.mem.writeL pa bs }
  | .peer d pa => { s with peers := s.peers.put d ((s.peer d).writeL pa bs) }

/-- The lines left poisoned by a .V store of `n` bytes: one that covers a line whole clears it (R174). -/
def clearLines (poison : List Nat) (pa n : Nat) : List Nat :=
  if n = 64 && pa % 64 = 0 then poison.filter (· ≠ pa / 64) else poison

/-- The poison that a .V store of `n` bytes at a place clears (R174). -/
def State.clearLine (s : State) (p : Loc) (n : Nat) : State :=
  match p with
  | .slice _ _ _ => s
  | .mem pa => { s with poison := clearLines s.poison pa n }
  | .peer d pa => { s with peerPoison := s.peerPoison.put d (clearLines (s.peerPoison.get d []) pa n) }

/-- A nibble stored at a place, the other kept (R170). -/
def State.storeNibble (s : State) (p : Loc) (high : Bool) (v : Byte) : State :=
  s.storeBytes p [putNibble ((s.readLoc p).getD 0) high v]

/-- The place made poisoned: its scratchpad word or its line (R174, R238, R401). -/
def State.poisonLoc (s : State) (p : Loc) : State :=
  match p with
  | .slice l r off =>
    match s.coreOf? l r with
    | some c => s.onCore c fun k => { k with poisonWords := insertNat (off / 8) k.poisonWords }
    | none => s
  | .mem pa => { s with poison := insertNat (pa / 64) s.poison }
  | .peer d pa => { s with peerPoison := s.peerPoison.put d (insertNat (pa / 64) (s.peerPoison.get d [])) }

/-! ### Registers -/

/-- X[n]: X0 reads zero (R69). -/
def Ctx.x (c : Ctx) (n : BitVec 5) : Word :=
  if n = 0 then 0 else c.regs.x[n.toNat]'(by have := n.isLt; omega)

/-- V[n]. -/
def Ctx.v (c : Ctx) (n : BitVec 5) : VReg :=
  c.regs.v[n.toNat]'(by have := n.isLt; omega)

/-- P[n]: P0 reads all ones (R66). -/
def Ctx.p (c : Ctx) (n : BitVec 3) : Word :=
  if n = 0 then BitVec.allOnes 64 else c.regs.p[n.toNat]'(by have := n.isLt; omega)

/-- Q[n]. -/
def Ctx.q (c : Ctx) (n : BitVec 4) : Region :=
  c.regs.q[n.toNat]'(by have := n.isLt; omega)

/-- FMT[n]. -/
def Ctx.fmt (c : Ctx) (n : BitVec 4) : BitVec 32 :=
  c.regs.fmt[n.toNat]'(by have := n.isLt; omega)

/-- Register number `n` + `i`, modulo 32 (R197, R217). -/
def regPlus (n : BitVec 5) (i : Nat) : BitVec 5 :=
  n + BitVec.ofNat 5 i

/-- A bit mask with one bit changed. -/
def setBit (m : BitVec 32) (n : BitVec 5) (b : Bool) : BitVec 32 :=
  if b then m ||| (1#32 <<< n.toNat) else m &&& ~~~(1#32 <<< n.toNat)

/-- Whether a register is empty; X0 never is (R69). -/
def Ctx.isEmpty (c : Ctx) : RegName → Bool
  | .x n => decide (n ≠ 0) && c.regs.xEmpty.getLsbD n.toNat
  | .v n => c.regs.vEmpty.getLsbD n.toNat

/-- Whether a register is poisoned (R174). -/
def Ctx.isPoisoned (c : Ctx) : RegName → Bool
  | .x n => decide (n ≠ 0) && c.regs.xPoison.getLsbD n.toNat
  | .v n => c.regs.vPoison.getLsbD n.toNat

/-- The address that a poisoned register holds (R174). -/
def Ctx.heldAddress (c : Ctx) : RegName → Word
  | .x n => c.x n
  | .v n => (c.v n).extractLsb' 0 64

/-- A BLOCKED slot runs again when the register it awaits fills (Table 2-2). -/
def Control.filled (k : Control) (r : RegName) : Control :=
  if k.status = .blocked ∧ k.awaits = some r then { k with status := .running, awaits := none } else k

/-- X[n] written and filled; a write to X0 is discarded (R54, R69, R109). -/
def Ctx.setX (c : Ctx) (n : BitVec 5) (v : Word) : Ctx :=
  if n = 0 then c
  else { c with
    regs := { c.regs with
      x := c.regs.x.set n.toNat v (by have := n.isLt; omega)
      xEmpty := setBit c.regs.xEmpty n false }
    ctl := c.ctl.filled (.x n) }

/-- V[n] written and filled (R140). -/
def Ctx.setV (c : Ctx) (n : BitVec 5) (v : VReg) : Ctx :=
  { c with
    regs := { c.regs with
      v := c.regs.v.set n.toNat v (by have := n.isLt; omega)
      vEmpty := setBit c.regs.vEmpty n false }
    ctl := c.ctl.filled (.v n) }

/-- P[n] written; a write to P0 is discarded (R139). -/
def Ctx.setP (c : Ctx) (n : BitVec 3) (v : Word) : Ctx :=
  if n = 0 then c
  else { c with regs := { c.regs with p := c.regs.p.set n.toNat v (by have := n.isLt; omega) } }

/-- Q[n] written. -/
def Ctx.setQ (c : Ctx) (n : BitVec 4) (v : Region) : Ctx :=
  { c with regs := { c.regs with q := c.regs.q.set n.toNat v (by have := n.isLt; omega) } }

/-- FMT[n] written. -/
def Ctx.setFmt (c : Ctx) (n : BitVec 4) (v : BitVec 32) : Ctx :=
  { c with regs := { c.regs with fmt := c.regs.fmt.set n.toNat v (by have := n.isLt; omega) } }

/-- A register made empty at issue (R54); X0 stays full. -/
def Ctx.makeEmpty (c : Ctx) : RegName → Ctx
  | .x n => if n = 0 then c else { c with regs := { c.regs with xEmpty := setBit c.regs.xEmpty n true } }
  | .v n => { c with regs := { c.regs with vEmpty := setBit c.regs.vEmpty n true } }

/-- A register filled without a write (the trap of a gather, R158). -/
def Ctx.fill (c : Ctx) : RegName → Ctx
  | .x n => { c with regs := { c.regs with xEmpty := setBit c.regs.xEmpty n false }, ctl := c.ctl.filled (.x n) }
  | .v n => { c with regs := { c.regs with vEmpty := setBit c.regs.vEmpty n false }, ctl := c.ctl.filled (.v n) }

/-- A register left empty and poisoned, holding the address of the first poisoned byte (R174). -/
def Ctx.poisonReg (c : Ctx) (r : RegName) (address : Word) : Ctx :=
  match r with
  | .x n =>
    if n = 0 then c
    else
      { c with
        regs := { c.regs with
          x := c.regs.x.set n.toNat address (by have := n.isLt; omega)
          xEmpty := setBit c.regs.xEmpty n true
          xPoison := setBit c.regs.xPoison n true }
        ctl := c.ctl.filled (.x n) }
  | .v n =>
    { c with
      regs := { c.regs with
        v := c.regs.v.set n.toNat (address.setWidth 512) (by have := n.isLt; omega)
        vEmpty := setBit c.regs.vEmpty n true
        vPoison := setBit c.regs.vPoison n true }
      ctl := c.ctl.filled (.v n) }

/-- C.PRIV.PL of a slot, C.KSTAT.PL of a cellarer core; a TSC always runs at SUPERVISOR (R342, R343). -/
def Ctx.supervisor (c : Ctx) : Agent → Bool
  | .slot _ _ => c.sp.pl
  | .cel _ => c.sp.kstat.getLsbD 0
  | .tsc _ => true

/-! ### The flow of control -/

/-- The context after an instruction has completed: the next body word or pass of its frame, else the next delay slot or
the redirect, else the next word (R79, R82, R355). -/
def Control.advance (k : Control) : Control :=
  let k := { k with hold := none, refusal := none, stallOn := none }
  match k.frame with
  | some f =>
    if f.i + 1 < f.n then { k with pc := k.pc + 4, frame := some { f with i := f.i + 1 } }
    else if f.j + 1 < f.m then { k with pc := f.base + 4, frame := some { f with i := 0, j := f.j + 1 } }
    else { k with pc := f.base + 4 + BitVec.ofNat 56 (4 * f.n), frame := none }
  | none =>
    match k.redirect with
    | some r =>
      if r.nds ≤ 1 then { k with pc := r.target, redirect := none }
      else { k with pc := k.pc + 4, redirect := some { r with nds := r.nds - 1 } }
    | none => { k with pc := k.pc + 4 }

/-- The context past its instruction. -/
def Ctx.advance (c : Ctx) : Ctx :=
  { c with ctl := c.ctl.advance }

/-- The context past a branch that goes to `target` after its two delay slots (R79). -/
def Ctx.branchTo (c : Ctx) (target : Addr) : Ctx :=
  let k := c.ctl.advance
  { c with ctl := { k with redirect := some ⟨target, 2⟩ } }

/-- The state past the instruction of an agent. -/
def State.advance (s : State) (a : Agent) : State :=
  s.onCtx a Ctx.advance

/-- A slot of a core that is STALLED on a resource runs again (Table 2-2). -/
def Control.wake (k : Control) (r : Resource) : Control :=
  if k.status = .stalled ∧ k.stallOn = some r then { k with status := .running, stallOn := none } else k

/-- The slots of a core that wait for a resource run again: an entry has freed (R12). -/
def State.wake (s : State) (core : Nat) (r : Resource) : State :=
  (upFrom 0 8).foldl (fun s n =>
    if (s.ctx (.slot core n)).ctl.stallOn = some r then s.onCtx (.slot core n) fun c => { c with ctl := c.ctl.wake r }
    else s) s

/-- The slot of an agent waits as a STALLED slot does (R12). -/
def State.stall (s : State) (a : Agent) (r : Resource) : State :=
  s.onCtx a fun c => { c with ctl := { c.ctl with status := .stalled, stallOn := some r, hold := none } }

/-- The slot of an agent is BLOCKED until a register fills (R55). -/
def State.block (s : State) (a : Agent) (r : RegName) : State :=
  s.onCtx a fun c => { c with ctl := { c.ctl with status := .blocked, awaits := some r } }

/-- The agent's instruction keeps it from issuing (R29, R274). -/
def State.hold (s : State) (a : Agent) (h : Hold) : State :=
  s.onCtx a fun c => { c with ctl := { c.ctl with hold := some h } }

/-! ### Traps -/

/-- The cause codes of Table 18-11. -/
def Cause.illegal : Nat := 0x01
/-- PRIV. -/
def Cause.priv : Nat := 0x02
/-- ALIGN. -/
def Cause.align : Nat := 0x03
/-- PAGE_FAULT. -/
def Cause.pageFault : Nat := 0x04
/-- PROTECT. -/
def Cause.protect : Nat := 0x05
/-- FOOTPRINT. -/
def Cause.footprint : Nat := 0x06
/-- EMPTY. -/
def Cause.empty : Nat := 0x07
/-- TILE_UNCONF. -/
def Cause.tileUnconf : Nat := 0x08
/-- REGION_OVER. -/
def Cause.regionOver : Nat := 0x09
/-- POISON. -/
def Cause.poison : Nat := 0x0A
/-- ENGINE_FAULT. -/
def Cause.engineFault : Nat := 0x0B
/-- TRELLIS_OVERFLOW. -/
def Cause.trellisOverflow : Nat := 0x0C
/-- TRELLIS_STALE. -/
def Cause.trellisStale : Nat := 0x0D
/-- REPLAY_GUARD. -/
def Cause.replayGuard : Nat := 0x0E
/-- REPLAY_FAULT. -/
def Cause.replayFault : Nat := 0x0F
/-- RETIRE_OVERFLOW. -/
def Cause.retireOverflow : Nat := 0x10
/-- LEASE_VIOLATION. -/
def Cause.leaseViolation : Nat := 0x11
/-- MSG_AFTER_DONE. -/
def Cause.msgAfterDone : Nat := 0x12
/-- BREAK. -/
def Cause.breakpoint : Nat := 0x14
/-- SYSCALL. -/
def Cause.syscall : Nat := 0x15
/-- KILL. -/
def Cause.kill : Nat := 0x16
/-- FORMAT. -/
def Cause.format : Nat := 0x17
/-- MODE. -/
def Cause.mode : Nat := 0x18

/-- C.BTGT of a pending redirect (Table 18-3). -/
def btgtOf : Option Redirect → Word
  | some r => toWord (r.target.toNat / 4 * 4 + r.nds % 4)
  | none => 0

/-- The redirect that a C.BTGT value names (R81). -/
def redirectOf (w : Word) : Option Redirect :=
  if wbits w 1 0 = 0 then none else some ⟨BitVec.ofNat 56 (wbits w 55 2 * 4), wbits w 1 0⟩

/-- C.FRAME of a frame (Table 18-9). -/
def frameWord : Option Frame → Word
  | some f =>
    toWord (2 ^ 63 + (f.n - 1) * 2 ^ 28 + (f.m - 1) * 2 ^ 24 + f.sd * 2 ^ 22 + f.sa * 2 ^ 20 + f.sb * 2 ^ 18
      + f.j * 2 ^ 10 + f.i * 2 ^ 2)
  | none => 0

/-- The frame that a C.FRAME value names for a word at `pc`: its REPF lies at pc − 4 − 4·I (Table 18-9).  The body words
are fetched again (log entry 20). -/
def frameOf (w : Word) (pc : Addr) : Option Frame :=
  if w.getLsbD 63 then
    some ⟨pc - 4 - BitVec.ofNat 56 (4 * wbits w 5 2), wbits w 31 28 + 1, wbits w 27 24 + 1, wbits w 23 22, wbits w 21 20,
      wbits w 19 18, wbits w 13 10, wbits w 5 2, []⟩
  else none

/-- The fault record of a slot's trap (Table 18-10). -/
def slotRecord (s : State) (core n : Nat) : FaultRec :=
  let c := s.ctx (.slot core n)
  let k := s.core core
  { token := toWord (c.trap.seq.toNat * 2 ^ 48 + n * 2 ^ 16 + hwidOf core)
    cause := toWord (wbits c.trap.cause 8 0)
    faddr := c.trap.faddr
    epc := c.trap.epc
    btgt := c.trap.btgt
    prog := c.trap.prog
    frame := c.trap.frame
    owner := match k.binding with
      | some b => toWord (b.launch * 2 ^ 32 + b.role)
      | none => 0 }

/-- A record of a core's slot, or of one of its engines, waits at its source for its cluster's fault queue (R352). -/
def State.sendRecord (s : State) (core : Nat) (engine : Bool) (r : FaultRec) : State :=
  s.onCluster (clusterOf core) fun c => { c with pending := c.pending ++ [⟨r, s.now, core, engine⟩] }

/-- The registers that a trap writes (R348): `prog` is C.PROG. -/
def Ctx.recordTrap (c : Ctx) (pl : Bool) (cause : Nat) (faddr prog : Word) : Ctx :=
  { c with
    trap := { c.trap with
      cause := toWord (b2n pl * 2 ^ 8 + cause)
      faddr := faddr
      epc := c.ctl.pc.setWidth 64
      btgt := btgtOf c.ctl.redirect
      frame := frameWord c.ctl.frame
      prog := prog
      seq := c.trap.seq + 1 }
    ctl := { c.ctl with hold := none, refusal := none, stallOn := none, awaits := none } }

/-- Whether an EMPTY is taken within the slot (R57, R125). -/
def Ctx.takesEmpty (c : Ctx) (cause : Nat) : Bool :=
  decide (cause = Cause.empty) && c.trap.utvec.getLsbD 0 && !c.trap.uh

/-- The slot continues at its EMPTY handler with the return record filled (R57, R348). -/
def Ctx.enterHandler (c : Ctx) : Ctx :=
  { c with
    trap := { c.trap with uepc := c.trap.epc, ubtgt := c.trap.btgt, uframe := c.trap.frame, uh := true }
    ctl := { c.ctl with
      status := .running
      pc := BitVec.ofNat 56 (wbits c.trap.utvec 55 2 * 4)
      redirect := none
      frame := none } }

/-- The slot is PARKED (R348). -/
def Ctx.park (c : Ctx) : Ctx :=
  { c with ctl := { c.ctl with status := .parked } }

/-- C.KSTAT at trap entry: PPL := PL, PL := 1, NEST := 1 (R359). -/
def kstatEntry (k : Word) : Word :=
  toWord (4 + 2 * wbits k 0 0 + 1)

/-- A tape whose sequencer a trap of its slot stops is PAUSED (R322, Table 13-10). -/
def Cluster.pauseTape (cl : Cluster) (a : Agent) : Cluster :=
  { cl with
    tapes := cl.tapes.map fun t =>
      if t.2.owner = some a ∧ t.2.state = .decanting then (t.1, { t.2 with state := .paused }) else t }

/-- Taking a trap: on a small core as R348 gives, on a cellarer core or TSC as R359 gives.  `prog` is the C.PROG that it
leaves.  A cellarer core or TSC has no C.FRAME, and R359 gives back only C.EPC and C.BTGT: a repeat frame that its trap interrupts is
dropped, and KRET goes on with plain words, a choice of the model (log entry 125). -/
def State.trapAt (s : State) (a : Agent) (cause : Nat) (faddr prog : Word) : State :=
  match a with
  | .slot core n =>
    let s1 := s.onCtx a fun c => c.recordTrap c.sp.pl cause faddr prog
    if (s.ctx a).takesEmpty cause then s1.onCtx a Ctx.enterHandler
    else
      let s2 := (s1.onCtx a Ctx.park).onCluster (clusterOf core) (·.pauseTape a)
      s2.sendRecord core false (slotRecord s2 core n)
  | _ =>
    s.onCtx a fun c =>
      if wbits c.sp.kstat 0 0 = 1 ∧ wbits c.sp.kstat 2 2 = 1 then { c with ctl := { c.ctl with status := .stopped } }
      else
        let c := c.recordTrap (c.supervisor a) cause faddr 0
        { c with
          sp := { c.sp with kstat := kstatEntry c.sp.kstat }
          ctl := { c.ctl with
            pc := BitVec.ofNat 56 (wbits c.sp.ktvec 55 2 * 4)
            redirect := none
            frame := none } }

/-- C.PROG as a trap of the context's instruction leaves it: only a VMEM instruction keeps it (R156, R348). -/
def Ctx.progKept (c : Ctx) : Word :=
  if c.ctl.iword.extractLsb' 26 6 = 0x24 then c.trap.prog else 0

/-- Taking a trap of the agent's instruction. -/
def State.trap (s : State) (a : Agent) (cause : Nat) (faddr : Word) : State :=
  s.trapAt a cause faddr (s.ctx a).progKept

/-- ILLEGAL of the agent's word.  A repeat frame in flight ends where R83 ends it, at a word of a major that no frame may hold or one
that breaks R66, and C.FRAME then records none; at a word of no function that R74 allocates it stays, and C.FRAME records it as R84 and
R349 have every other trap do (log entry 105). -/
def State.illegal (s : State) (a : Agent) (w : Word) : State :=
  (if fnAllocated (w.setWidth 32) then s.onCtx a fun c => { c with ctl := { c.ctl with frame := none } } else s).trap a
    Cause.illegal w

/-- The instruction address of a register that holds one: bits 63:56 are not part of it, and bits 1:0 of a program counter are
zero (R64). -/
def pcOf (w : Word) : Addr :=
  BitVec.ofNat 56 (wbits w 55 2 * 4)

/-- Return from the EMPTY handler through the return record (R125, R350). -/
def Ctx.uret (c : Ctx) : Ctx :=
  let pc := pcOf c.trap.uepc
  { c with
    trap := { c.trap with uh := false }
    ctl := { c.ctl with
      pc := pc
      redirect := redirectOf c.trap.ubtgt
      frame := frameOf c.trap.uframe pc
      hold := none
      refusal := none } }

/-- KRET: PL := PPL, and fetching goes on from C.EPC with the redirect of C.BTGT (R359). -/
def Ctx.kret (c : Ctx) : Ctx :=
  { c with
    sp := { c.sp with kstat := toWord (wbits c.sp.kstat 2 1 * 2 + wbits c.sp.kstat 1 1) }
    ctl := { c.ctl with
      pc := pcOf c.trap.epc
      redirect := redirectOf c.trap.btgt
      frame := none
      hold := none } }

/-- A PARKED slot continues at C.EPC with its redirect, frame and C.PROG as recorded (RESUME with X[b] = 0, R355). -/
def Ctx.resume (c : Ctx) : Ctx :=
  let pc := pcOf c.trap.epc
  { c with
    ctl := { c.ctl with
      status := .running
      pc := pc
      redirect := redirectOf c.trap.btgt
      frame := frameOf c.trap.frame pc
      hold := none } }

/-- A PARKED slot skips the instruction at C.EPC (RESUME with X[b] = 1, R355). -/
def Ctx.resumeSkip (c : Ctx) : Ctx :=
  let c := c.resume
  { c with trap := { c.trap with prog := 0 }, ctl := c.ctl.advance }

end Sys2Proof.Machine
end

