-- ==== Sys2Proof/Machine/Translate.lean ====
section
/-! DEFINITION. Address translation: entries, lookups, Translate of R364, misses on their way to the TSC, and the dispatcher's
own accesses (R363 to R369, R374, R399, R410). -/

namespace Sys2Proof.Machine

/-! ### Entries (Table 19-1) -/

/-- The bytes of a page of a SIZE. -/
def pageSize (size : Nat) : Nat :=
  if size = 0 then 2 ^ 16 else if size = 1 then 2 ^ 21 else 2 ^ 29

/-- SIZE of an entry. -/
def entSize (w1 : Word) : Nat := wbits w1 62 61

/-- The virtual base of an entry. -/
def entBase (w0 : Word) : Nat := wbits w0 55 16 * 2 ^ 16

/-- ASID of an entry. -/
def entAsid (w0 : Word) : Nat := wbits w0 15 0

/-- The base of the place an entry maps to. -/
def entPfn (w1 : Word) : Nat := wbits w1 55 16 * 2 ^ 16

/-- TGT of an entry. -/
def entTgt (w1 : Word) : Nat := wbits w1 15 14

/-- The ordering kind of an entry (R25). -/
def entKind (w1 : Word) : PageKind :=
  match wbits w1 60 59 with
  | 0 => .so
  | 1 => .rc
  | _ => .un

/-- Whether an entry is refused (R366). -/
def entRefused (w0 w1 : Word) : Bool :=
  !w1.getLsbD 63 || decide (entSize w1 = 3) || decide (wbits w1 60 59 = 3) || decide (wbits w0 63 56 ≠ 0)
    || decide (wbits w1 12 0 ≠ 0) || decide (entBase w0 % pageSize (entSize w1) ≠ 0)
    || decide (entPfn w1 % pageSize (entSize w1) ≠ 0) || (w1.getLsbD 56 != decide (entTgt w1 = 3))

/-- Whether an entry covers an address of an address space. -/
def entCovers (w0 w1 : Word) (asid va : Nat) : Bool :=
  w1.getLsbD 63 && decide (entAsid w0 = asid) && decide (entBase w0 ≤ va)
    && decide (va < entBase w0 + pageSize (entSize w1))

/-- The entry among those covering an address that has the smaller page (R364). -/
def bestOf (asid va : Nat) : List (Word × Word) → Option (Word × Word)
  | [] => none
  | (w0, w1) :: l =>
    match bestOf asid va l with
    | some (v0, v1) =>
      if entCovers w0 w1 asid va && decide (entSize w1 ≤ entSize v1) then some (w0, w1) else some (v0, v1)
    | none => if entCovers w0 w1 asid va then some (w0, w1) else none

/-- The entry that a core finds: in its micro-TLB, else in its cluster's TLB (R364). -/
def State.lookup (s : State) (core : Option Nat) (cluster asid va : Nat) : Option (Word × Word) :=
  let shared := bestOf asid va ((s.cluster cluster).tlb.map fun e => (e.w0, e.w1))
  match core with
  | some n => match bestOf asid va (s.core n).utlb with
    | some e => some e
    | none => shared
  | none => shared

/-! ### Partitions -/

/-- The partition of a cluster (Table 22-1). -/
def State.partOfCluster (s : State) (c : Nat) : Nat :=
  s.parts.cpart.get c 0

/-- The partition of a cellarer core. -/
def State.partOfCel (s : State) (k : Nat) : Nat :=
  s.parts.kpart.get k 0

/-- The partition of the HBM channel of an address (log entry 13). -/
def State.partOfHbm (s : State) (pa : Nat) : Nat :=
  s.parts.hpart.get (pa / Config.hbmChannelSize) 0

/-- The partition an agent belongs to. -/
def State.partOf (s : State) : Agent → Nat
  | .slot n _ => s.partOfCluster (clusterOf n)
  | .cel k => s.partOfCel k
  | .tsc c => s.partOfCluster c

/-- Whether an address lies in HBM, the cistern or host memory (R363). -/
def isMemory (pa : Nat) : Bool :=
  decide (pa < Config.hbmSize)
    || (decide (Config.cisternBase ≤ pa) && decide (pa < Config.cisternBase + Config.cisternSize))
    || (decide (Config.hostBase ≤ pa) && decide (pa < Config.hostEnd))

/-! ### Translate (R364) -/

/-- What a global access is for. -/
inductive AccessKind where
  | load
  | store
  | fetch
deriving DecidableEq, Repr

/-- What Translate answers: a place, a refusal, a miss, or an access that a migration holds (R375). -/
inductive Xlate where
  | hit (loc : Loc) (page : PageKind) (ent : Word × Word)
  | trap (cause : Nat)
  | miss
  | held
deriving DecidableEq, Repr

/-- Whether an entry permits an access. -/
def entPermits (w1 : Word) : AccessKind → Bool
  | .load => w1.getLsbD 58
  | .store => w1.getLsbD 57
  | .fetch => w1.getLsbD 13

/-- The place an entry gives an address (R364, R410): a peer's page when REMOTE, unless the peer is this device. -/
def State.entLoc (s : State) (w0 w1 : Word) (va : Nat) : Loc :=
  let pa := entPfn w1 + (va - entBase w0)
  let dev := bits va 55 48
  if w1.getLsbD 56 && decide (dev ≠ wbits s.board.domain 7 0) then .peer dev pa else .mem pa

/-- Whether the place an entry gives lies where a program's page may: HBM of the cluster's partition (R399), the cistern,
host memory, or a peer.  No page maps a window (log entry 24). -/
def State.placeOk (s : State) (cluster : Nat) (w1 : Word) : Loc → Bool
  | .mem pa =>
    isMemory pa
      && !(decide (entTgt w1 = 0) && decide (pa < Config.hbmSize) && decide (s.partOfHbm pa ≠ s.partOfCluster cluster))
  | _ => true

/-- Whether a place lies in a page that begins at another. -/
def Loc.inPage (loc src : Loc) (size : Nat) : Bool :=
  match src, loc with
  | .mem p, .mem q => decide (p ≤ q) && decide (q < p + pageSize size)
  | .peer d p, .peer d' q => decide (d' = d) && decide (p ≤ q) && decide (q < p + pageSize size)
  | _, _ => false

/-- Whether a page is being migrated, or has been and awaits MEND, and an access of this kind to it is held (R375). -/
def State.migrationHolds (s : State) (loc : Loc) (kind : AccessKind) : Bool :=
  match s.xlat.moving with
  | some m => decide (kind = .store) && decide (s.xlat.mstat ≠ 0) && loc.inPage m.src m.size
  | none => false

/-- Whether the misses of a page are held until MEND: its migration has ended copied (R375). -/
def State.missHeld (s : State) (asid va : Nat) : Bool :=
  match s.xlat.moving with
  | some m =>
    decide (s.xlat.mstat = 2) && decide (m.asid = asid) && decide (va / pageSize m.size = m.va / pageSize m.size)
  | none => false

/-- Translate(va, kind) of R364 for a cluster, and the core whose micro-TLB is looked up first, if any. -/
def State.translate (s : State) (core : Option Nat) (cluster asid va : Nat) (kind : AccessKind) : Xlate :=
  if 2 ^ 56 ≤ va then .trap Cause.protect
  else
    match s.lookup core cluster asid va with
    | none => .miss
    | some (w0, w1) =>
      if !entPermits w1 kind then .trap Cause.protect
      else
        let loc := s.entLoc w0 w1 va
        if !s.placeOk cluster w1 loc then .trap Cause.protect
        else if s.migrationHolds loc kind then .held
        else .hit loc (entKind w1) (w0, w1)

/-- The refusal that answered a miss of an agent, for the page of an address (R364, R369). -/
def Ctx.refusalOf (c : Ctx) (va : Nat) : Option Nat :=
  match c.ctl.refusal with
  | some (page, cause) => if page = va / 2 ^ 16 then some cause else none
  | none => none

/-- Translate for a slot, with the refusal that a TSC gave its miss (R364). -/
def State.xlate (s : State) (a : Agent) (asid va : Nat) (kind : AccessKind) : Xlate :=
  match a with
  | .slot n _ =>
    match s.translate (some n) (clusterOf n) asid va kind with
    | .miss =>
      match (s.ctx a).refusalOf va with
      | some cause => .trap cause
      | none => .miss
    | r => r
  | _ =>
    if 2 ^ 56 ≤ va ∨ !isMemory va then .trap Cause.protect
    else .hit (.mem va) .rc (0, 0)

/-! ### Misses -/

/-- The code of an access kind in a miss entry (Table 19-2). -/
def missKind : AccessKind → Nat
  | .load => 0
  | .store => 1
  | .fetch => 2

/-- A miss waits at the cluster TLB to be posted (R367). -/
def State.postMiss (s : State) (cluster : Nat) (m : MissWait) : State :=
  s.onCluster cluster fun c => { c with missWaits := c.missWaits ++ [m] }

/-- Whether a miss of a requester that asks again while it waits is waiting to be posted, or has joined the open entry of its
page. -/
def Cluster.asked (c : Cluster) (m : MissWait) : Bool :=
  m.asker.isSome
    && ((c.missWaits.any fun w => decide (w.asker = m.asker) && decide (w.asid = m.asid)
          && decide (w.va / 2 ^ 16 = m.va / 2 ^ 16))
      || (c.misses.any fun e => decide (e.kind ≠ 3) && decide (e.asid = m.asid) && decide (e.vpn = m.va / 2 ^ 16 * 2 ^ 16)
          && (m.asker.any e.askers.contains)))

/-- The miss of such a requester: it counts once for each entry (R367). -/
def State.askMiss (s : State) (cluster : Nat) (m : MissWait) : State :=
  if (s.cluster cluster).asked m then s else s.postMiss cluster m

/-- The role of a core's binding, and its ASID. -/
def State.roleOf (s : State) (core : Nat) : Nat :=
  match (s.core core).binding with
  | some b => b.role
  | none => 0

/-- The ASID in which a core translates (R363). -/
def State.asidOf (s : State) (core : Nat) : Nat :=
  match (s.core core).binding with
  | some b => b.asid
  | none => 0

/-- A slot's access misses: the miss goes to its cluster's TLB, and the slot is held until a FILL or a REFUSE answers
(R169, R274, R364). -/
def State.missOf (s : State) (a : Agent) (asid va : Nat) (kind : AccessKind) : State :=
  match a with
  | .slot n _ =>
    (s.postMiss (clusterOf n) ⟨missKind kind, va, asid, hwidOf n, 0, s.roleOf n, none⟩).hold a (.miss va)
  | _ => s

/-- The entries of a TLB of `n` with one taken in: a full one drops an entry of the hardware's choice (R365). -/
def roomIn {α : Type} (n now : Nat) (key : α → Word × Word) (l : List α) : List α :=
  if l.length < n then l else dropAt l (Config.tlbVictim now (l.map key) % l.length)

/-- An access through an entry: the micro-TLB holds a copy of it, and a page that is not HBM counts the access, posting HOT
when the count first reaches MIGT; a HOT entry holds no requester (R365, R374). -/
def State.useEntry (s : State) (core : Option Nat) (cluster : Nat) (e : Word × Word) (m : MissWait) : State :=
  let s := match core with
    | some n =>
      s.onCore n fun k =>
        if k.utlb.contains e then k else { k with utlb := e :: roomIn 48 s.now id k.utlb }
    | none => s
  if entTgt e.2 = 0 then s
  else
    let migt := wbits s.xlat.migt 15 0
    let hot := (s.cluster cluster).tlb.any fun t =>
      decide ((t.w0, t.w1) = e) && !t.posted && decide (migt ≠ 0) && decide (t.hot + 1 ≥ migt)
    let s := s.onCluster cluster fun c =>
      { c with
        tlb := c.tlb.map fun t =>
          if (t.w0, t.w1) = e then
            { t with hot := min (t.hot + 1) 0xFFFF, posted := t.posted || (decide (migt ≠ 0) && decide (t.hot + 1 ≥ migt)) }
          else t }
    if hot then s.onCluster cluster fun c => { c with missWaits := c.missWaits ++ [{ m with kind := 3, asker := none }] } else s

/-! ### The dispatcher's accesses -/

/-- The clusters whose TLB the dispatcher looks in, the lowest first (log entry 25). -/
def State.tlbClusters (s : State) : List Nat :=
  (upFrom 0 Config.clusters).filter (s.clusters.map Prod.fst).contains

/-- The lowest cluster index of a partition that is in service (log entry 25). -/
def State.firstCluster (s : State) (part : Nat) : Nat :=
  ((upFrom 0 Config.clusters).find? fun c =>
    decide (s.partOfCluster c = part) && !s.parts.quar.contains c && !s.parts.spare.contains c).getD 0

/-- Translate for the dispatcher, in a queue's ASID (R379, R380, R382, R384). -/
def State.dispXlate (s : State) (part asid va : Nat) (kind : AccessKind) : Xlate :=
  let found := s.tlbClusters.findSome? fun c =>
    if s.partOfCluster c = part then
      match s.translate none c asid va kind with
      | .miss => none
      | r => some r
    else none
  match found with
  | some r => r
  | none =>
    if 2 ^ 56 ≤ va then .trap Cause.protect
    else
      match s.dispatch.refused.find? fun r => decide (r.1 = asid) && decide (r.2.1 = va / 2 ^ 16) with
      | some r => .trap r.2.2
      | none => .miss

/-- A miss of the dispatcher, posted at the lowest cluster of the partition unless it has asked for the page
(log entry 25). -/
def State.dispMiss (s : State) (part asid va : Nat) (kind : AccessKind) : State :=
  if s.dispatch.asked.contains (asid, va / 2 ^ 16) ∨ s.dispXlate part asid va kind ≠ .miss then s
  else
    { s with dispatch := { s.dispatch with asked := (asid, va / 2 ^ 16) :: s.dispatch.asked } }.postMiss (s.firstCluster part)
      ⟨missKind kind, va, asid, 0, 0, 0, none⟩

/-- The distinct 64 KiB pages that `n` bytes from an address touch. -/
def pagesOf (va n : Nat) : List Nat :=
  if n = 0 then [] else upFrom (va / 2 ^ 16) ((va + n - 1) / 2 ^ 16 + 1 - va / 2 ^ 16)

/-- What the dispatcher's translation of a run of bytes answers: every page a hit, the first page that misses, or a
refusal. -/
def State.dispRun (s : State) (part asid va n : Nat) (kind : AccessKind) : Option (Nat ⊕ Nat) :=
  (pagesOf va n).findSome? fun p =>
    let at_ := max va (p * 2 ^ 16)
    match s.dispXlate part asid at_ kind with
    | .hit _ _ _ => none
    | .trap c => some (.inr c)
    | .miss => some (.inl at_)
    | .held => some (.inl at_)

/-- The refusals of the pages of a run are used up. -/
def State.forgetRefusals (s : State) (asid va n : Nat) : State :=
  { s with dispatch := { s.dispatch with
      refused := s.dispatch.refused.filter fun r => !(decide (r.1 = asid) && (pagesOf va n).contains r.2.1) } }

/-- The byte that the dispatcher reads at an address it has translated. -/
def State.dispByte (s : State) (part asid va : Nat) : Byte :=
  match s.dispXlate part asid va .load with
  | .hit loc _ _ => (s.readLoc loc).getD 0
  | _ => 0

/-- `n` bytes that the dispatcher reads. -/
def State.dispRead (s : State) (part asid va n : Nat) : List Byte :=
  (upFrom va n).map (s.dispByte part asid)

/-- The dispatcher stores bytes through its translation. -/
def State.dispStore (s : State) (part asid va : Nat) : List Byte → State
  | [] => s
  | b :: bs =>
    let s' := match s.dispXlate part asid va .store with
      | .hit loc _ _ => s.storeBytes loc [b]
      | _ => s
    s'.dispStore part asid (va + 1) bs

/-! ### Group fault records (R380) -/

/-- Words of a launch record. -/
def Group.word (g : Group) (i : Nat) : Word :=
  g.record[i]?.getD 0

/-- The entries of a group's fault record whose page now has a translation are written, those refused are dropped
(R380). -/
def State.flushFaults (s : State) (launch : Nat) : State :=
  match s.group? launch with
  | none => s
  | some g =>
    let step := fun (acc : State × List (Nat × Word × Word)) (e : Nat × Word × Word) =>
      let va := (g.word 4).toNat + 16 * e.1
      match acc.1.dispRun g.partition g.asid va 16 .store with
      | none => (acc.1.dispStore g.partition g.asid va (wordToBytes e.2.1 ++ wordToBytes e.2.2), acc.2)
      | some (.inr _) => (acc.1.forgetRefusals g.asid va 16, acc.2)
      | some (.inl miss) => (acc.1.dispMiss g.partition g.asid miss .store, acc.2 ++ [e])
    let r := g.frecs.foldl step (s, [])
    r.1.onGroup launch fun g => { g with frecs := r.2 }

/-- RecordGroupFault: an entry of a group's fault record (R380). -/
def State.groupFault (s : State) (launch cause role : Nat) (address : Word) : State :=
  let s := s.onGroup launch fun g =>
    let e := (g.faults, toWord (role % 4096 * 2 ^ 16 + cause), address)
    { g with
      faults := g.faults + 1
      frecs := if g.faults < wbits (g.word 5) 15 0 then g.frecs ++ [e] else g.frecs }
  s.flushFaults launch

/-- An entry that concerns a message (R380). -/
def State.messageFault (s : State) (launch cause receiver : Nat) (m : Msg) : State :=
  s.groupFault launch cause receiver (toWord (m.src * 2 ^ 16 + m.kind * 2 ^ 8 + m.channel))

end Sys2Proof.Machine
end

