-- ==== Sys2Proof/Machine/Operands.lean ====
section
/-! DEFINITION. The checks before an instruction's own effect (R70), and every operand form: register operands with their k
bits, immediates, effective addresses of the three spaces, footprints, role designators and footprint boxes. -/

namespace Sys2Proof.Machine

/-! ### Traps as results of checks -/

/-- A check that fails: the cause and the value of C.FADDR. -/
abbrev Failure := Nat × Word

/-- The first of several checks that fails. -/
def firstFailure : List (Option Failure) → Option Failure
  | [] => none
  | some f :: _ => some f
  | none :: l => firstFailure l

/-- A check that fails when its condition holds. -/
def failIf (cond : Bool) (cause : Nat) (faddr : Word) : Option Failure :=
  if cond then some (cause, faddr) else none

/-! ### The checks of R70, steps 2 to 4 -/

/-- What a word needs of the place where it stands and of the core that issues it (Table 3-14, R80, R83, R344), and the
registers it names: sources with their k bits, and destinations (R55).  `legal` is false for a word that its entry refuses
as an encoding. -/
structure Needs where
  rep : Bool := false
  delay : Bool := true
  small : Bool := true
  cellarer : Bool := false
  tsc : Bool := true
  priv : Bool := false
  legal : Bool := true
  srcs : List (RegName × Bool) := []
  dsts : List RegName := []
deriving DecidableEq, Repr

/-- What the checks of R70 decide before the instruction's own entry; `wait` while a result that the word names, or a load that
may still trap before it, is in flight (R29, R110, R174). -/
inductive Verdict where
  | go
  | trap (cause : Nat) (faddr : Word)
  | block (r : RegName)
  | wait
deriving DecidableEq, Repr

/-- C.FADDR of an EMPTY for a register source (R57). -/
def emptyFaddr : RegName → Word
  | .x n => toWord n.toNat
  | .v n => toWord (2 ^ 8 + n.toNat)

/-- Whether the word may be executed by the agent's kind of core (R76, Table 18-13). -/
def Needs.coreOk (n : Needs) : Agent → Bool
  | .slot _ _ => n.small
  | .cel _ => n.cellarer
  | .tsc _ => n.cellarer && n.tsc

/-- Whether the word may stand where the slot is: in a repeat frame, or in a delay slot (R80, R83). -/
def Needs.placeOk (n : Needs) (k : Control) : Bool :=
  (k.frame.isNone || n.rep) && (k.redirect.isNone || n.delay)

/-- The registers that a word names. -/
def Needs.names (n : Needs) : List RegName :=
  n.srcs.map Prod.fst ++ n.dsts

/-- Whether a load writes a register; X0 takes no write (R69). -/
def LoadDst.writes : LoadDst → RegName → Bool
  | .x d, .x n => decide (d = n) && decide (n ≠ 0)
  | .v d, .v n => decide (d = n)
  | _, _ => false

/-- Whether a load that keeps its slot has still to land (R110, R174). -/
def Ctx.owed (c : Ctx) : Bool :=
  c.loads.any fun l => l.own.isSome

/-- Whether a register is the destination of such a load: an instruction that names it is held (R110). -/
def Ctx.busy (c : Ctx) (r : RegName) : Bool :=
  c.loads.any fun l => l.own.isSome && l.dst.writes r

/-- Steps 2 to 4 of R70: encoding and place, privilege, full/empty and poison.  DESIGN CHOICE: of several poisoned registers the first
of the sources in order, then the destination, gives C.FADDR (log entry 126). -/
def Needs.checks (n : Needs) (a : Agent) (c : Ctx) : Verdict :=
  if !(n.coreOk a && n.placeOk c.ctl && n.legal) then .trap Cause.illegal (c.ctl.iword.setWidth 64)
  else if n.priv && !c.supervisor a then .trap Cause.priv 0
  else
    match n.names.find? c.isPoisoned with
    | some r => .trap Cause.poison (c.heldAddress r)
    | none =>
      match n.srcs.find? fun r => r.2 && c.isEmpty r.1 with
      | some r => .trap Cause.empty (emptyFaddr r.1)
      | none =>
        match n.names.find? c.isEmpty with
        | some r => .block r
        | none => .go

/-- The checks of a word.  It waits while a result that it names is not usable, and, where it would trap or block, while an
earlier load of the slot may still trap (R110, R174; log entry 18). -/
def Needs.verdict (n : Needs) (a : Agent) (c : Ctx) : Verdict :=
  if n.names.any c.busy || (c.owed && decide (n.checks a c ≠ .go)) then .wait else n.checks a c

/-- A source X register with its k bit. -/
def srcX (n : BitVec 5) (k : BitVec 1) : RegName × Bool :=
  (.x n, decide (k = 1))

/-- A source X register read with k = 0. -/
def srcX0 (n : BitVec 5) : RegName × Bool :=
  (.x n, false)

/-- A source V register (R140). -/
def srcV (n : BitVec 5) : RegName × Bool :=
  (.v n, false)

/-- The issuing context. -/
def State.me (s : State) : Ctx :=
  s.ctx s.cur

/-- A change of the issuing context, and the step past the instruction. -/
def State.finish (s : State) (f : Ctx → Ctx) : State :=
  s.onCtx s.cur fun c => (f c).advance

/-- An instruction that writes one X register. -/
def State.writeX (s : State) (d : BitVec 5) (v : Word) : State :=
  s.finish (·.setX d v)

/-! ### Immediates and effective addresses (R67, R68, R167) -/

/-- imm15 sign-extended. -/
def sext15 (i : BitVec 15) : Word := i.signExtend 64

/-- imm15 zero-extended. -/
def zext15 (i : BitVec 15) : Word := i.setWidth 64

/-- The bytes of an access size; .N touches one byte (Table 3-12). -/
def sizeBytes (sz : BitVec 3) : Nat :=
  match sz.toNat with
  | 0 => 1
  | 1 => 2
  | 2 => 4
  | 3 => 8
  | 4 => 64
  | _ => 1

/-- X[a] + off10 × scale, modulo 2^64; for .N the byte offset is off10 bits 9:1 (R68). -/
def effAddr (base : Word) (sz : BitVec 3) (off : BitVec 10) : Word :=
  if sz = 5 then base + (off.extractLsb' 1 9).signExtend 64
  else base + off.signExtend 64 * toWord (sizeBytes sz)

/-- The nibble of a .N access. -/
def nibbleOf (sz : BitVec 3) (off : BitVec 10) : Option Bool :=
  if sz = 5 then some (off.getLsbD 0) else none

/-- The target of a branch (R78). -/
def branchTarget (pc : Addr) (disp : Addr) : Addr :=
  pc + 4 * disp

/-! ### Bindings and cellar addresses -/

/-- The binding of the issuing core; an unbound core has none. -/
def State.binding (s : State) (a : Agent) : Option Binding :=
  match a with
  | .slot n _ => (s.core n).binding
  | _ => none

/-- NROLES of the issuing group; zero where there is none. -/
def State.nroles (s : State) (a : Agent) : Nat :=
  match s.binding a with
  | some b => b.nroles
  | none => 0

/-- The launch of the issuing group. -/
def State.launchOf (s : State) (a : Agent) : Nat :=
  match s.binding a with
  | some b => b.launch
  | none => 0

/-- The role of the issuing core. -/
def State.myRole (s : State) (a : Agent) : Nat :=
  match s.binding a with
  | some b => b.role
  | none => 0

/-- The role field of a cellar address (R21). -/
def caRole (ca : Nat) : Nat := bits ca 29 18

/-- The slice offset of a cellar address (R21). -/
def caOff (ca : Nat) : Nat := bits ca 17 0

/-- The cellar address of an own-slice offset (R21). -/
def State.ownCa (s : State) (a : Agent) (off : Nat) : Nat :=
  s.myRole a * 2 ^ 18 + off

/-- The place of a cellar address. -/
def State.caLoc (s : State) (a : Agent) (ca : Nat) : Loc :=
  .slice (s.launchOf a) (caRole ca) (caOff ca)

/-- The place of an own-slice offset. -/
def State.ownLoc (s : State) (a : Agent) (off : Nat) : Loc :=
  .slice (s.launchOf a) (s.myRole a) off

/-- An own-slice offset is refused: bits 63:18 set, or its `n` bytes pass 0x3_FF00. -/
def badOwn (w : Word) (n : Nat) : Bool :=
  decide (Config.sliceTop < w.toNat + n)

/-- A cellar address is refused: bits 63:30 set, a role that the group has not, or `n` bytes that pass 0x3_FF00. -/
def badCellar (nroles : Nat) (w : Word) (n : Nat) : Bool :=
  decide (2 ^ 30 ≤ w.toNat) || decide (nroles ≤ caRole w.toNat) || decide (Config.sliceTop < caOff w.toNat + n)

/-! ### Footprints (R31) -/

/-- A footprint box of a TCB box word (Table 2-3). -/
def boxOf (w : Word) : Nat × Nat :=
  (wbits w 17 0, wbits w 50 32)

/-- The boxes in use: NBOX of TCB word 0x00, with 9 to 15 treated as 8 (Table 2-3). -/
def Activation.footprint (a : Activation) : List (Nat × Nat) :=
  (a.boxes.take (min (wbits a.ctl 59 56) 8)).map boxOf

/-- The first offset from `p` below `e` that no box holds; `fuel` bounds the boxes passed. -/
def outsideFrom (boxes : List (Nat × Nat)) (e : Nat) : Nat → Nat → Option Nat
  | 0, p => if p < e then some p else none
  | fuel + 1, p =>
    if e ≤ p then none
    else
      match boxes.find? fun b => decide (b.1 ≤ p) && decide (p < b.2) with
      | some b => outsideFrom boxes e fuel b.2
      | none => some p

/-- The first byte of `n` from an offset that lies outside a footprint (R31). -/
def firstOutside (boxes : List (Nat × Nat)) (off n : Nat) : Option Nat :=
  outsideFrom boxes (off + n) (boxes.length + 1) off

/-- The footprint check of bytes of a role's slice: FOOTPRINT, with C.FADDR the cellar address of the first byte outside.
Offsets from 0x3_FF00 are not subject to it. -/
def footprintCheck (boxes : List (Nat × Nat)) (role off n : Nat) : Option Failure :=
  match firstOutside boxes off n with
  | some o => if o < Config.sliceTop then some (Cause.footprint, toWord (role * 2 ^ 18 + o)) else none
  | none => none

/-- The footprint of the issuing activation. -/
def State.boxes (s : State) (a : Agent) : List (Nat × Nat) :=
  (s.ctx a).act.footprint

/-- Whether a register holds part of a drained row, which a channel-0 activation may not store (R263). -/
def State.drainedCheck (s : State) (a : Agent) (r : RegName) : Option Failure :=
  match r with
  | .v n =>
    failIf (isSmall a && decide ((s.ctx a).act.source = 0) && decide (24 ≤ n.toNat)) Cause.protect
      (toWord (0x200 + n.toNat))
  | .x _ => none

/-- Whether the issuing activation is atomic (R47). -/
def State.atomic (s : State) (a : Agent) : Bool :=
  isSmall a && (s.ctx a).act.ctl.getLsbD 63

/-! ### Role designators (R18, R126) -/

/-- The stage of a role of a group. -/
def Group.stageOf (g : Group) (r : Nat) : Nat :=
  g.stages[r]?.getD 0

/-- The roles of a stage, in ascending order. -/
def Group.rolesOf (g : Group) (stage : Nat) : List Nat :=
  (upFrom 0 g.stages.length).filter fun r => decide (g.stageOf r = stage)

/-- The role that a designator names; none where it is refused. -/
def State.resolve (s : State) (a : Agent) (w : Word) : Option Nat :=
  match s.binding a with
  | none => none
  | some b =>
    if 2 ^ 19 ≤ w.toNat then none
    else
      let id := wbits w 11 0
      let pick := fun (stage : Int) =>
        if stage < 0 ∨ (b.nstages : Int) ≤ stage then none
        else
          match s.group? b.launch with
          | some g => (g.rolesOf stage.toNat)[id]?
          | none => none
      match wbits w 13 12 with
      | 0 => if id < b.nroles then some id else none
      | 1 => pick (wbits w 18 14)
      | 2 => pick (b.stage + signed 5 (wbits w 18 14))
      | _ => none

end Sys2Proof.Machine
end

