-- ==== Sys2Proof/Machine/Order.lean ====
section
/-! DEFINITION. The ordering machine (Chapter 11): homes and scopes of entries, the constraints of Table 11-4, reads through
the slot's own stores, the making of entries, fences, and what a slot's wait does. -/

namespace Sys2Proof.Machine

/-! ### Homes and scopes (R272) -/

/-- The place an entry touches and the number of its bytes; none for what touches no byte. -/
def Payload.span : Payload → Option (Loc × Nat)
  | .load _ loc n _ => some (loc, n)
  | .ldf _ loc => some (loc, 8)
  | .store loc bs _ _ => some (loc, bs.length)
  | .atomic _ loc _ dbl _ _ => some (loc, if dbl then 8 else 4)
  | .reduce loc _ dbl _ => some (loc, if dbl then 8 else 4)
  | .empw loc => some (loc, 8)
  | .fulw loc => some (loc, 8)
  | .few _ loc => some (loc, 8)
  | .tree _ loc => some (loc, 8)
  | .decr loc _ => some (loc, 8)
  | _ => none

/-- Whether two runs of bytes meet. -/
def meets (a b : Loc × Nat) : Bool :=
  match a, b with
  | (.slice l r o, n), (.slice l' r' o', n') =>
    decide (l = l') && decide (r = r') && decide (o < o' + n') && decide (o' < o + n)
  | (.mem p, n), (.mem p', n') => decide (p < p' + n') && decide (p' < p + n)
  | (.peer d p, n), (.peer d' p', n') => decide (d = d') && decide (p < p' + n') && decide (p' < p + n)
  | _, _ => false

/-- Whether two entries touch a byte in common. -/
def sameByte (f e : Entry) : Bool :=
  match f.what.span, e.what.span with
  | some a, some b => meets a b
  | _, _ => false

/-- Whether a place is within DEVICE scope: not a peer's memory, and not host memory (Table 11-2). -/
def Loc.inDevice : Loc → Bool
  | .slice _ _ _ => true
  | .mem pa => !(decide (Config.hostBase ≤ pa) && decide (pa < Config.hostEnd))
  | .peer _ _ => false

/-- Whether two runs of bytes touch a scratchpad word in common. -/
def meetsWord (a b : Loc × Nat) : Bool :=
  match a, b with
  | (.slice l r o, n), (.slice l' r' o', n') =>
    meets (.slice l r (o / 8), (o % 8 + n + 7) / 8) (.slice l' r' (o' / 8), (o' % 8 + n' + 7) / 8)
  | _, _ => false

/-- Whether two entries touch a scratchpad word in common, whose operations arrive at its bank in issue order (R123; log entry
137). -/
def sameWord (f e : Entry) : Bool :=
  match f.what.span, e.what.span with
  | some a, some b => meetsWord a b
  | _, _ => false

/-- Whether an entry is within DEVICE scope; messages, updates and engine entries are homed on the device. -/
def Entry.inDevice (e : Entry) : Bool :=
  match e.what.span with
  | some (loc, _) => loc.inDevice
  | none => true

/-- Whether an entry is a read of a unit's status, which no row of Table 11-4 names (Table 11-3 lists no such entry). -/
def Entry.isStatus (e : Entry) : Bool :=
  match e.what with
  | .status _ _ => true
  | _ => false

/-- Whether an entry is an engine entry. -/
def Entry.isEngine (e : Entry) : Bool :=
  match e.what with
  | .engine _ => true
  | _ => false

/-- Whether an entry is a load. -/
def Entry.isLoad (e : Entry) : Bool :=
  match e.what with
  | .load _ _ _ _ => true
  | .ldf _ _ => true
  | .few _ _ => true
  | .tree _ _ => true
  | _ => false

/-- Whether an entry is a load of bytes, which may forward from an earlier store (R276); a FEW, and an LDF, read the
full/empty bit as well, and wait (R123, R284). -/
def Entry.forwards (e : Entry) : Bool :=
  match e.what with
  | .load _ _ _ _ => true
  | _ => false

/-- Whether an entry is a returning atomic. -/
def Entry.isAtomic (e : Entry) : Bool :=
  match e.what with
  | .atomic _ _ _ _ _ _ => true
  | _ => false

/-- Whether an entry is a store of bytes, from which a load may forward (R276). -/
def Entry.isStore (e : Entry) : Bool :=
  match e.what with
  | .store _ _ _ _ => true
  | _ => false

/-! ### Constraints (R275) -/

/-- Whether the earlier entry `f` of a slot keeps the later entry `e` waiting (Table 11-4), or comes before it at a bank (R123). -/
def mustFollow (f e : Entry) : Bool :=
  !f.isStatus && !e.isStatus &&
    (((sameByte f e || sameWord f e) && !(e.forwards && f.isStore && sameByte f e))
      || (f.acq && f.page != .un && e.inDevice && e.page != .un)
      || (f.inDevice && f.page != .un && e.rel && e.page != .un)
      || e.isEngine
      || (f.page == .so && e.page == .so))

/-- The entries of a queue before an entry. -/
def earlier (q : List Entry) (id : Nat) : List Entry :=
  q.takeWhile fun f => decide (f.id ≠ id)

/-- Whether an entry of a queue may be performed as far as the slot's own entries go (R275), its predecessor in a gather or
scatter among them (R156). -/
def performable (q : List Entry) (e : Entry) : Bool :=
  (earlier q e.id).all fun f => !mustFollow f e && decide (e.chain ≠ some f.id)

/-- The entry of a number in a queue. -/
def entryOf? (q : List Entry) (id : Nat) : Option Entry :=
  q.find? fun e => decide (e.id = id)

/-- A queue without an entry. -/
def dropEntry (q : List Entry) (id : Nat) : List Entry :=
  q.filter fun e => decide (e.id ≠ id)

/-! ### Reads through the slot's own stores (R171, R276) -/

/-- A byte as a store entry leaves it, if it touches the byte at `loc`. -/
def overlay (e : Entry) (loc : Loc) (b : Byte × Bool) : Byte × Bool :=
  match e.what with
  | .store p bs nib _ =>
    if meets (p, bs.length) (loc, 1) then
      let i := match p, loc with
        | .slice _ _ o, .slice _ _ o' => o' - o
        | .mem a, .mem a' => a' - a
        | .peer _ a, .peer _ a' => a' - a
        | _, _ => 0
      let v := bs[i]?.getD 0
      match nib with
      | none => (v, false)
      | some h => (putNibble b.1 h v, b.2)
    else b
  | _ => b

/-- A byte as a buffered store of an atomic task leaves it (R49, R175). -/
def overlayEffect (f : Effect) (va : Nat) (b : Byte × Bool) : Byte × Bool :=
  match f with
  | .store a bs nib _ =>
    if a ≤ va ∧ va < a + bs.length then
      let v := bs[va - a]?.getD 0
      match nib with
      | none => (v, false)
      | some h => (putNibble b.1 h v, b.2)
    else b
  | _ => b

/-- The byte a load takes, and whether some of it comes from the home (R276): the home, then the slot's earlier stores, the latest
last, then the buffer of an atomic task, whose stores are later than any that an earlier activation has left (R49, R171). -/
def State.loadByte (s : State) (before : List Entry) (buffer : List Effect) (loc : Loc) (va : Nat) : Byte × Bool :=
  let b := ((s.readLoc loc).getD 0, true)
  let b := before.foldl (fun b e => overlay e loc b) b
  buffer.foldl (fun b f => overlayEffect f va b) b

/-- What a read of `n` bytes answers: the bytes, or the distance of the first poisoned byte that comes from the home
(R174). -/
def State.loadBytes (s : State) (before : List Entry) (buffer : List Effect) (loc : Loc) (va n : Nat) :
    List Byte ⊕ Nat :=
  let got := (upFrom 0 n).map fun i => (i, s.loadByte before buffer (loc.add i) (va + i))
  match got.find? fun g => g.2.2 && (s.poisonAt (loc.add g.1) 1).isSome with
  | some g => .inr g.1
  | none => .inl (got.map fun g => g.2.1)

/-- What an own-slice read that an instruction makes of its operands finds: it must wait, it meets poison at an offset, or it
has its bytes. -/
inductive Got where
  | wait
  | poison (off : Nat)
  | bytes (bs : List Byte)
deriving DecidableEq, Repr

/-- An own-slice read of `n` bytes that an instruction of `a` makes as it issues, marked as an acquire or a release as its
ord field says (R174, R276). -/
def State.readOwn (s : State) (a : Agent) (off n : Nat) (rel : Bool) : Got :=
  let q := (s.ctx a).queue
  let loc := s.ownLoc a off
  let e : Entry := ⟨s.nextId, false, rel, .cellar, 0, .load 0 loc n 0, none, none⟩
  if q.all fun f => !mustFollow f e then
    match s.loadBytes q [] loc off n with
    | .inl bs => .bytes bs
    | .inr i => .poison (off + i)
  else .wait

/-- Whether an own-slice operation on a word that an instruction of `a` makes as it issues may be performed: no earlier entry
of the slot must come first (R275). -/
def State.wordReady (s : State) (a : Agent) (off : Nat) (rel : Bool) : Bool :=
  let e : Entry := ⟨s.nextId, false, rel, .cellar, 0, .few 0 (s.ownLoc a off), none, none⟩
  (s.ctx a).queue.all fun f => !mustFollow f e

/-- An own-slice read that an instruction makes of its operands (R174): the state while it must wait, the trap on poison, or
what is done with the bytes. -/
def State.withOwn (s : State) (a : Agent) (off n : Nat) (k : List Byte → State) : State :=
  match s.readOwn a off n false with
  | .wait => s
  | .poison o => s.trap a Cause.poison (toWord (s.ownCa a o))
  | .bytes bs => k bs

/-- The 64-bit words that bytes hold. -/
def wordsOfBytes : List Byte → List Word
  | b0 :: b1 :: b2 :: b3 :: b4 :: b5 :: b6 :: b7 :: rest =>
    toWord (fromBytes [b0, b1, b2, b3, b4, b5, b6, b7]) :: wordsOfBytes rest
  | _ => []

/-! ### Making entries (R273, R274) -/

/-- An entry appended to a slot's access queue; `mk` makes it from its number. -/
def State.enqueue (s : State) (a : Agent) (mk : Nat → Entry) : State :=
  let id := s.nextId
  { s with nextId := id + 1 }.onCtx a fun c => { c with queue := c.queue ++ [mk id] }

/-- A load record opened for a slot. -/
def State.openLoad (s : State) (a : Agent) (r : LoadRec) : State :=
  s.onCtx a fun c => { c with loads := c.loads ++ [r] }

/-- Whether the slot has an access to an SO page that has not been performed, or whose data have not landed (R274,
Table 7-3). -/
def State.soPending (s : State) (a : Agent) : Bool :=
  ((s.ctx a).queue.any fun e => e.page == .so) || ((s.ctx a).loads.any fun r => r.so)

/-- A part of a global access: its first address, its number of bytes, its place, kind and entry. -/
structure Part where
  va : Nat
  n : Nat
  loc : Loc
  page : PageKind
  ent : Word × Word
deriving DecidableEq, Repr

/-- What translating every page of an access answers (R173). -/
inductive Parts where
  | ok (ps : List Part)
  | trap (cause : Nat) (va : Nat)
  | miss (va : Nat)
  | held
deriving DecidableEq, Repr

/-- The runs of bytes that an access of `n` bytes cuts at 64 KiB page boundaries. -/
def runsOf (va n : Nat) : List (Nat × Nat) :=
  (pagesOf va n).map fun p =>
    let lo := max va (p * 2 ^ 16)
    (lo, min (va + n) (p * 2 ^ 16 + 2 ^ 16) - lo)

/-- The strongest of two page kinds (R25). -/
def strongest : PageKind → PageKind → PageKind
  | .so, _ => .so
  | _, .so => .so
  | .rc, _ => .rc
  | _, .rc => .rc
  | .un, _ => .un
  | _, .un => .un
  | .cellar, .cellar => .cellar

/-- Two runs that one page holds are one part (R25, R276). -/
def joinParts (ps : List Part) : List Part :=
  match ps with
  | [p, q] => if p.ent = q.ent ∧ p.loc.add p.n = q.loc then [{ p with n := p.n + q.n }] else [p, q]
  | ps => ps

/-- Every page of an access translated and checked before any part has effect (R173). -/
def State.partsOf (s : State) (a : Agent) (asid va n : Nat) (kind : AccessKind) : Parts :=
  let rec go : List (Nat × Nat) → List Part → Parts
    | [], acc => .ok (joinParts acc.reverse)
    | (v, k) :: rs, acc =>
      match s.xlate a asid v kind with
      | .hit loc page ent => go rs (⟨v, k, loc, page, ent⟩ :: acc)
      | .trap c => .trap c v
      | .miss => .miss v
      | .held => .held
  go (runsOf va n) []

/-- The strongest kind of the pages of an access (R25). -/
def kindOf (ps : List Part) : PageKind :=
  ps.foldl (fun k p => strongest k p.page) .cellar

/-- A global access of the issuing slot of `n` bytes at `va`: the trap, the hold for a miss or for an earlier SO access, or
what is done with its parts (R167, R169, R173, R274). -/
def State.withParts (s : State) (a : Agent) (va n : Nat) (kind : AccessKind) (k : List Part → State) : State :=
  if 2 ^ 56 ≤ va then s.trap a Cause.protect (toWord va)
  else
    match s.partsOf a (s.asidOf (coreNo a)) va n kind with
    | .trap c v => s.trap a c (toWord v)
    | .miss v => s.missOf a (s.asidOf (coreNo a)) v kind
    | .held => s
    | .ok ps => if kindOf ps = .so ∧ s.soPending a then s else k ps

/-- The miss entry that an access through a translation would make, for its HOT count (R374). -/
def State.missFor (s : State) (a : Agent) (va : Nat) (kind : AccessKind) : MissWait :=
  let n := coreNo a
  ⟨missKind kind, va, s.asidOf n, hwidOf n, 0, s.roleOf n, none⟩

/-- The accesses of a slot through translation entries are counted (R365, R374). -/
def State.useParts (s : State) (a : Agent) (kind : AccessKind) (ps : List Part) : State :=
  match a with
  | .slot n _ => ps.foldl (fun s p => s.useEntry (some n) (clusterOf n) p.ent (s.missFor a p.va kind)) s
  | _ => s

/-- The parts as an access is ordered: a vector access by the strongest kind among its pages, any other part by part
(R25, R278). -/
def ordered (vec : Bool) (ps : List Part) : List Part :=
  if vec then ps.map fun p => { p with page := kindOf ps } else ps

/-- The translation entry that a part went through; a part in cellar space has none. -/
def Part.tlb (p : Part) : Option (Word × Word) :=
  if p.page = .cellar then none else some p.ent

/-- The store entries of a store of bytes over its parts; a part on a UN page takes no mark (Table 7-3). -/
def State.storeParts (s : State) (a : Agent) (acq rel : Bool) (nib : Option Bool) (vec : Bool) :
    List Part → List Byte → State
  | [], _ => s
  | p :: ps, bs =>
    (s.enqueue a fun id =>
      ⟨id, acq && p.page != .un, rel && p.page != .un, p.page, p.va, .store p.loc (bs.take p.n) nib vec, none,
        p.tlb⟩).storeParts a acq rel nib vec ps (bs.drop p.n)

/-- A load record opened for entries that `mk` makes, one for each of `n` parts, from the record's number and the part. -/
def State.openParts (s : State) (a : Agent) (dst : LoadDst) (nib : Option Bool) (so : Bool) (own : Option Control) (n : Nat)
    (mk : Nat → Nat → Nat → Entry) : State :=
  let rec_ := s.nextId
  let s := { s with nextId := rec_ + 1 }
  let first := s.nextId
  let s := (upFrom 0 n).foldl (fun s i => s.enqueue a fun id => mk rec_ i id) s
  s.openLoad a ⟨rec_, dst, (upFrom first n).map fun i => (i, none), nib, none, so, own, none⟩

/-- The load entries of a load over its parts, opening the record that collects them; `own` is the control with which a load
that keeps its slot issues. -/
def State.loadParts (s : State) (a : Agent) (acq rel : Bool) (nib : Option Bool) (dst : LoadDst) (own : Option Control)
    (ps : List Part) : State :=
  let seen := (s.ctx a).act.buffer.length
  let none_ : Part := ⟨0, 0, .mem 0, .cellar, (0, 0)⟩
  s.openParts a dst nib (ps.any fun p => p.page == .so) own ps.length fun rec_ i id =>
    let p := ps[i]?.getD none_
    ⟨id, acq && p.page != .un, rel && p.page != .un, p.page, p.va, .load rec_ p.loc p.n seen, none, p.tlb⟩

/-- A load of one entry, not on any page, that fills X[d] when it lands: it empties X[d] at issue (R54), or, where it keeps its
slot, leaves it to the hold of R110. -/
def State.loadOne (s : State) (d : BitVec 5) (keeps : Bool) (mk : Nat → Nat → Entry) : State :=
  let own := if keeps then some s.me.ctl else none
  (s.openParts s.cur (.x d) none false own 1 fun rec_ _ id => mk rec_ id).finish fun c =>
    if keeps then c else c.makeEmpty (.x d)

/-- A read of a unit's status: the answer is the state at the issue (log entry 38); X[d] is emptied, and filled when the answer
lands (R54, R110). -/
def State.askStatus (s : State) (d : BitVec 5) (answer : Word) : State :=
  s.loadOne d false fun rec_ id => ⟨id, false, false, .cellar, 0, .status rec_ answer, none, none⟩

/-! ### Load records (R169, R174) -/

/-- A part of a load has been performed: its bytes, or the address of its first poisoned byte. -/
def LoadRec.got (r : LoadRec) (part : Nat) (d : List Byte ⊕ Nat) : LoadRec :=
  match d with
  | .inl bs => { r with parts := r.parts.map fun p => if p.1 = part then (p.1, some bs) else p }
  | .inr at_ =>
    { r with
      parts := r.parts.map fun p => if p.1 = part then (p.1, some []) else p
      poison := match r.poison with
        | some old => some (min old at_)
        | none => some at_ }

/-- The load record whose data an entry brings. -/
def Payload.record? : Payload → Option Nat
  | .load r _ _ _ => some r
  | .ldf r _ => some r
  | .atomic r _ _ _ _ _ => some r
  | .few r _ => some r
  | .tree r _ => some r
  | .status r _ => some r
  | _ => none

/-- Whether every part of a load has been performed. -/
def LoadRec.ready (r : LoadRec) : Bool :=
  r.parts.all fun p => p.2.isSome

/-- The bytes of a load whose parts have all been performed. -/
def LoadRec.bytes (r : LoadRec) : List Byte :=
  (r.parts.map fun p => p.2.getD []).flatten

/-- The value that bytes give a load of their length, zero-extended; a .N load takes its nibble (R168). -/
def loadValue (nib : Option Bool) (bs : List Byte) : Nat :=
  match nib with
  | none => fromBytes bs
  | some h => (getNibble (bs.headD 0) h).toNat

/-- Element `j` of `w` bytes of a vector register replaced. -/
def setElemBytes (v : VReg) (w j : Nat) (bs : List Byte) : VReg :=
  let old := v.toNat
  let lo := 2 ^ (8 * w * j)
  let m := 2 ^ (8 * w)
  BitVec.ofNat 512 (old - (old / lo % m) * lo + (fromBytes bs % m) * lo)

/-- The data of a load lands in its register (R54, R169), or leaves it empty and poisoned (R174). -/
def Ctx.land (c : Ctx) (r : LoadRec) : Ctx :=
  match r.dst, r.poison with
  | .x d, none => c.setX d (toWord (loadValue r.nibble r.bytes))
  | .v d, none => c.setV d (BitVec.ofNat 512 (fromBytes r.bytes))
  | .x d, some p => c.poisonReg (.x d) (toWord p)
  | .v d, some p => c.poisonReg (.v d) (toWord p)
  | .elem _ _ _, _ => c
  | .nowhere, _ => c

/-- The load record of a number. -/
def Ctx.loadOf? (c : Ctx) (id : Nat) : Option LoadRec :=
  c.loads.find? fun r => decide (r.id = id)

/-- A load record changed. -/
def Ctx.onLoad (c : Ctx) (id : Nat) (f : LoadRec → LoadRec) : Ctx :=
  { c with loads := c.loads.map fun r => if r.id = id then f r else r }

/-- A load record closed. -/
def Ctx.closeLoad (c : Ctx) (id : Nat) : Ctx :=
  { c with loads := c.loads.filter fun r => decide (r.id ≠ id) }

/-! ### Loads that keep their slot (R110, R174; log entry 18) -/

/-- What performing an entry of such a load answers: its bytes, or the trap that it takes at its instruction. -/
inductive OwnGot where
  | bytes (bs : List Byte)
  | trap (cause : Nat) (faddr : Word)
deriving DecidableEq, Repr

/-- The read of an entry of a load: bytes and poison of its home through the slot's own stores (R276); an LDF reads the full/empty
bit in the same step (R284); none where the entry reads nothing so. -/
def State.ownRead (s : State) (a : Agent) (e : Entry) : Option OwnGot :=
  let q := earlier (s.ctx a).queue e.id
  match e.what with
  | .load _ loc n _ =>
    some (match s.loadBytes q [] loc e.va n with
      | .inl bs => .bytes bs
      | .inr i => .trap Cause.poison (toWord (e.va + i)))
  | .ldf _ loc =>
    match loc with
    | .slice l r off =>
      match s.coreOf? l r with
      | some c =>
        some (if !(s.core c).isFull off then .trap Cause.empty (toWord e.va)
          else match s.poisonAt loc 8 with
            | some i => .trap Cause.poison (toWord (e.va + i))
            | none => .bytes (s.readBytes loc 8))
      | none => none
    | _ => none
  | .few _ loc =>
    match loc with
    | .slice l r off => (s.coreOf? l r).map fun c => .bytes (toBytes 8 (b2n ((s.core c).isFull off)))
    | _ => none
  | _ => none

/-- Whether performing an entry of such a load never traps: a FEW, and a read of TEXT (R122, R406). -/
def Payload.trapFree : Payload → Bool
  | .few _ _ => true
  | .tree _ _ => true
  | _ => false

/-- Whether such a load may still trap: it has neither been performed nor kept what it read. -/
def Ctx.mayTrap (c : Ctx) (r : LoadRec) : Bool :=
  r.own.isSome && !r.ready && r.spare.isNone && c.queue.any fun e => decide (e.what.record? = some r.id) && !e.what.trapFree

/-- Whether performing `f` before `e`, an entry of such a load, may change what `e` finds: bytes that it does not forward, or the
full/empty bit that an LDF reads. -/
def alters (f e : Entry) : Bool :=
  sameByte f e && match f.what with
    | .store _ _ _ _ => !e.forwards
    | .empw _ => !e.forwards
    | .fulw _ => !e.forwards
    | .atomic _ _ _ _ _ _ => true
    | .reduce _ _ _ _ => true
    | .decr _ _ => true
    | _ => false

/-- What an instruction that issues past such a load may count on: the load can trap no more, or would find no trap now, whatever the
slot has posted before it, and then keeps what it reads in case the word changes; none where it may still trap. -/
def State.latched (s : State) (a : Agent) (r : LoadRec) : Option LoadRec :=
  let q := (s.ctx a).queue
  if !(s.ctx a).mayTrap r then some r
  else
    match r.parts with
    | [(p, none)] =>
      match entryOf? q p with
      | some e =>
        if (earlier q p).any fun f => alters f e then none
        else
          match s.ownRead a e with
          | some (.bytes bs) => some { r with spare := some bs }
          | _ => none
      | none => none
    | _ => none

/-- The state in which an instruction issues past the loads that keep the slot of `a`; none where one of them may still
trap. -/
def State.latch (s : State) (a : Agent) : Option State :=
  let rs := (s.ctx a).loads.map (s.latched a)
  if rs.all Option.isSome then some (s.onCtx a fun c => { c with loads := rs.filterMap id }) else none

/-- Whether what an instruction has done between `s` and `t` is to issue a load that can be taken back: one that keeps its slot, or one
of bytes of no SO page, and no gather. -/
def State.opensLoad (s t : State) : Bool :=
  match (t.ctx s.cur).loads.getLast? with
  | some r =>
    decide (s.nextId ≤ r.id) && !r.so && (match r.dst with
      | .elem _ _ _ => false
      | _ => true)
      && (r.own.isSome || ((t.ctx s.cur).queue.filter fun e => decide (s.nextId ≤ e.id)).all Entry.forwards)
  | none => false

/-- Whether the slot goes on after an instruction: it has not trapped, its activation has not ended, and it is RUNNING. -/
def State.goesOn (s t : State) : Bool :=
  decide ((t.ctx s.cur).trap.seq = s.me.trap.seq) && decide ((t.ctx s.cur).act.id = s.me.act.id)
    && decide ((t.ctx s.cur).ctl.status = .running)

/-- The effect of an instruction whose checks have passed.  Behind a load that keeps the slot, a further load may issue, which the trap
of the first takes back; any other instruction issues only where no earlier load can still trap, and one that would trap or leave the
slot waits for them (R110, R124, R174; log entry 18). -/
def State.behind (s : State) (effect : State → State) : State :=
  if !s.me.owed then effect s
  else if s.opensLoad (effect s) then effect s
  else
    match s.latch s.cur with
    | some s' => if s'.goesOn (effect s') then effect s' else s
    | none => s

/-- An instruction of the issuing agent: the checks of R70, then its own effect. -/
def State.issue (s : State) (n : Needs) (effect : State → State) : State :=
  match n.verdict s.cur s.me with
  | .go => s.behind effect
  | .trap cause faddr => if cause = Cause.illegal then s.illegal s.cur faddr else s.trap s.cur cause faddr
  | .block r => s.block s.cur r
  | .wait => s

/-! ### Fences (R279) -/

/-- Whether an entry is in a named space: s for slices, messages and updates, g for global memory (R272). -/
def Entry.inSpace (e : Entry) (sp g : Bool) : Bool :=
  match e.what with
  | .status _ _ => false
  | .engine _ => false
  | .message _ _ => sp
  | .credit _ _ => sp
  | .inject _ _ => sp
  | w =>
    match w.span with
    | some (.slice _ _ _, _) => sp
    | some _ => g
    | none => false

/-- The role a slice entry, message or update is homed at. -/
def Entry.roleHome (e : Entry) (own : Nat) : Option Nat :=
  match e.what with
  | .message r _ => some r
  | .credit r _ => some r
  | .inject _ _ => some own
  | w =>
    match w.span with
    | some (.slice _ r _, _) => some r
    | _ => none

/-- Whether an entry's home is within a scope of a role (Table 11-2). -/
def Entry.within (e : Entry) (scope own : Nat) : Bool :=
  match e.roleHome own with
  | some r =>
    match scope with
    | 0 => false
    | 1 => decide (r = own)
    | 2 => decide (r / 16 = own / 16)
    | 3 => decide (r / 1024 = own / 1024)
    | _ => true
  | none =>
    match scope with
    | 5 => true
    | 4 => e.inDevice
    | _ => false

/-- Whether an entry is in the set of a fence (Table 11-5). -/
def inFence (loadsOnly : Bool) (scope : Nat) (sp g : Bool) (own : Nat) (e : Entry) : Bool :=
  decide (scope ≠ 0) && e.inSpace sp g && e.within scope own && (!loadsOnly || e.isLoad || e.isAtomic)

/-- Whether a fence has nothing left to wait for. -/
def fenceDone (q : List Entry) (loadsOnly : Bool) (scope : Nat) (sp g : Bool) (own before : Nat) : Bool :=
  q.all fun e => !(decide (e.id < before) && inFence loadsOnly scope sp g own e)

end Sys2Proof.Machine
end

