-- ==== Sys2Proof/Machine/Memory.lean ====
section
/-! DEFINITION. Loads and stores of the own slice and of cellar addresses, the word operations, futures and fences
(R122 to R125, R167 to R184), and the shared steps of global accesses and retire buffers. -/

namespace Sys2Proof.Machine

/-! ### Retire buffers (R48, Table 2-9) -/

/-- The bytes that a buffered store of `n` bytes uses. -/
def storeUse (n : Nat) : Nat := 8 + 8 * ((n + 7) / 8)

/-- A global effect of an atomic task buffered, or RETIRE_OVERFLOW with the effect's address; `k` is the rest of the
instruction. -/
def State.buffer (s : State) (a : Agent) (use : Nat) (faddr : Word) (fs : List Effect) (k : State → State) : State :=
  if 4096 < (s.ctx a).act.used + use then s.trap a Cause.retireOverflow faddr
  else
    k (s.onCtx a fun c => { c with act := { c.act with used := c.act.used + use, buffer := c.act.buffer ++ fs } })

/-! ### The data register of a load or store (R168) -/

/-- The register that d names: a V register for .V, else an X register. -/
def dataReg (sz : BitVec 3) (d : BitVec 5) : RegName :=
  if sz = 4 then .v d else .x d

/-- Where a load of a size puts its data. -/
def loadDst (sz : BitVec 3) (d : BitVec 5) : LoadDst :=
  if sz = 4 then .v d else .x d

/-- The bytes that a store of a size takes from its data register; .N takes bits 3:0. -/
def Ctx.storeData (c : Ctx) (sz : BitVec 3) (d : BitVec 5) : List Byte :=
  match sz.toNat with
  | 4 => toBytes 64 (c.v d).toNat
  | 5 => toBytes 1 (wbits (c.x d) 3 0)
  | _ => toBytes (sizeBytes sz) (c.x d).toNat

/-- The data of a load that holds its slot, written to its register. -/
def Ctx.takeData (c : Ctx) (sz : BitVec 3) (d : BitVec 5) (nib : Option Bool) (bs : List Byte) : Ctx :=
  if sz = 4 then c.setV d (BitVec.ofNat 512 (fromBytes bs)) else c.setX d (toWord (loadValue nib bs))

/-- What a load of the M form needs. -/
def loadNeeds (sz : BitVec 3) (d a : BitVec 5) (k : BitVec 1) : Needs :=
  { srcs := [srcX a k], dsts := [dataReg sz d] }

/-- What a store of the M form needs: its k bit belongs to a and to the data register (R69). -/
def storeNeeds (sz : BitVec 3) (d a : BitVec 5) (k : BitVec 1) : Needs :=
  { srcs := [srcX a k, (dataReg sz d, decide (k = 1))] }

/-- The marks of ord: acquire and release (Table 3-13). -/
def ordAcq (o : BitVec 2) : Bool := o.getLsbD 0

/-- The release mark of ord. -/
def ordRel (o : BitVec 2) : Bool := o.getLsbD 1

/-! ### Own-slice accesses (Table 7-2) -/

/-- The address checks of LDS and STS, in order. -/
def State.checkOwn (s : State) (a : Agent) (ea : Word) (sz : BitVec 3) : Option Failure :=
  let n := sizeBytes sz
  let e := ea.toNat
  firstFailure
    [failIf (decide (2 ^ 18 ≤ e) || decide (Config.sliceSize < e + n)) Cause.protect ea,
     failIf (decide (Config.sliceTop < e + n) && !(decide (sz = 3) && decide (e % 8 = 0))) Cause.protect ea,
     footprintCheck (s.boxes a) (s.myRole a) e n]

/-- TSTAT: the head result with the number of results waiting (Table 22-4). -/
def tstatWord (text : List TextResult) : Word :=
  match text with
  | [] => 0
  | r :: _ => toWord (2 ^ 63 + r.status.toNat % 2 ^ 63 + text.length % 8 * 2 ^ 8)

/-- A load of a TINJ or TEXT word (R406): TCTL, TSTAT, and TRES, which removes the head result and wakes a slot whose
injection waits (R407). -/
def State.loadTree (s : State) (a : Agent) (off : Nat) : Word × State :=
  let core := coreNo a
  match off with
  | 0x3FF00 => ((s.ctx a).sp.tctl, s)
  | 0x3FF80 => (tstatWord (s.core core).text, s)
  | 0x3FF88 =>
    match (s.core core).text with
    | r :: rest =>
      (r.value, (s.onCore core fun k => { k with text := rest, treeOpen := k.treeOpen - 1 }).wake core .tree)
    | [] => (0, s)
  | _ => (0, s)

/-- Whether TCTL holds a reserved bit or a refused value (Table 22-3). -/
def tctlBad (w : Word) : Bool :=
  decide (wbits w 63 56 ≠ 0) || decide (wbits w 47 10 ≠ 0) || decide (wbits w 7 7 ≠ 0) || decide (3 < wbits w 6 4)
    || decide (8 < wbits w 3 0)

/-- A store to a TINJ or TEXT word (R406, R407): TCTL is written; TOP injects, with at most four operations of the core
open; any other is ignored. -/
def State.storeTree (s : State) (a : Agent) (off : Nat) (v : Word) (acq : Bool) : State :=
  let core := coreNo a
  match off with
  | 0x3FF00 => s.finish fun c => { c with sp := { c.sp with tctl := v } }
  | 0x3FF08 =>
    let ctl := (s.ctx a).sp.tctl
    if tctlBad ctl then s.trap a Cause.format ctl
    else if 4 ≤ (s.core core).treeOpen then s.stall a .tree
    else
      let s := s.onCore core fun k => { k with treeOpen := k.treeOpen + 1 }
      (s.enqueue a fun id => ⟨id, acq, true, .cellar, 0, .inject ctl v, none, none⟩).finish id
  | _ => s.finish id

/-- A load of own-slice bytes that keeps its slot: an entry, and the record that lands in its register (R110, R169, R174; log
entry 18). -/
def State.loadOwn (s : State) (d : BitVec 5) (o : BitVec 2) (sz : BitVec 3) (nib : Option Bool) (off : Nat) : State :=
  (s.loadParts s.cur (ordAcq o) (ordRel o) nib (loadDst sz d) (some s.me.ctl)
    [⟨s.ownCa s.cur off, sizeBytes sz, s.ownLoc s.cur off, .cellar, (0, 0)⟩]).finish id

/-- A load of a TEXT word: an entry of a load that keeps its slot, an acquire where it may take a result (R406, Table 11-3; log
entry 138). -/
def State.loadText (s : State) (d : BitVec 5) (o : BitVec 2) (off : Nat) : State :=
  s.loadOne d true fun rec_ id =>
    ⟨id, ordAcq o || decide (off = 0x3FF88), ordRel o, .cellar, s.ownCa s.cur off, .tree rec_ (s.ownLoc s.cur off), none, none⟩

/-- LDS: a load of the own slice (R167 to R169, R174); a TINJ word is read at issue (R406).  C.FADDR of a POISON is the
cellar address of the first poisoned byte: R174 says only 'the address', and the model takes the form that R21 gives every
scratchpad byte (log entry 100). -/
def execLds (d a : BitVec 5) (k : BitVec 1) (o : BitVec 2) (sz : BitVec 3) (i : BitVec 10) (s : State) :
    Host.Outcome State Fault Refusal :=
  .next (s.issue (loadNeeds sz d a k) fun s =>
    let ea := effAddr (s.me.x a) sz i
    match s.checkOwn s.cur ea sz with
    | some (cause, f) => s.trap s.cur cause f
    | none =>
      let off := ea.toNat
      if off < Config.sliceTop then s.loadOwn d o sz (nibbleOf sz i) off
      else if 0x3FF80 ≤ off then s.loadText d o off
      else
        match s.readOwn s.cur off 8 (ordRel o) with
        | .wait => s
        | _ =>
          let (v, s) := s.loadTree s.cur off
          s.writeX d v)

/-- STS: a posted store to the own slice (R167 to R170).  DESIGN CHOICE: R263's check of a drained row comes before the address checks
(log entry 127). -/
def execSts (d a : BitVec 5) (k : BitVec 1) (o : BitVec 2) (sz : BitVec 3) (i : BitVec 10) (s : State) :
    Host.Outcome State Fault Refusal :=
  .next (s.issue (storeNeeds sz d a k) fun s =>
    let ea := effAddr (s.me.x a) sz i
    match firstFailure [s.drainedCheck s.cur (dataReg sz d), s.checkOwn s.cur ea sz] with
    | some (cause, f) => s.trap s.cur cause f
    | none =>
      let off := ea.toNat
      let bs := s.me.storeData sz d
      if Config.sliceTop ≤ off then s.storeTree s.cur off (s.me.x d) (ordAcq o)
      else
        (s.enqueue s.cur fun id =>
          ⟨id, ordAcq o, ordRel o, .cellar, s.ownCa s.cur off, .store (s.ownLoc s.cur off) bs (nibbleOf sz i) (decide (sz = 4)), none,
            none⟩).finish id)

/-! ### Cellar accesses (Table 7-2) -/

/-- The address checks of LDC and STC, in order. -/
def State.checkCellar (s : State) (a : Agent) (ea : Word) (n : Nat) : Option Failure :=
  firstFailure
    [failIf (badCellar (s.nroles a) ea n) Cause.protect ea,
     footprintCheck (s.boxes a) (caRole ea.toNat) (caOff ea.toNat) n]

/-- Whether a cellar address names the issuing role (R21). -/
def State.isOwn (s : State) (a : Agent) (ca : Nat) : Bool :=
  decide (caRole ca = s.myRole a)

/-- LDC: a load through a cellar address; of the own role it acts as LDS does, of another role it empties its register and
lets the slot run on (R167 to R169). -/
def execLdc (d a : BitVec 5) (k : BitVec 1) (o : BitVec 2) (sz : BitVec 3) (i : BitVec 10) (s : State) :
    Host.Outcome State Fault Refusal :=
  .next (s.issue (loadNeeds sz d a k) fun s =>
    let ea := effAddr (s.me.x a) sz i
    let n := sizeBytes sz
    match s.checkCellar s.cur ea n with
    | some (cause, f) => s.trap s.cur cause f
    | none =>
      let ca := ea.toNat
      if s.isOwn s.cur ca then s.loadOwn d o sz (nibbleOf sz i) (caOff ca)
      else
        (s.loadParts s.cur (ordAcq o) (ordRel o) (nibbleOf sz i) (loadDst sz d) none
          [⟨ca, n, s.caLoc s.cur ca, .cellar, (0, 0)⟩]).finish fun c => c.makeEmpty (dataReg sz d))

/-- STC: a posted store through a cellar address (R167 to R170).  DESIGN CHOICE: R263's check of a drained row comes before the address
checks (log entry 127). -/
def execStc (d a : BitVec 5) (k : BitVec 1) (o : BitVec 2) (sz : BitVec 3) (i : BitVec 10) (s : State) :
    Host.Outcome State Fault Refusal :=
  .next (s.issue (storeNeeds sz d a k) fun s =>
    let ea := effAddr (s.me.x a) sz i
    match firstFailure [s.drainedCheck s.cur (dataReg sz d), s.checkCellar s.cur ea (sizeBytes sz)] with
    | some (cause, f) => s.trap s.cur cause f
    | none =>
      let bs := s.me.storeData sz d
      (s.enqueue s.cur fun id =>
        ⟨id, ordAcq o, ordRel o, .cellar, ea.toNat, .store (s.caLoc s.cur ea.toNat) bs (nibbleOf sz i) (decide (sz = 4)), none,
          none⟩).finish id)

/-! ### Word operations and futures (R122 to R125) -/

/-- The checks of a word operation on a cellar address: PROTECT, then the footprint of the 8-byte word (R122). -/
def State.checkWord (s : State) (a : Agent) (ca : Word) : Option Failure :=
  firstFailure
    [failIf (decide (2 ^ 30 ≤ ca.toNat) || decide (s.nroles a ≤ caRole ca.toNat)
        || decide (Config.sliceTop ≤ caOff ca.toNat)) Cause.protect ca,
     footprintCheck (s.boxes a) (caRole ca.toNat) (caOff ca.toNat / 8 * 8) 8]

/-- The place of the word that a cellar address names; bits 2:0 are ignored. -/
def State.wordLoc (s : State) (a : Agent) (ca : Word) : Loc :=
  s.caLoc a (ca.toNat / 8 * 8)

/-- EMPW and FULW: a posted entry that empties or fills a word (R122, Table 11-3). -/
def State.markWord (s : State) (a : BitVec 5) (k : BitVec 1) (mk : Loc → Payload) : State :=
  s.issue { srcs := [srcX a k] } fun s =>
    let ca := s.me.x a
    match s.checkWord s.cur ca with
    | some (cause, f) => s.trap s.cur cause f
    | none =>
      (s.enqueue s.cur fun id =>
        ⟨id, false, false, .cellar, ca.toNat / 8 * 8, mk (s.wordLoc s.cur ca), none, none⟩).finish id

/-- EMPW (R122). -/
def execEmpw (a : BitVec 5) (k : BitVec 1) (s : State) : Host.Outcome State Fault Refusal :=
  .next (s.markWord a k .empw)

/-- FULW (R122). -/
def execFulw (a : BitVec 5) (k : BitVec 1) (s : State) : Host.Outcome State Fault Refusal :=
  .next (s.markWord a k .fulw)

/-- FEW: the full/empty bit of a word; a remote one empties X[d] until its reply lands, one of the own slice keeps its slot
(R110, R122). -/
def execFew (d a : BitVec 5) (k : BitVec 1) (s : State) : Host.Outcome State Fault Refusal :=
  .next (s.issue { srcs := [srcX a k], dsts := [.x d] } fun s =>
    let ca := s.me.x a
    match s.checkWord s.cur ca with
    | some (cause, f) => s.trap s.cur cause f
    | none =>
      s.loadOne d (s.isOwn s.cur ca.toNat) fun rec_ id =>
        ⟨id, false, false, .cellar, ca.toNat / 8 * 8, .few rec_ (s.wordLoc s.cur ca), none, none⟩)

/-- LDF: a load of an own-slice word that reads its full/empty bit as it is performed, and keeps its slot (R110, R124, R284). -/
def execLdf (d a : BitVec 5) (k : BitVec 1) (o : BitVec 2) (i : BitVec 10) (s : State) :
    Host.Outcome State Fault Refusal :=
  .next (s.issue (loadNeeds 3 d a k) fun s =>
    let ea := effAddr (s.me.x a) 3 i
    let off := ea.toNat / 8 * 8
    let check := firstFailure
      [failIf (decide (2 ^ 18 ≤ ea.toNat) || decide (Config.sliceTop ≤ ea.toNat)) Cause.protect ea,
       footprintCheck (s.boxes s.cur) (s.myRole s.cur) off 8]
    match check with
    | some (cause, f) => s.trap s.cur cause f
    | none =>
      s.loadOne d true fun rec_ id =>
        ⟨id, ordAcq o, ordRel o, .cellar, s.ownCa s.cur off, .ldf rec_ (s.ownLoc s.cur off), none, none⟩)

/-- URET: back from the EMPTY handler through the return record; without one it raises ILLEGAL (R125, R350). -/
def execUret (s : State) : Host.Outcome State Fault Refusal :=
  .next (s.issue { delay := false } fun s =>
    if s.me.trap.uh then s.onCtx s.cur Ctx.uret
    else s.trap s.cur Cause.illegal (s.me.ctl.iword.setWidth 64))

/-! ### Fences (R181 to R184, R279) -/

/-- The scope a fence acts at: on a cellarer core or TSC, DEVICE at the narrowest (R184). -/
def fenceScope (a : Agent) (scope : Nat) : Nat :=
  if isSmall a then scope else max scope 4

/-- A fence over spaces `x` holds its slot until its set has been performed; at SLOT scope it completes at once. -/
def State.fence (s : State) (loadsOnly : Bool) (scope : BitVec 5) (x : BitVec 2) : State :=
  s.issue { cellarer := true, legal := isSmall s.cur || !x.getLsbD 0 } fun s =>
    let sc := fenceScope s.cur scope.toNat
    if sc = 0 then s.finish id
    else s.hold s.cur (.fence loadsOnly sc (x.getLsbD 0) (x.getLsbD 1) s.nextId)

/-- FENCE (R182). -/
def execFence (scope : BitVec 5) (x : BitVec 2) (s : State) : Host.Outcome State Fault Refusal :=
  .next (s.fence false scope x)

/-- FENCE.ACQ waits for loads and returning atomics alone (Table 11-5). -/
def execFenceAcq (scope : BitVec 5) (x : BitVec 2) (s : State) : Host.Outcome State Fault Refusal :=
  .next (s.fence true scope x)

/-- FENCE.REL (R182). -/
def execFenceRel (scope : BitVec 5) (x : BitVec 2) (s : State) : Host.Outcome State Fault Refusal :=
  .next (s.fence false scope x)

end Sys2Proof.Machine
end

