-- ==== Sys2Proof/Machine/Activation.lean ====
section
/-! DEFINITION. Channels, mailboxes, the ready ring, decrements, and how an activation ends (R32 to R41, R51 to R53, R58 to
R60). -/

namespace Sys2Proof.Machine

/-! ### Handler-table entries (Table 2-4) -/

/-- The entry of a channel; the PRIO of channel 63 is always 7 (R33). -/
def Core.handler (k : Core) (ch : Nat) : Handler :=
  let h := k.handlers.get ch Handler.zero
  if ch = 63 then { h with prio := 7 } else h

/-- Whether a channel is a candidate for admission (R43). -/
def Handler.ready (h : Handler) : Bool := h.en && h.pend && !h.run

/-- An entry changed; a channel that becomes a candidate has its age counted from now (R43, R44). -/
def State.onHandler (s : State) (core ch : Nat) (f : Handler → Handler) : State :=
  s.onCore core fun k =>
    let old := k.handler ch
    let new := f old
    let new := if new.ready && !old.ready then { new with since := s.now, aged := false } else new
    { k with handlers := k.handlers.put ch new }

/-- The CTL word of an entry. -/
def Handler.ctlWord (h : Handler) : Word :=
  toWord (b2n h.en * 2 ^ 63 + b2n h.pend * 2 ^ 62 + h.prio % 8 * 2 ^ 59 + b2n h.run * 2 ^ 58 + h.haddr * 4)

/-- The BUF word of an entry. -/
def Handler.bufWord (h : Handler) : Word :=
  toWord (h.tcbp * 2 ^ 52 + h.mbase * 2 ^ 40 + h.mlog * 2 ^ 36 + b2n h.mv * 2 ^ 35 + h.head * 2 ^ 16 + h.tail)

/-- An entry from its two words, with no activation running. -/
def handlerOf (ctl buf : Word) : Handler :=
  ⟨ctl.getLsbD 63, ctl.getLsbD 62, false, wbits ctl 61 59, wbits ctl 55 2, wbits buf 63 52, wbits buf 51 40,
    wbits buf 39 36, buf.getLsbD 35, wbits buf 24 16, wbits buf 8 0, 0, false⟩

/-- Whether a mailbox reaches beyond offset 0x3_FEFF (R32). -/
def mailboxBad (mbase mlog : Nat) : Bool :=
  decide (Config.sliceTop < mbase * 64 + 64 * 2 ^ mlog)

/-! ### Messages (R34, R35, R59) -/

/-- The header word of a message (Table 2-5). -/
def Msg.header (m : Msg) : Nat :=
  m.kind % 4 * 2 ^ 30 + m.len % 64 * 2 ^ 24 + m.extra % 4096 * 2 ^ 12 + m.src % 4096

/-- The 64 bytes of a message: the payload, zeros beyond LEN, and the header (R34). -/
def Msg.image (m : Msg) : List Byte :=
  (m.payload ++ List.replicate 60 0).take 60 ++ toBytes 4 m.header

/-- The offset of a mailbox entry. -/
def Handler.slotOf (h : Handler) (idx : Nat) : Nat :=
  h.mbase * 64 + 64 * (idx % 2 ^ h.mlog)

/-- The messages a mailbox holds. -/
def Handler.count (h : Handler) : Nat :=
  (h.tail + 512 - h.head) % 512

/-- Whether a message of the mesh finds its mailbox full, so that it waits there (R35). -/
def State.findsFull (s : State) (m : MeshMsg) : Bool :=
  match s.coreOf? m.launch m.dst with
  | none => false
  | some core =>
    let k := s.core core
    let h := k.handler m.msg.channel
    h.mv && decide (2 ^ h.mlog ≤ h.count) && !(match k.binding with | some b => b.ended | none => false)

/-- Whether a message that waits at a full mailbox of a role, among some of the mesh, stalls delivery to the role behind it
(R35). -/
def State.stalledBy (s : State) (mesh : List MeshMsg) (launch dst : Nat) : Bool :=
  mesh.any fun m => decide (m.launch = launch) && decide (m.dst = dst) && s.findsFull m

/-- A group whose role discarded a message after its DONE completes with MSG_AFTER_DONE (R59). -/
def State.afterDone (s : State) (launch role : Nat) (m : Msg) : State :=
  (s.messageFault launch Cause.msgAfterDone role m).onGroup launch fun g => { g with afterDone := true }

/-- The drain-buffer entry of the notice at a mailbox index is freed (R262). -/
def Core.freeNotice (k : Core) (idx : Nat) : Core :=
  match k.drainAt.find? idx with
  | some e => { k with drain := k.drain.erase e, drainAt := k.drainAt.erase idx }
  | none => k

/-- The message at a mailbox index, as far as a fault entry tells of it. -/
def Core.mailAt (k : Core) (ch idx : Nat) : Msg :=
  let h := fromBytes (k.slice.readN ((k.handler ch).slotOf idx + 60) 4)
  ⟨bits h 31 30, 0, bits h 11 0, 0, ch, []⟩

/-- `n` messages from an index on are discarded; `record` enters each in the group fault record (R59). -/
def State.dropMail (s : State) (core ch idx : Nat) (record : Bool) : Nat → State
  | 0 => s
  | n + 1 =>
    let i := idx % 512
    let m := (s.core core).mailAt ch i
    let s := if ch = 0 then s.onCore core (·.freeNotice i) else s
    let s := match record, (s.core core).binding with
      | true, some b => s.afterDone b.launch b.role m
      | _, _ => s
    s.dropMail core ch (i + 1) record n

/-- Whether a running activation of the core holds the entry at HEAD of a channel. -/
def State.headNamed (s : State) (core ch : Nat) : Bool :=
  (upFrom 0 8).any fun n =>
    let c := s.ctx (.slot core n)
    decide (c.ctl.status ≠ .free) && decide (c.act.source = ch) && c.act.named && !c.act.forgotten

/-- The first unconsumed message of a channel that no activation holds, and how many there are from it on. -/
def State.unheld (s : State) (core ch : Nat) : Nat × Nat :=
  let h := (s.core core).handler ch
  if s.headNamed core ch && decide (0 < h.count) then ((h.head + 1) % 512, h.count - 1) else (h.head, h.count)

/-- A write of MBASE, MLOG or MV: unconsumed messages are discarded, HEAD and TAIL become zero, and a running activation's
entry is forgotten (R32, R135, R262). -/
def State.resetMailbox (s : State) (core ch : Nat) : State :=
  let (idx, n) := s.unheld core ch
  let s := s.dropMail core ch idx false n
  let s := (upFrom 0 8).foldl (fun s i =>
    let a := Agent.slot core i
    if (s.ctx a).ctl.status ≠ .free ∧ (s.ctx a).act.source = ch then
      s.onCtx a fun c => { c with act := { c.act with forgotten := true } }
    else s) s
  s.onHandler core ch fun h => { h with head := 0, tail := 0 }

/-! ### The ready ring and decrements (R38 to R40) -/

/-- A push onto a core's ready ring: discarded for a role that has executed DONE (R59, R134), waiting at the ring input
while the ring is full or another push waits (R40). -/
def State.pushReady (s : State) (core tcbp : Nat) : State :=
  let k := s.core core
  if (match k.binding with | some b => b.ended | none => false) then s
  else if k.ringInput ≠ [] ∨ 256 ≤ k.ring.length then
    s.onCore core fun k => { k with ringInput := k.ringInput ++ [tcbp] }
  else
    s.onCore core fun k =>
      if k.ring = [] then { k with ring := [tcbp], ringSince := s.now, ringAged := false }
      else { k with ring := k.ring ++ [tcbp] }

/-- The step of a decrement by `n` on the word at an offset of a core's slice (R39). -/
def State.decrement (s : State) (core off n : Nat) : State :=
  let off := off / 8 * 8
  let w := (s.core core).sliceWord off
  let count := wbits w 31 0
  let put := fun (s : State) (w : Word) => s.onCore core (·.sliceStore off (wordToBytes w))
  if n ≤ count then
    let w' := w - toWord n
    if count = n ∧ w.getLsbD 63 then (put s (w' - toWord (2 ^ 63))).pushReady core (wbits w 59 48)
    else put s w'
  else
    let s := put s w
    match (s.core core).binding with
    | some b => s.groupFault b.launch Cause.protect b.role (toWord (b.role * 2 ^ 18 + off))
    | none => s

/-! ### The end of an activation (R36, R52, R53) -/

/-- How an activation ends: by RETIRE or DONE; by a servicer's ABORT with a cause; or by a kill, a quarantine or a soft
pre-emption, after which its message starts a fresh activation. -/
inductive Ending where
  | retire
  | abort (cause : Nat)
  | requeue (cause : Nat)
deriving DecidableEq, Repr

/-- The mailbox step (R36, R53). -/
def State.endMailbox (s : State) (core : Nat) (act : Activation) (how : Ending) : State :=
  if 64 ≤ act.source then s
  else
    s.onHandler core act.source fun h =>
      match how with
      | .requeue _ => { h with run := false, pend := true }
      | _ =>
        let head := if act.named && !act.forgotten then (h.head + 1) % 512 else h.head
        { h with run := false, head := head, pend := h.pend || decide (head ≠ h.tail) }

/-- TCB.ACTS incremented, or TCB.CAUSE written (R52, R53, Table 2-3). -/
def State.endTcb (s : State) (core tcb : Nat) (how : Ending) : State :=
  match how with
  | .retire =>
    let acts := fromBytes ((s.core core).slice.readN (tcb + 0x18) 4)
    s.onCore core (·.sliceStore (tcb + 0x18) (toBytes 4 ((acts + 1) % 2 ^ 32)))
  | .abort cause => s.onCore core (·.sliceStore (tcb + 0x1C) (toBytes 1 cause))
  | .requeue cause => s.onCore core (·.sliceStore (tcb + 0x1C) (toBytes 1 cause))

/-- The join decrement: a posted update that is a release (R41, Table 11-3). -/
def State.endJoin (s : State) (a : Agent) (act : Activation) : State :=
  if act.join.getLsbD 63 then
    let ja := wbits act.join 29 0 / 8 * 8
    s.enqueue a fun id => ⟨id, false, true, .cellar, ja, .decr (s.caLoc a ja) 1, none, none⟩
  else s

/-- The address that the first poisoned register of a context holds, X registers before V registers (R174; log entry
28). -/
def Ctx.firstPoison (c : Ctx) : Option Word :=
  match (upFrom 0 32).find? fun n => c.regs.xPoison.getLsbD n with
  | some n => some (c.heldAddress (.x (BitVec.ofNat 5 n)))
  | none =>
    match (upFrom 0 32).find? fun n => c.regs.vPoison.getLsbD n with
    | some n => some (c.heldAddress (.v (BitVec.ofNat 5 n)))
    | none => none

/-- The recording of a slot is dropped, and a tape it decants is sealed again (Table 13-10, R327). -/
def Cluster.endCask (cl : Cluster) (a : Agent) : Cluster :=
  { cl with
    tapes := cl.tapes.map fun t =>
      if t.2.owner = some a then
        match t.2.state with
        | .recording => (t.1, Tape.init)
        | .decanting => (t.1, { t.2 with state := .sealed, owner := none, savedFor := none })
        | .paused => (t.1, { t.2 with state := .sealed, owner := none, savedFor := none })
        | _ => t
      else t }

/-- The tiles that are resident for a slot become resident for none (R160). -/
def Core.dropTiles (k : Core) (slot : Nat) : Core :=
  { k with tiles := k.tiles.map fun t => if t.2.owner = some slot then (t.1, { t.2 with owner := none, dirty := false }) else t }

/-- A detail that its slot has not taken enters the group fault record (R237, R267, R306). -/
def State.recordDetail (s : State) (launch role : Nat) (detail : Word) : State :=
  if detail = 0 then s else s.groupFault launch (wbits detail 63 56) role (toWord (wbits detail 55 0))

/-- The context of a slot with no activation. -/
def Ctx.emptied (c : Ctx) : Ctx :=
  { c with
    ctl := { c.ctl with
      status := .free
      redirect := none
      frame := none
      awaits := none
      stallOn := none
      hold := none
      refusal := none }
    act := Activation.none
    tiles := Vector.replicate 8 ⟨0, 0⟩
    rackFault := 0
    pressFault := 0
    trelFault := 0
    cask := .none
    loads := c.loads.map fun r => { r with dst := .nowhere, own := none }
    scatter := none
    regs := { c.regs with xEmpty := 0, vEmpty := 0, xPoison := 0, vPoison := 0 } }

/-- What every end of an activation does last: poison and pending details are recorded (R174, R237), the drain-buffer
entry, tiles and tapes let go, the reservation freed and the slot FREE (R52). -/
def State.vacate (s : State) (core n : Nat) : State :=
  let a := Agent.slot core n
  let c := s.ctx a
  let launch := s.launchOf a
  let role := s.myRole a
  let s := match c.firstPoison with
    | some w => s.groupFault launch Cause.poison role w
    | none => s
  let s := ((s.recordDetail launch role c.rackFault).recordDetail launch role c.pressFault).recordDetail launch role
    c.trelFault
  let s := s.onCore core fun k =>
    let k := k.dropTiles n
    match c.act.drain with
    | some e => { k with drain := k.drain.erase e }
    | none => k
  let s := s.onCluster (clusterOf core) (·.endCask a)
  s.onCtx a Ctx.emptied

/-- The activation of a slot ends, after the commit of an atomic one: the steps of R52, or those of R53. -/
def State.endActivation (s : State) (core n : Nat) (how : Ending) : State :=
  let a := Agent.slot core n
  let c := s.ctx a
  let s := s.endMailbox core c.act how
  let s := s.endTcb core (wbits c.sp.tcb 17 0) how
  let s := match how with
    | .retire => s.endJoin a c.act
    | _ => s
  s.vacate core n

/-- The slots of a core. -/
def slotsOf (core : Nat) : List Agent :=
  (upFrom 0 8).map (Agent.slot core)

/-- DONE is executed for a role: no further admission, its unconsumed messages are discarded and recorded, and its ready ring
is emptied (R58, R59); a second DONE changes nothing more. -/
def State.endRole (s : State) (core : Nat) : State :=
  match (s.core core).binding with
  | none => s
  | some b =>
    if b.ended then s
    else
      let s := s.onCore core fun k =>
        { k with binding := some { b with ended := true }, ring := [], ringInput := [] }
      let s := s.wake core .ring
      (upFrom 0 64).foldl (fun s ch =>
        if ((s.core core).handler ch).count = 0 then s
        else
          let (idx, n) := s.unheld core ch
          (s.dropMail core ch idx true n).onHandler core ch fun h => { h with tail := idx }) s

/-- RETIRE or DONE: an atomic task seals its buffer and waits for the commit; a streaming one ends (R51, R52, R130). -/
def State.retire (s : State) (a : Agent) (isDone : Bool) : State :=
  let core := coreNo a
  let s := if isDone then s.endRole core else s
  if s.atomic a then
    (s.onCtx a fun c => { c with act := { c.act with sealed := true, done := isDone } }).hold a .commit
  else s.endActivation core (slotNo a) .retire

end Sys2Proof.Machine
end

