-- ==== Sys2Proof/Machine/Num.lean ====
section
/-! DEFINITION. Numbers: format descriptors, Decode, Round, RoundInt and Encode, exact arithmetic, and the stochastic draw
(Chapter 4). -/

namespace Sys2Proof.Machine

/-! ### Values and flags -/

/-- The value of a floating pattern (R86): NaN, an infinity, or (-1)^neg × m × 2^e; a zero keeps its sign. -/
inductive FVal where
  | nan
  | inf (neg : Bool)
  | fin (neg : Bool) (m : Nat) (e : Int)
deriving DecidableEq, Repr

/-- The flags of an operation, as bits 3:0 of C.FSTAT (Table 4-10): NV, OF, UF, NX. -/
abbrev Flags := BitVec 4

/-- Inexact. -/
def fNX : Flags := 1
/-- Tiny and inexact. -/
def fUF : Flags := 2
/-- Finite overflow. -/
def fOF : Flags := 4
/-- Invalid. -/
def fNV : Flags := 8

/-- A flag raised when a condition holds. -/
def flagIf (b : Bool) (f : Flags) : Flags :=
  if b then f else 0

/-- Rounding modes (Table 4-7). -/
inductive RMode where
  | rne
  | rz
  | rd
  | ru
  | rsr
deriving DecidableEq, Repr

/-- The mode of an RM code; 5 to 7 are refused. -/
def rmodeOf (n : Nat) : Option RMode :=
  match n with
  | 0 => some .rne
  | 1 => some .rz
  | 2 => some .rd
  | 3 => some .ru
  | 4 => some .rsr
  | _ => none

/-! ### Formats -/

/-- A floating format: exponent bits, fraction bits, bias and special-value policy (R90 to R92, Table 4-4); the fixed formats
have policy 0. -/
structure FloatFmt where
  eb : Nat
  m : Nat
  bias : Nat
  svp : Nat
deriving DecidableEq, Repr

/-- FP64 (Table 4-3). -/
def fp64 : FloatFmt := ⟨11, 52, 1023, 0⟩
/-- FP32. -/
def fp32 : FloatFmt := ⟨8, 23, 127, 0⟩
/-- FP16. -/
def fp16 : FloatFmt := ⟨5, 10, 15, 0⟩
/-- BF16. -/
def bf16 : FloatFmt := ⟨8, 7, 127, 0⟩

/-- The width of a floating format. -/
def FloatFmt.width (f : FloatFmt) : Nat := 1 + f.eb + f.m

/-- What a descriptor's KIND, WIDTH, EB, BIAS and SVP name (Table 4-5). -/
inductive NumFmt where
  | int (sgn : Bool) (w : Nat)
  | float (f : FloatFmt)
  | i4g
  | e8m0
deriving DecidableEq, Repr

/-- KIND of a descriptor (Table 4-5). -/
def fKind (d : BitVec 32) : Nat := bits d.toNat 31 28
/-- WIDTH of a descriptor. -/
def fWidth (d : BitVec 32) : Nat := bits d.toNat 27 21
/-- EB of a descriptor. -/
def fEb (d : BitVec 32) : Nat := bits d.toNat 20 17
/-- BIAS of a descriptor. -/
def fBias (d : BitVec 32) : Nat := bits d.toNat 16 11
/-- SVP of a descriptor. -/
def fSvp (d : BitVec 32) : Nat := bits d.toNat 10 9
/-- RM of a descriptor. -/
def fRm (d : BitVec 32) : Nat := bits d.toNat 8 6
/-- SAT of a descriptor. -/
def fSat (d : BitVec 32) : Bool := d.getLsbD 5
/-- MX of a descriptor. -/
def fMx (d : BitVec 32) : Nat := bits d.toNat 4 3

/-- Whether R94 refuses a descriptor. -/
def fmtBad (d : BitVec 32) : Bool :=
  let k := fKind d
  let w := fWidth d
  decide (8 < k) || decide (4 < fRm d) || decide (fMx d = 3) || decide (bits d.toNat 2 0 ≠ 0)
    || (decide (k = 2) && decide (w ≠ 64)) || (decide (k = 3) && decide (w ≠ 32))
    || ((decide (k = 4) || decide (k = 5)) && decide (w ≠ 16))
    || (decide (k < 2) && !([4, 8, 16, 32, 64].contains w))
    || (decide (k = 6) && !([4, 6, 8].contains w))
    || (decide (k = 7) && decide (w ≠ 4)) || (decide (k = 8) && decide (w ≠ 8))
    || (decide (k = 6) && (decide (fEb d = 0) || decide (w ≤ fEb d) || (decide (fSvp d = 0) && decide (w - 1 - fEb d = 0))))
    || (decide (k ≠ 6) && (decide (fEb d ≠ 0) || decide (fBias d ≠ 0) || decide (fSvp d ≠ 0)))
    || (decide (fMx d ≠ 0) && !(decide (k = 6) || (decide (k = 0) && decide (w = 8))))

/-- The format of a descriptor that R94 lets pass. -/
def numFmt (d : BitVec 32) : NumFmt :=
  match fKind d with
  | 0 => .int true (fWidth d)
  | 1 => .int false (fWidth d)
  | 2 => .float fp64
  | 3 => .float fp32
  | 4 => .float fp16
  | 5 => .float bf16
  | 6 => .float ⟨fEb d, fWidth d - 1 - fEb d, fBias d, fSvp d⟩
  | 7 => .i4g
  | _ => .e8m0

/-! ### Decode and Encode -/

/-- Decode for a floating format (R90 to R92). -/
def decodeF (f : FloatFmt) (b : Nat) : FVal :=
  let neg := decide (b / 2 ^ (f.eb + f.m) % 2 = 1)
  let e := b / 2 ^ f.m % 2 ^ f.eb
  let fr := b % 2 ^ f.m
  let top := 2 ^ f.eb - 1
  if f.svp = 0 ∧ e = top then (if fr = 0 then .inf neg else .nan)
  else if f.svp = 1 ∧ e = top ∧ fr = 2 ^ f.m - 1 then .nan
  else if f.svp = 2 ∧ neg = true ∧ e = 0 ∧ fr = 0 then .nan
  else if e = 0 then .fin neg fr (1 - f.bias - f.m)
  else .fin neg (2 ^ f.m + fr) ((e : Int) - f.bias - f.m)

/-- Decode for E8M0 (R96). -/
def decodeE8M0 (b : Nat) : FVal :=
  if b % 256 = 255 then .nan else .fin false 1 ((b % 256 : Nat) - 127)

/-- An integer as a value. -/
def intVal (n : Int) : FVal := .fin (decide (n < 0)) n.natAbs 0

/-- Decode for any format but I4G, whose elements are plain unsigned integers (R87, R104). -/
def decodeNum (f : NumFmt) (b : Nat) : FVal :=
  match f with
  | .int true w => intVal (signed w b)
  | .int false w => intVal (b % 2 ^ w : Nat)
  | .float g => decodeF g b
  | .i4g => intVal (b % 16 : Nat)
  | .e8m0 => decodeE8M0 b

/-- The canonical NaN of a format (R92); FIN has none, and gives +0 (R98). -/
def canonNaN (f : FloatFmt) : Nat :=
  match f.svp with
  | 0 => (2 ^ f.eb - 1) * 2 ^ f.m + 2 ^ (f.m - 1)
  | 1 => 2 ^ (f.eb + f.m) - 1
  | 2 => 2 ^ (f.eb + f.m)
  | _ => 0

/-- The pattern of the largest finite value F (R92). -/
def largestBits (f : FloatFmt) : Nat :=
  match f.svp with
  | 0 => 2 ^ (f.eb + f.m) - 2 ^ f.m - 1
  | 1 => 2 ^ (f.eb + f.m) - 2
  | _ => 2 ^ (f.eb + f.m) - 1

/-- ±F as a value. -/
def largest (f : FloatFmt) (neg : Bool) : FVal :=
  match decodeF f (largestBits f) with
  | .fin _ m e => .fin neg m e
  | v => v

/-- A magnitude m × 2^e in units of 2^q, for a value that is a whole number of them. -/
def inUnits (m : Nat) (e q : Int) : Nat :=
  if q ≤ e then m * 2 ^ (e - q).toNat else m / 2 ^ (q - e).toNat

/-- The exponent of the lowest bit of a value of a format whose leading bit has exponent `top`: its unit in the last place, no
lower than a subnormal's (R97). -/
def unitOf (f : FloatFmt) (top : Int) : Int :=
  max (top - f.m) (1 - f.bias - f.m)

/-- Encode for a value of a floating format (R87). -/
def encodeF (f : FloatFmt) (v : FVal) : Nat :=
  match v with
  | .nan => canonNaN f
  | .inf neg => b2n neg * 2 ^ (f.eb + f.m) + (2 ^ f.eb - 1) * 2 ^ f.m
  | .fin neg m e =>
    if m = 0 then (if f.svp = 2 then 0 else b2n neg * 2 ^ (f.eb + f.m))
    else
      let top := e + m.log2
      let q := unitOf f top
      let n := inUnits m e q
      let ef := (q + f.m + f.bias).toNat
      b2n neg * 2 ^ (f.eb + f.m) + (if n < 2 ^ f.m then n else ef * 2 ^ f.m + (n - 2 ^ f.m))

/-! ### Rounding (R97 to R99) -/

/-- Draw of R99. -/
def draw (key ctr lane : Nat) : Nat :=
  let m := 2 ^ 64
  let z := ((ctr % 2 ^ 32 * 2 ^ 32 + key % 2 ^ 32) ^^^ (lane * 0x9E3779B97F4A7C15 % m)) % m
  let z := (z ^^^ (z >>> 30)) * 0xBF58476D1CE4E5B9 % m
  let z := (z ^^^ (z >>> 27)) * 0x94D049BB133111EB % m
  let z := z ^^^ (z >>> 31)
  z % 2 ^ 32

/-- m × 2^e rounded to a number of units of 2^q in a mode, and whether that was inexact.  `tie` says whether a tie in RNE
goes up. -/
def roundUnits (mode : RMode) (d : Nat) (neg : Bool) (tie : Nat → Bool) (m : Nat) (e q : Int) : Nat × Bool :=
  if q ≤ e then (m * 2 ^ (e - q).toNat, false)
  else
    let u := 2 ^ (q - e).toNat
    let t := m / u
    let r := m % u
    if r = 0 then (t, false)
    else
      let up := match mode with
        | .rne => decide (u < 2 * r) || (decide (2 * r = u) && tie t)
        | .rz => false
        | .rd => neg
        | .ru => !neg
        | .rsr => decide (2 ^ 32 ≤ r * 2 ^ 32 / u + d)
      (if up then t + 1 else t, true)

/-- Whether a tie goes up: to the value with an even last fraction bit; for a format without fraction bits the spec names
none (log entry 26). -/
def tieOf (f : FloatFmt) (q : Int) (t : Nat) : Bool :=
  if f.m = 0 then Config.tieUp t q else decide (t % 2 = 1)

/-- Whether n × 2^q exceeds the largest finite value of a format. -/
def exceeds (f : FloatFmt) (n : Nat) (q : Int) : Bool :=
  match largest f false with
  | .fin _ m e => if e ≤ q then decide (m < n * 2 ^ (q - e).toNat) else decide (m * 2 ^ (e - q).toNat < n)
  | _ => false

/-- The result of a finite overflow (Table 4-8). -/
def overflowed (f : FloatFmt) (mode : RMode) (sat neg : Bool) : FVal :=
  if sat ∨ f.svp = 3 then largest f neg
  else if f.svp ≠ 0 then .nan
  else
    match mode with
    | .rne => .inf neg
    | .rsr => .inf neg
    | .rz => largest f neg
    | .rd => if neg then .inf true else largest f false
    | .ru => if neg then largest f true else .inf false

/-- Round for a floating format, with the flags of R97 and R98; `d` is the draw of an RSR rounding. -/
def roundF (f : FloatFmt) (mode : RMode) (sat : Bool) (d : Nat) (x : FVal) : FVal × Flags :=
  match x with
  | .nan => if f.svp = 3 then (.fin false 0 0, fNV) else (.nan, 0)
  | .inf neg =>
    if f.svp = 0 then (.inf neg, 0)
    else if f.svp = 3 ∨ sat then (largest f neg, fNV)
    else (.nan, fNV)
  | .fin neg m e =>
    if m = 0 then (.fin (neg && decide (f.svp ≠ 2)) 0 0, 0)
    else
      let top := e + m.log2
      let q := unitOf f top
      let (n, inexact) := roundUnits mode d neg (tieOf f q) m e q
      let emin : Int := 1 - f.bias
      -- tiny after rounding: judged at the format's precision with an unbounded exponent range
      let (nu, _) := roundUnits mode d neg (tieOf f (top - f.m)) m e (top - f.m)
      let tiny := decide (top < emin) && decide (nu < 2 ^ (emin - top + f.m).toNat)
      let fl := flagIf inexact fNX ||| flagIf (inexact && tiny) fUF
      if exceeds f n q then
        let v := overflowed f mode sat neg
        (v, fl ||| fOF ||| fNX ||| flagIf (decide (v = .nan)) fNV)
      else (.fin (neg && !(decide (n = 0) && decide (f.svp = 2))) n q, fl)

/-- RoundInt of a finite value, and whether it was inexact. -/
def roundInt (mode : RMode) (d : Nat) (neg : Bool) (m : Nat) (e : Int) : Int × Bool :=
  let (n, inexact) := roundUnits mode d neg (fun t => decide (t % 2 = 1)) m e 0
  (if neg then -(n : Int) else n, inexact)

/-- A float converted to an integer of `lo` to `hi`, clamped, with its flags (R98). -/
def toInteger (lo hi : Int) (mode : RMode) (d : Nat) (x : FVal) : Int × Flags :=
  match x with
  | .nan => (0, fNV)
  | .inf neg => (if neg then lo else hi, fNV)
  | .fin neg m e =>
    let (n, inexact) := roundInt mode d neg m e
    let c := clamp n lo hi
    (c, flagIf inexact fNX ||| flagIf (decide (c ≠ n)) fNV)

/-- The least and the largest value of an integer format (Table 4-2). -/
def intRange (sgn : Bool) (w : Nat) : Int × Int :=
  if sgn then (-(2 ^ (w - 1) : Int), 2 ^ (w - 1) - 1) else (0, 2 ^ w - 1)

/-! ### Exact arithmetic (R101) -/

/-- The sign of an exact zero sum: that of two zeros of one sign, else + but for RD. -/
def zeroSign (mode : RMode) (a b : Bool) : Bool :=
  if a = b then a else decide (mode = .rd)

/-- The exact sum, and NV for ∞ − ∞. -/
def addV (mode : RMode) (x y : FVal) : FVal × Flags :=
  match x, y with
  | .nan, _ => (.nan, 0)
  | _, .nan => (.nan, 0)
  | .inf a, .inf b => if a = b then (.inf a, 0) else (.nan, fNV)
  | .inf a, .fin _ _ _ => (.inf a, 0)
  | .fin _ _ _, .inf b => (.inf b, 0)
  | .fin a m e, .fin b n g =>
    if m = 0 ∧ n = 0 then (.fin (zeroSign mode a b) 0 0, 0)
    else
      let q := min e g
      let i : Int := if a then -(inUnits m e q : Int) else inUnits m e q
      let j : Int := if b then -(inUnits n g q : Int) else inUnits n g q
      let t := i + j
      if t = 0 then (.fin (decide (mode = .rd)) 0 0, 0) else (.fin (decide (t < 0)) t.natAbs q, 0)

/-- The value with its sign changed. -/
def negV (x : FVal) : FVal :=
  match x with
  | .nan => .nan
  | .inf a => .inf !a
  | .fin a m e => .fin (!a) m e

/-- The exact product, and NV for 0 × ∞. -/
def mulV (x y : FVal) : FVal × Flags :=
  match x, y with
  | .nan, _ => (.nan, 0)
  | _, .nan => (.nan, 0)
  | .inf a, .inf b => (.inf (a != b), 0)
  | .inf a, .fin b n _ => if n = 0 then (.nan, fNV) else (.inf (a != b), 0)
  | .fin a m _, .inf b => if m = 0 then (.nan, fNV) else (.inf (a != b), 0)
  | .fin a m e, .fin b n g => (.fin (a != b) (m * n) (e + g), 0)

/-- The quotient to 128 bits and a last bit that says whether anything is left, which rounds as the exact quotient does. -/
def divV (x y : FVal) : FVal × Flags :=
  match x, y with
  | .nan, _ => (.nan, 0)
  | _, .nan => (.nan, 0)
  | .inf _, .inf _ => (.nan, fNV)
  | .inf a, .fin b _ _ => (.inf (a != b), 0)
  | .fin a _ _, .inf b => (.fin (a != b) 0 0, 0)
  | .fin a m e, .fin b n g =>
    if n = 0 then (if m = 0 then (.nan, fNV) else (.inf (a != b), 0))
    else if m = 0 then (.fin (a != b) 0 0, 0)
    else
      let k := 128 + n.log2
      let t := m * 2 ^ k
      (.fin (a != b) (t / n * 2 + b2n (decide (t % n ≠ 0))) (e - g - k - 1), 0)

/-- The square root to at least 128 bits and a last bit that says whether anything is left (R146). -/
def sqrtV (x : FVal) : FVal × Flags :=
  match x with
  | .nan => (.nan, 0)
  | .inf neg => if neg then (.nan, fNV) else (.inf false, 0)
  | .fin neg m e =>
    if m = 0 then (.fin neg 0 0, 0)
    else if neg then (.nan, fNV)
    else
      let odd : Nat := (e % 2).toNat
      let t := m * 2 ^ (256 + odd)
      let r := isqrt t
      (.fin false (r * 2 + b2n (decide (r * r ≠ t))) ((e - odd - 256) / 2 - 1), 0)

/-- Whether x < y, for values that are no NaN; −0 and +0 are equal. -/
def ltV (x y : FVal) : Bool :=
  match x, y with
  | .inf a, .inf b => a && !b
  | .inf a, _ => a
  | _, .inf b => !b
  | .fin a m e, .fin b n g =>
    let q := min e g
    let i : Int := if a then -(inUnits m e q : Int) else inUnits m e q
    let j : Int := if b then -(inUnits n g q : Int) else inUnits n g q
    decide (i < j)
  | _, _ => false

/-- Whether x orders below y for minimum and maximum: −0 below +0 (R101). -/
def belowV (x y : FVal) : Bool :=
  ltV x y ||
    match x, y with
    | .fin true 0 _, .fin false 0 _ => true
    | _, _ => false

/-- Minimum or maximum of R101. -/
def pickV (wantMax : Bool) (x y : FVal) : FVal :=
  match x, y with
  | .nan, y => y
  | x, .nan => x
  | x, y => if belowV y x != wantMax then y else x

/-- Whether a value is NaN. -/
def FVal.isNaN : FVal → Bool
  | .nan => true
  | _ => false

/-- Whether a value is NaN or an infinity. -/
def FVal.special : FVal → Bool
  | .fin _ _ _ => false
  | _ => true

end Sys2Proof.Machine
end

