-- ==== Sys2Proof/Machine/Region.lean ====
section
/-! DEFINITION. Region algebra: boxes with steps, slab canonical form, fitting, counts, images, tensor descriptors and length
tables (R186 to R196). -/

namespace Sys2Proof.Machine

/-- A box: one dimension after another, outermost first (R6). -/
abbrev Box := List Dim

/-! ### Dimensions (R187, R194) -/

/-- The step of a dimension; a dense one has step 1. -/
def Dim.step (d : Dim) : Nat := if d.st < 2 then 1 else d.st

/-- A step as Table 8-2 writes it: 0 for a dense dimension. -/
def stField (n : Nat) : Nat := if n < 2 then 0 else n

/-- A dense dimension. -/
def dense (lo hi : Int) : Dim := ⟨lo, hi, 0, 0⟩

/-- Whether a coordinate lies in a dimension of a box (R187). -/
def Dim.has (d : Dim) (c : Int) : Bool :=
  decide (d.lo ≤ c) && decide (c < d.hi) && (decide (d.st < 2) || decide (c % d.st = d.ph))

/-- The first member at or above the lower bound, when there is one below the upper bound. -/
def Dim.first (d : Dim) : Int := d.lo + ((d.ph : Int) - d.lo) % d.step

/-- The number of members of a dimension.  DESIGN CHOICE: also of a dimension that is not tight, in an OVER image loaded as it stands
(R206, R211; log entry 135). -/
def Dim.count (d : Dim) : Nat :=
  if d.hi ≤ d.first then 0 else ((d.hi - 1 - d.first) / d.step + 1).toNat

/-- A dimension made tight: its bounds are members (R194); none without a member. -/
def Dim.tight (d : Dim) : Option Dim :=
  if d.hi ≤ d.first then none
  else some ⟨d.first, d.first + (d.hi - 1 - d.first) / d.step * d.step + 1, stField d.step, (d.first % d.step).toNat⟩

/-- The common members of two progressions of steps `s` and `t` and phases `p` and `q`: their phase modulo the least common
multiple, if there is one. -/
def commonPhase (s p t q : Nat) : Option Nat :=
  ((upFrom 0 (t / Nat.gcd s t)).find? fun k => decide ((p + s * k) % t = q % t)).map fun k => p + s * k

/-- The intersection of two dimensions as sets of coordinates. -/
def Dim.inter (a b : Dim) : Option Dim :=
  match commonPhase a.step a.ph b.step b.ph with
  | none => none
  | some p => Dim.tight ⟨max a.lo b.lo, min a.hi b.hi, stField (Nat.lcm a.step b.step), p⟩

/-! ### Boxes -/

/-- Whether a cell lies in a box. -/
def Box.has : Box → List Int → Bool
  | d :: b, c :: cs => d.has c && Box.has b cs
  | _, _ => true

/-- The cells of a box, counted. -/
def Box.count (b : Box) : Nat :=
  b.foldl (fun n d => n * d.count) 1

/-- Every dimension of a box made tight; none without a member (R194). -/
def Box.tight : Box → Option Box
  | [] => some []
  | d :: b =>
    match d.tight, Box.tight b with
    | some d, some b => some (d :: b)
    | _, _ => none

/-- The intersection of two boxes as sets. -/
def Box.inter : Box → Box → Option Box
  | a :: x, b :: y =>
    match Dim.inter a b, Box.inter x y with
    | some d, some z => some (d :: z)
    | _, _ => none
  | _, _ => some []

/-- A box with its steps set to 0 (R196). -/
def Box.toDense (b : Box) : Box :=
  b.map fun d => dense d.lo d.hi

/-- Whether some dimension has a step. -/
def Box.stepped (b : Box) : Bool :=
  b.any fun d => decide (2 ≤ d.st)

/-- Whether a box is dense and holds a cell. -/
def Box.nonempty (b : Box) : Bool :=
  b.all fun d => decide (0 < d.count)

/-- The cells of a union of boxes, counted: each box, less its part in the boxes after it. -/
def countUnion : Nat → List Box → Nat
  | 0, _ => 0
  | _ + 1, [] => 0
  | fuel + 1, b :: l => b.count + countUnion fuel l - countUnion fuel (l.filterMap fun c => Box.inter c b)

/-- The cells of a list of boxes, counted once each. -/
def countBoxes (l : List Box) : Nat :=
  countUnion (l.length + 1) l

/-- Whether a union of boxes holds a cell. -/
def Box.within (l : List Box) (c : List Int) : Bool :=
  l.any fun b => Box.has b c

/-- The lower corners of two boxes compared, dimension 0 first. -/
def cornerLt : Box → Box → Bool
  | a :: x, b :: y => decide (a.lo < b.lo) || (decide (a.lo = b.lo) && cornerLt x y)
  | _, _ => false

/-- A box inserted by its lower corner. -/
def insertBox (b : Box) : List Box → List Box
  | [] => [b]
  | c :: l => if cornerLt b c then b :: c :: l else c :: insertBox b l

/-- Boxes ordered by lower corner. -/
def sortBoxes (l : List Box) : List Box :=
  l.foldl (fun acc b => insertBox b acc) []

/-! ### Slab canonical form (R191) -/

/-- A bound inserted in rising order, once. -/
def insertInt (n : Int) : List Int → List Int
  | [] => [n]
  | k :: l => if n < k then n :: k :: l else if n = k then k :: l else k :: insertInt n l

/-- The bounds of dimension 0 of boxes. -/
def boundsOf (l : List Box) (acc : List Int) : List Int :=
  l.foldl (fun acc b => match b with
    | d :: _ => insertInt d.hi (insertInt d.lo acc)
    | [] => acc) acc

/-- The cross-sections of the dense boxes that hold the coordinates from `p` to `q`. -/
def sectionsAt (p q : Int) (l : List Box) : List Box :=
  l.filterMap fun b => match b with
    | d :: rest => if d.lo ≤ p ∧ q ≤ d.hi then some rest else none
    | [] => none

/-- A slab appended: extended where it meets the last one and has the same cross-section. -/
def addSlab (slabs : List (Int × Int × List Box)) (p q : Int) (y : List Box) : List (Int × Int × List Box) :=
  match y, slabs with
  | [], _ => slabs
  | _, [] => [(p, q, y)]
  | _, (a, b, z) :: rest => if b = p ∧ z = y then (a, q, z) :: rest else (p, q, y) :: (a, b, z) :: rest

/-- The slabs between successive bounds, the last first, where `f` gives the cross-section between two bounds. -/
def slabsOf (f : Int → Int → List Box) : List Int → List (Int × Int × List Box) → List (Int × Int × List Box)
  | p :: q :: rest, slabs => slabsOf f (q :: rest) (addSlab slabs p q (f p q))
  | _, slabs => slabs

/-- The canonical boxes of a combination of two unions of dense boxes of a rank: `op` says from which of the two a cell
comes (R191, R200). -/
def canonOp (op : Bool → Bool → Bool) : Nat → List Box → List Box → List Box
  | 0, x, y => if op (!x.isEmpty) (!y.isEmpty) then [[]] else []
  | r + 1, x, y =>
    (slabsOf (fun p q => canonOp op r (sectionsAt p q x) (sectionsAt p q y)) (boundsOf y (boundsOf x [])) []).reverse.flatMap
      fun s => s.2.2.map fun b => dense s.1 s.2.1 :: b

/-- Canon(S) of a union of dense boxes (R191). -/
def canon (rank : Nat) (l : List Box) : List Box :=
  canonOp (fun x _ => x) rank l []

/-- The smallest dense box that holds two boxes. -/
def joinBox : Box → Box → Box
  | a :: x, b :: y => dense (min a.lo b.lo) (max a.hi b.hi) :: joinBox x y
  | _, _ => []

/-- BBox of boxes that hold cells (R192); none for none. -/
def bbox (l : List Box) : Option Box :=
  match (l.filterMap Box.tight).map Box.toDense with
  | [] => none
  | b :: rest => some (rest.foldl joinBox b)

/-- Whether Fit has too many boxes (R192). -/
def tooMany (l : List Box) : Bool := decide (8 < l.length)

/-- Fit with E = 0 (R192): at most eight boxes, and OVER. -/
def fit (l : List Box) : List Box × Bool :=
  if tooMany l then (l.take 7 ++ (bbox (l.drop 7)).toList, true) else (l, false)

/-! ### Registers -/

/-- The dense box list of a register (R196). -/
def Region.denseBoxes (q : Region) : List Box := q.boxes.map Box.toDense

/-- A register of boxes without a ragged extent; STRIDED as the steps have it. -/
def regionOf (didx rank : Nat) (boxes : List Box) (isOver : Bool) : Region :=
  ⟨didx, rank, isOver, boxes.any Box.stepped, false, 0, 0, boxes⟩

/-- Whether a register is one dense box (Table 8-4). -/
def Region.oneDense (q : Region) : Bool :=
  !q.strided && !q.ragged && decide (q.boxes.length = 1)

/-- Whether a register is strided or ragged. -/
def Region.special (q : Region) : Bool := q.strided || q.ragged

/-- The pairwise intersection of two boxes by R194: nothing, a box, or inexact with the dense intersection of their
bounds. -/
inductive Meet where
  | none
  | exact (b : Box)
  | inexact (b : Box)
deriving DecidableEq, Repr

/-- Whether two dimensions have steps of 2 or more that differ (R194). -/
def Dim.clash (a b : Dim) : Bool :=
  decide (2 ≤ a.st) && decide (2 ≤ b.st) && decide (a.st ≠ b.st)

/-- Two boxes intersected by R194; a pair that no cell can share in some dimension is empty. -/
def meetBoxes (x y : Box) : Meet :=
  let pairs := x.zip y
  let bounds := pairs.map fun p => dense (max p.1.lo p.2.lo) (min p.1.hi p.2.hi)
  if pairs.any (fun p => p.1.clash p.2) then
    if Box.nonempty bounds && (pairs.filter fun p => !p.1.clash p.2).all (fun p => (Dim.inter p.1 p.2).isSome) then .inexact bounds
    else .none
  else
    match Box.inter x y with
    | some b => .exact b
    | Option.none => .none

/-- The boxes of the intersections of two registers by R194, ordered, and whether one was inexact. -/
def meetAll (x y : List Box) : List Box × Bool :=
  let ms := x.flatMap fun a => y.map (meetBoxes a)
  (sortBoxes (ms.filterMap fun m => match m with
    | .exact b => some b
    | .inexact b => some b
    | .none => Option.none),
   ms.any fun m => match m with
    | .inexact _ => true
    | _ => false)

/-! ### Images (Tables 8-1 and 8-2) -/

/-- A signed 32-bit field. -/
def field32 (n : Int) : Nat := wrap 32 n

/-- A bounds word of a dimension (Table 8-2). -/
def Dim.boundsWord (d : Dim) : Word :=
  toWord (field32 d.hi * 2 ^ 32 + field32 d.lo)

/-- The step field of a dimension (Table 8-2). -/
def Dim.stepField (d : Dim) : Nat := d.ph % 2 ^ 16 * 2 ^ 16 + d.st % 2 ^ 16

/-- The words at +0x20 and +0x28 of a box (Table 8-2). -/
def Box.stepWords (b : Box) : List Word :=
  let f := fun i => ((b[i]?.map Dim.stepField).getD 0)
  [toWord (f 1 * 2 ^ 32 + f 0), toWord (f 3 * 2 ^ 32 + f 2)]

/-- The eight words of a box. -/
def Box.words (b : Box) : List Word :=
  ((b.map Dim.boundsWord ++ List.replicate 4 0).take 4) ++ b.stepWords ++ [0, 0]

/-- The header word of an image (Table 8-1). -/
def Region.header (q : Region) : Word :=
  toWord (q.didx % 64 * 2 ^ 18 + (q.rank - 1) % 4 * 2 ^ 16 + q.boxes.length % 16 * 2 ^ 12 + b2n q.ragged * 4
    + b2n q.strided * 2 + b2n q.isOver)

/-- The 72 words of an image. -/
def Region.words (q : Region) : List Word :=
  [q.header, toWord (field32 q.rshi * 2 ^ 32 + field32 q.rsh0)] ++ List.replicate 6 0
    ++ ((q.boxes.take 8).flatMap Box.words ++ List.replicate 64 0).take 64

/-- A box of an image: the dimensions below the rank. -/
def boxOfWords (rank : Nat) (ws : List Word) : Box :=
  (upFrom 0 rank).map fun i =>
    let b := ws[i]?.getD 0
    let st := wbits (ws[4 + i / 2]?.getD 0) (32 * (i % 2) + 31) (32 * (i % 2))
    ⟨signed 32 (wbits b 31 0), signed 32 (wbits b 63 32), bits st 15 0, bits st 31 16⟩

/-- Whether a dimension breaks Table 8-2: a step of 1, or a phase that is not less than its step. -/
def Dim.bad (d : Dim) : Bool :=
  decide (d.st = 1) || (decide (d.st = 0) && decide (d.ph ≠ 0)) || (decide (2 ≤ d.st) && decide (d.st ≤ d.ph))

/-- The words of box `j` of an image. -/
def imageBox (ws : List Word) (j : Nat) : List Word := (ws.drop (8 + 8 * j)).take 8

/-- Whether an image is refused (R211). -/
def imageBad (ws : List Word) : Bool :=
  let h := ws[0]?.getD 0
  let rank := wbits h 17 16 + 1
  let nbox := wbits h 15 12
  let boxes := (upFrom 0 (min nbox 8)).map fun j => boxOfWords rank (imageBox ws j)
  decide (wbits h 63 24 ≠ 0) || decide (wbits h 11 3 ≠ 0) || decide (8 < nbox)
    || ((ws.drop 2).take 6).any (· ≠ 0)
    || (boxes.zip (upFrom 0 8)).any (fun p => decide (imageBox ws p.2 ≠ Box.words p.1) || p.1.any Dim.bad)
    || ((ws.drop (8 + 8 * nbox)).any (· ≠ 0))
    || (h.getLsbD 1 != boxes.any Box.stepped)
    || (h.getLsbD 2 && (decide (1 < nbox) || boxes.any Box.stepped))
    || (!h.getLsbD 2 && decide (ws[1]?.getD 0 ≠ 0))

/-- The register that the words of an image hold as they stand. -/
def regionOfWords (ws : List Word) : Region :=
  let h := ws[0]?.getD 0
  let rank := wbits h 17 16 + 1
  let sh := ws[1]?.getD 0
  ⟨wbits h 23 18, rank, h.getLsbD 0, h.getLsbD 1, h.getLsbD 2, signed 32 (wbits sh 31 0), signed 32 (wbits sh 63 32),
    (upFrom 0 (wbits h 15 12)).map fun j => boxOfWords rank (imageBox ws j)⟩

/-- Whether the bounds of two boxes overlap. -/
def boundsMeet (x y : Box) : Bool :=
  (x.zip y).all fun p => decide (max p.1.lo p.2.lo < min p.1.hi p.2.hi)

/-- Whether some two boxes have bounds that overlap. -/
def anyOverlap : List Box → Bool
  | [] => false
  | b :: l => l.any (boundsMeet b) || anyOverlap l

/-- A loaded image made canonical (R211): its strided boxes tightened, its dense ones passed through Canon and Fit; none where strided
boxes overlap.  A strided box may overlap a dense one, and more than eight boxes in all are fitted again (log entry 112).  DESIGN
CHOICE: the bounds are those after tightening (log entry 131). -/
def Region.canonical (q : Region) : Option Region :=
  if q.isOver then some q
  else if q.ragged then some { q with boxes := q.boxes.filterMap Box.tight }
  else
    let tight := q.boxes.filterMap Box.tight
    let steps := tight.filter Box.stepped
    let (l, isOver) := fit (canon q.rank (tight.filter fun b => !Box.stepped b))
    if anyOverlap steps then none
    else if steps = [] then some (regionOf q.didx q.rank l isOver)
    else
      let (l, over2) := fit (sortBoxes (steps ++ l))
      some (regionOf q.didx q.rank l (isOver || over2))

/-! ### Tensor descriptors (R188, R189) -/

/-- Whether the words of a descriptor are refused (R189). -/
def descBad (ws : List Word) : Bool :=
  let w := fun i => ws[i]?.getD (0 : Word)
  let rank := wbits (w 1) 1 0 + 1
  let space := wbits (w 1) 5 4
  let ext := fun i => if i % 2 = 0 then wbits (w (2 + i / 2)) 31 0 else wbits (w (2 + i / 2)) 63 32
  fmtBad (BitVec.ofNat 32 (wbits (w 1) 63 32)) || decide (space = 3)
    || decide (wbits (w 1) 31 8 ≠ 0) || (w 1).getLsbD 6 || decide (wbits (w 1) 3 2 ≠ 0) || decide (wbits (w 7) 63 18 ≠ 0)
    || (upFrom 0 4).any (fun i =>
      if i < rank then decide (ext i = 0) || decide (2 ^ 31 ≤ ext i) else decide (ext i ≠ 0))
    || (upFrom 0 3).any (fun i => decide (rank ≤ i + 1) && decide (w (4 + i) ≠ 0))
    || (decide (space = 0) && decide (wbits (w 0) 63 56 ≠ 0))
    || (decide (space = 1) && decide (wbits (w 0) 63 30 ≠ 0))
    || (decide (space = 2) && decide (wbits (w 0) 63 18 ≠ 0))
    || ((w 1).getLsbD 7
      && (decide (wbits (w 7) 17 0 % 4 ≠ 0) || decide (Config.sliceTop < wbits (w 7) 17 0 + 4 * ext 0)))

/-- A descriptor from its words and its cellar address. -/
def descOf (addr : Nat) (ws : List Word) : Desc :=
  let w := fun i => ws[i]?.getD (0 : Word)
  let rank := wbits (w 1) 1 0 + 1
  let ext := fun i => if i % 2 = 0 then wbits (w (2 + i / 2)) 31 0 else wbits (w (2 + i / 2)) 63 32
  ⟨addr, (w 0).toNat, BitVec.ofNat 32 (wbits (w 1) 63 32), (w 1).getLsbD 7, wbits (w 1) 5 4, rank,
    (upFrom 0 rank).map ext, (upFrom 0 (rank - 1)).map fun i => (w (4 + i)).toInt, wbits (w 7) 17 0, ws⟩

/-- No descriptor. -/
def Desc.none : Desc := ⟨0, 0, 0, false, 0, 1, [], [], 0, []⟩

/-- An instruction of `a` reads descriptor `k`: the state while it must wait, the trap, or what is done with it (R188,
R189); `base` replaces its BASE in a replayed record (R322). -/
def State.withDescAs (s : State) (a : Agent) (k : Nat) (base : Option Word) (f : Desc → State) : State :=
  let off := (s.ctx a).sp.dtbase.toNat + 64 * k
  match footprintCheck (s.boxes a) (s.myRole a) off 64 with
  | some (cause, w) => s.trap a cause w
  | none =>
    s.withOwn a off 64 fun bs =>
      let read := wordsOfBytes bs
      let ws := match base with
        | some b => read.set 0 b
        | none => read
      let ca := s.ownCa a off
      if descBad ws then s.trap a Cause.format (toWord ca) else f (descOf ca ws)

/-- An instruction of `a` reads descriptor `k` as it stands. -/
def State.withDesc (s : State) (a : Agent) (k : Nat) (f : Desc → State) : State :=
  s.withDescAs a k none f

/-- The descriptor of a region operand, whose rank must agree; `mismatch` is C.FADDR when it does not.  A ragged region's
descriptor has a length table (R195, log entry 33). -/
def State.withOperandDesc (s : State) (a : Agent) (q : Region) (mismatch : Nat) (f : Desc → State) : State :=
  s.withDesc a q.didx fun d =>
    if d.rank ≠ q.rank then s.trap a Cause.format (toWord mismatch)
    else if q.ragged ∧ !d.ltv then s.trap a Cause.format (toWord d.addr)
    else f d

/-- The numbers that rows of four bytes hold. -/
def nat32s : List Byte → List Nat
  | b0 :: b1 :: b2 :: b3 :: rest => fromBytes [b0, b1, b2, b3] :: nat32s rest
  | _ => []

/-- The rows of a ragged region's box that its length table has: the first, and how many (R195). -/
def Region.rows (q : Region) (ext0 : Nat) : Nat × Nat :=
  match q.boxes with
  | (d :: _) :: _ =>
    let lo := max 0 (d.lo - q.rsh0)
    let hi := min (ext0 : Int) (d.hi - q.rsh0)
    (lo.toNat, (hi - lo).toNat)
  | _ => (0, 0)

/-- An instruction reads the entries of the length table for a ragged region's rows, its bytes checked against the footprint
(R189); an entry is kept at its row's number, and rows below are filled with zeros. -/
def State.withTable (s : State) (a : Agent) (q : Region) (d : Desc) (f : List Nat → State) : State :=
  if q.ragged then
    let (row, n) := q.rows (d.ext[0]?.getD 0)
    if n = 0 then f []
    else
      let off := d.ltab + 4 * row
      match footprintCheck (s.boxes a) (s.myRole a) off (4 * n) with
      | some (cause, w) => s.trap a cause w
      | none => s.withOwn a off (4 * n) fun bs => f (List.replicate row 0 ++ nat32s bs)
  else f []

/-- Whether a cell of a ragged region's box satisfies its length condition (R195). -/
def Region.raggedHas (q : Region) (ext0 : Nat) (lt : List Nat) (c : List Int) : Bool :=
  let n := c.headD 0 - q.rsh0
  decide (0 ≤ n) && decide (n < ext0) && decide (c.getLastD 0 - q.rshi < (lt[n.toNat]?.getD 0 : Nat))

/-- The cells of a ragged region: row by row of dimension 0 (R206). -/
def Region.raggedCount (q : Region) (ext0 : Nat) (lt : List Nat) : Nat :=
  let (row, n) := q.rows ext0
  match q.boxes with
  | b :: _ =>
    (upFrom row n).foldl (fun (acc : Nat) (r : Nat) =>
      let stop : Int := ((lt[r]?.getD 0 : Nat) : Int) + q.rshi
      match b with
      | [_] => acc + b2n (decide ((r : Int) + q.rsh0 < stop))
      | _ :: rest =>
        let last := rest.getLastD (dense 0 0)
        acc + Box.count (rest.dropLast ++ [dense last.lo (min last.hi stop)])
      | [] => acc) 0
  | [] => 0

end Sys2Proof.Machine
end

