-- ==== Sys2Proof/Machine/Tape.lean ====
section
/-! DEFINITION. Cask tapes as the units see them: their lines, recording and abandonment, guards, and what a command that comes
from a slot or from a tape's sequencer does when it issues, waits or ends (R312 to R319, R322). -/

namespace Sys2Proof.Machine

/-! ### Lines (R312, R319) -/

/-- The lines of a guard record. -/
def Guard.lines : Guard → Nat
  | .desc _ _ _ => 2
  | _ => 1

/-- NCONT of a command record with a number of operand words (R319). -/
def contLines (nword : Nat) : Nat := (nword - 2 + 3) / 4

/-- The lines of a command record. -/
def TapeCmd.lines (c : TapeCmd) : Nat := 1 + contLines c.ops.length

/-- The lines of a tape; a sealed one has its END record. -/
def Tape.lines (t : Tape) : Nat :=
  (t.guards.map Guard.lines).foldl (· + ·) 0 + (t.cmds.map TapeCmd.lines).foldl (· + ·) 0
    + (match t.state with
      | .empty => 0
      | .recording => 0
      | _ => 1)

/-- The tape of a number. -/
def Cluster.tape (cl : Cluster) (k : Nat) : Tape := cl.tapes.get k Tape.init

/-- The free lines of a cluster's cask store (R312). -/
def Cluster.freeLines (cl : Cluster) : Nat :=
  4096 - ((upFrom 0 8).map fun k => (cl.tape k).lines).foldl (· + ·) 0

/-- The patch slots of a tape (R316). -/
def Tape.patchSlots (t : Tape) : Nat := (t.cmds.filter fun c => !c.marks.isEmpty).length

/-- A tape changed. -/
def State.onTape (s : State) (cluster k : Nat) (f : Tape → Tape) : State :=
  s.onCluster cluster fun cl => { cl with tapes := cl.tapes.put k (f (cl.tape k)) }

/-- The tape that an agent has in a state. -/
def State.tapeOf? (s : State) (a : Agent) (st : TapeState) : Option Nat :=
  (upFrom 0 8).find? fun k =>
    let t := (s.cluster (agentCluster a)).tape k
    decide (t.owner = some a) && decide (t.state = st)

/-- The tenant of the issuing slot's group. -/
def State.tenantOf (s : State) (a : Agent) : Nat :=
  match s.group? (s.launchOf a) with
  | some g => g.tenant
  | none => 0

/-! ### Recording (R315 to R317) -/

/-- A recording is abandoned: its tape becomes EMPTY and its slot notes the detail (R315). -/
def State.abandon (s : State) (a : Agent) (k detail : Nat) : State :=
  (s.onTape (agentCluster a) k fun _ => Tape.init).onCtx a fun c => { c with cask := .abandoned k detail }

/-- What a recorded instruction that may not be recorded does to its slot's recording (R315). -/
def State.notRecordable (s : State) (a : Agent) : State :=
  match s.tapeOf? a .recording with
  | some k => s.abandon a k 0x04
  | none => s

/-- An address word of a record (Table 13-6): its number, the operand word that holds it, its space, the span of
global bytes of the operand that it starts, and the width of the address in its operand word. -/
structure AddrWord where
  k : Nat
  idx : Nat
  space : Nat
  span : Option (Nat × Nat)
  wide : Nat := 64
deriving DecidableEq, Repr

/-- The lowest patch entry that holds a word (R316); an entry is BASE, SPACE, LEN. -/
def patchOf (patches : List (Nat × Nat × Nat)) (space w : Nat) : Option Nat :=
  (upFrom 0 patches.length).find? fun p =>
    match patches[p]? with
    | some (base, sp, len) => decide (sp = space) && decide (base ≤ w) && decide (w < base + len)
    | none => false

/-- A command record of a word and its operands, with its patched words. -/
def makeRecord (patches : List (Nat × Nat × Nat)) (word : IWord) (ops : List Word) (addrs : List AddrWord) : TapeCmd :=
  addrs.foldl (fun (c : TapeCmd) a =>
    let op := ops[a.idx]?.getD 0
    match patchOf patches a.space (op.toNat % 2 ^ a.wide) with
    | some p =>
      { c with
        ops := c.ops.set a.idx (op - toWord ((patches[p]?.map Prod.fst).getD 0))
        marks := c.marks ++ [(a.k, p)] }
    | none => c) ⟨word, ops, []⟩

/-- The starts of the 2 MiB ranges that a span of global bytes covers (R317). -/
def rangesOf (lo n : Nat) : List Nat :=
  if n = 0 then [] else (upFrom (lo / 2 ^ 21) ((lo + n - 1) / 2 ^ 21 + 1 - lo / 2 ^ 21)).map (· * 2 ^ 21)

/-- The generation of a range of an address space (R372). -/
def State.generation (s : State) (asid start : Nat) : BitVec 32 :=
  s.xlat.genAll + s.xlat.gens.get (Nat.xor (bits start 36 21) asid) 0

/-- Words 0x08 to 0x37 of a descriptor (R317). -/
def Desc.guardWords (d : Desc) : List Word := (d.words.drop 1).take 6

/-- The descriptor guards that a record's reads add, none where one of them conflicts with an earlier guard (R317). -/
def descGuards (first : Nat) : List (Nat × Desc) → List Guard → Option (List Guard)
  | [], gs => some gs
  | (k, d) :: rest, gs =>
    match gs.findSome? fun g => match g with
      | .desc _ j ws => if j = k then some ws else none
      | _ => none with
    | some ws => if ws = d.guardWords then descGuards first rest gs else none
    | none => descGuards first rest (gs ++ [.desc first k d.guardWords])

/-- The generation guards that ranges add (R317). -/
def State.genGuards (s : State) (asid first : Nat) : List Nat → List Guard → List Guard
  | [], gs => gs
  | r :: rest, gs =>
    if gs.any fun g => match g with
      | .gen _ start _ => decide (start = r)
      | _ => false
    then s.genGuards asid first rest gs
    else s.genGuards asid first rest (gs ++ [.gen first r (s.generation asid r)])

/-- What a command names for its record: the word, its operand words, its address words, the descriptors it read by index, and
for a PSTREAM the FMTB of the latched block. -/
structure Record where
  word : IWord
  ops : List Word
  addrs : List AddrWord := []
  descs : List (Nat × Desc) := []
  fmtb : Option (BitVec 32) := none
deriving DecidableEq, Repr

/-- The guards with a press guard, for a PSTREAM that no PLOADW stands before on the tape (R317). -/
def pressGuards (t : Tape) (first : Nat) (fmtb : Option (BitVec 32)) (gs : List Guard) : List Guard :=
  match fmtb with
  | some f =>
    if t.cmds.any fun c => decide (bits c.word.toNat 25 24 = 1) && decide (bits c.word.toNat 23 19 = 2) then gs
    else gs ++ [.press first f]
  | none => gs

/-- A command that passes its issue checks is appended to its slot's recording, or abandons it (R315). -/
def State.record (s : State) (a : Agent) (r : Record) : State :=
  match s.tapeOf? a .recording with
  | none => s
  | some k =>
    let t := (s.cluster (agentCluster a)).tape k
    let first := t.cmds.length
    let cmd := makeRecord t.patches r.word r.ops r.addrs
    let unpatched := r.addrs.filter fun w => !(cmd.marks.any fun m => decide (m.1 = w.k))
    let ranges := (unpatched.filterMap (·.span)).flatMap fun sp => rangesOf sp.1 sp.2
    match descGuards first r.descs t.guards with
    | none => s.abandon a k 0x05
    | some gs =>
      let gs := s.genGuards (s.asidOf (coreNo a)) first ranges (pressGuards t first r.fmtb gs)
      let t' := { t with guards := gs, cmds := t.cmds ++ [cmd] }
      if (s.cluster (agentCluster a)).freeLines < t'.lines - t.lines then s.abandon a k 0x02
      else if 64 < t'.patchSlots then s.abandon a k 0x03
      else s.onTape (agentCluster a) k fun _ => t'

/-- FIRST of a guard. -/
def Guard.first : Guard → Nat
  | .desc f _ _ => f
  | .press f _ => f
  | .gen f _ _ => f

/-- The last command record of an agent's recording is taken back, with the guards it added: its instruction has trapped, and has no
effect (R70, R315; log entry 43). -/
def State.unrecord (s : State) (a : Agent) : State :=
  match s.tapeOf? a .recording with
  | none => s
  | some k =>
    s.onTape (agentCluster a) k fun t =>
      { t with cmds := t.cmds.dropLast, guards := t.guards.filter fun g => decide (g.first + 1 < t.cmds.length) }

/-! ### Commands from a slot or from its sequencer (R322, R323) -/

/-- A command has issued: the slot goes on after it, or its sequencer takes the next record; a context save that has halted the slot
stops the sequencer here (R327). -/
def State.issued (s : State) (a : Agent) : State :=
  match s.tapeOf? a .decanting with
  | some k =>
    let halted := (s.ctx a).ctl.quiesced
    (s.onTape (agentCluster a) k fun t =>
      { t with next := t.next + 1, state := if halted then .paused else t.state }).onCtx a fun c =>
      { c with ctl := { c.ctl with hold := some .decant } }
  | none => s.advance a

/-- A command waits for room: the slot stalls, or its sequencer waits (R12, R322). -/
def State.awaitRoom (s : State) (a : Agent) (r : Resource) : State :=
  match s.tapeOf? a .decanting with
  | some _ => s
  | none => s.stall a r

/-! ### Operand words of images (R315) -/

/-- An image as a record carries it. -/
def Region.recordWords (q : Region) : List Word :=
  [q.header, toWord (field32 q.rshi * 2 ^ 32 + field32 q.rsh0)]
    ++ q.boxes.flatMap fun b => b.map Dim.boundsWord ++ (if q.strided then Box.stepWords b else [])

/-- The words of one box of a recorded image. -/
def recordBox (rank : Nat) (strided : Bool) (ws : List Word) : Box :=
  (upFrom 0 rank).map fun i =>
    let b := ws[i]?.getD 0
    let st := if strided then wbits (ws[rank + i / 2]?.getD 0) (32 * (i % 2) + 31) (32 * (i % 2)) else 0
    ⟨signed 32 (wbits b 31 0), signed 32 (wbits b 63 32), bits st 15 0, bits st 31 16⟩

/-- The boxes of a recorded image, and the words after them; none where the words run out. -/
def recordBoxes (rank : Nat) (strided : Bool) : Nat → List Word → Option (List Box × List Word)
  | 0, ws => some ([], ws)
  | n + 1, ws =>
    let size := rank + (if strided then 2 else 0)
    if ws.length < size then none
    else
      match recordBoxes rank strided n (ws.drop size) with
      | some (bs, rest) => some (recordBox rank strided ws :: bs, rest)
      | none => none

/-- A recorded image read back, and the words after it; none where the words hold no image. -/
def readImage : List Word → Option (Region × List Word)
  | h :: sh :: ws =>
    let rank := wbits h 17 16 + 1
    if 8 < wbits h 15 12 then none
    else
      match recordBoxes rank (h.getLsbD 1) (wbits h 15 12) ws with
      | some (bs, rest) =>
        some (⟨wbits h 23 18, rank, h.getLsbD 0, h.getLsbD 1, h.getLsbD 2, signed 32 (wbits sh 31 0),
          signed 32 (wbits sh 63 32), bs⟩, rest)
      | none => none
  | _ => none

end Sys2Proof.Machine
end

