-- ==== Sys2Proof/Machine/Walk.lean ====
section
/-! DEFINITION. What the engines make of regions: walks and bit streams (R219), cell addresses (R190), runs of bytes and their
overlap (R213), the checks of R212 and R223 on cells and bytes, and the places and pages of a unit's accesses (R237). -/

namespace Sys2Proof.Machine

/-! ### Walks (R219) -/

/-- The members of a dimension, ascending. -/
def Dim.members (d : Dim) : List Int :=
  (upFrom 0 d.count).map fun (i : Nat) => d.first + (i : Int) * (d.step : Int)

/-- The cells of a box in ascending lexicographic order. -/
def Box.cells : Box → List (List Int)
  | [] => [[]]
  | d :: b => d.members.flatMap fun c => (Box.cells b).map fun cs => c :: cs

/-- The cells of boxes in order, a cell of an earlier box not visited again. -/
def walkBoxes (seen : List Box) : List Box → List (List Int)
  | [] => []
  | b :: l => ((Box.cells b).filter fun c => !Box.within seen c) ++ walkBoxes (seen ++ [b]) l

/-- The walk of a region (R219); `lt` is its length table where it is ragged. -/
def Region.walk (q : Region) (ext0 : Nat) (lt : List Nat) : List (List Int) :=
  let cs := walkBoxes [] q.boxes
  if q.ragged then cs.filter (q.raggedHas ext0 lt) else cs

/-- Whether a cell lies in Cells(q). -/
def Region.hasCell (q : Region) (ext0 : Nat) (lt : List Nat) (c : List Int) : Bool :=
  decide (c.length = q.rank) && Box.within q.boxes c && (!q.ragged || q.raggedHas ext0 lt c)

/-! ### Addresses (R190) -/

/-- The element width of a descriptor. -/
def Desc.width (d : Desc) : Nat := fWidth d.fmt

/-- Whether a descriptor's tensor lies in global memory. -/
def Desc.global (d : Desc) : Bool := decide (d.space = 0)

/-- The base of a descriptor: an own-slice base is made a cellar address of a role (R190). -/
def Desc.baseFor (d : Desc) (role : Nat) : Nat :=
  if d.space = 2 then role * 2 ^ 18 + d.base else d.base

/-- The byte part of a cell's address: the outer coordinates by their strides. -/
def strideSum : List Int → List Int → Int
  | c :: cs, t :: ts => c * t + strideSum cs ts
  | _, _ => 0

/-- The bit address of a cell (R190). -/
def Desc.cellBit (d : Desc) (role : Nat) (c : List Int) : Int :=
  8 * (d.baseFor role : Int) + 8 * strideSum c d.str + (d.width : Int) * c.getLastD 0

/-- Bytes in global or cellar space: whether global, the first, and how many. -/
abbrev Run := Bool × Int × Nat

/-- The bytes of `w` bits from a bit address. -/
def bitRun (glob : Bool) (bit : Int) (w : Nat) : Run :=
  (glob, bit / 8, ((bit + w - 1) / 8 - bit / 8 + 1).toNat)

/-- A run appended to runs in reverse, joined to the last one where it goes on from it. -/
def pushRun (acc : List Run) (r : Run) : List Run :=
  match acc with
  | (g, lo, n) :: rest =>
    if g = r.1 ∧ lo ≤ r.2.1 ∧ r.2.1 ≤ lo + n then (g, lo, max n (r.2.1 + r.2.2 - lo).toNat) :: rest else r :: acc
  | [] => [r]

/-- The runs of bytes of cells under a descriptor, in walk order. -/
def Desc.runsOf (d : Desc) (role : Nat) (cells : List (List Int)) : List Run :=
  (cells.foldl (fun acc c => pushRun acc (bitRun d.global (d.cellBit role c) d.width)) []).reverse

/-- Whether two lists of runs share a byte (R213). -/
def runsMeet (x y : List Run) : Bool :=
  x.any fun a => y.any fun b =>
    decide (a.1 = b.1) && decide (a.2.1 < b.2.1 + (b.2.2 : Int)) && decide (b.2.1 < a.2.1 + (a.2.2 : Int))

/-- The span of the global bytes of runs, for the generation guards (R317). -/
def globalSpan (rs : List Run) : Option (Nat × Nat) :=
  let gs := rs.filter fun r => r.1 && decide (0 < r.2.2)
  match gs with
  | [] => none
  | g :: rest =>
    let lo := rest.foldl (fun m r => min m r.2.1) g.2.1
    let hi := rest.foldl (fun m r => max m (r.2.1 + (r.2.2 : Int))) (g.2.1 + (g.2.2 : Int))
    some (lo.toNat, (hi - lo).toNat)

/-! ### Checks on cells and bytes (R31, R212, R223) -/

/-- Whether some cell of a region lies outside its tensor, OVER supersets apart (R212). -/
def Region.outside (q : Region) (d : Desc) (lt : List Nat) : Bool :=
  !q.isOver &&
    (if q.ragged then (q.walk (d.ext.headD 0) lt).any fun c => !Box.has (d.ext.map fun (n : Nat) => dense 0 (n : Int)) c
     else q.boxes.any fun b =>
       Box.nonempty b && (b.zip d.ext).any fun p => decide (p.1.first < 0) || decide ((p.2 : Int) < p.1.hi))

/-- A run of cellar bytes cut at the slices it touches. -/
def sliceCuts : Nat → Nat → Nat → List (Nat × Nat)
  | 0, _, _ => []
  | fuel + 1, lo, n =>
    if n = 0 then []
    else
      let k := min n (2 ^ 18 - lo % 2 ^ 18)
      (lo, k) :: sliceCuts fuel (lo + k) (n - k)

/-- The check of a run of bytes that a unit reads or writes for an instruction of `a`: a cellar byte of a role that the group
has not, or at 0x3_FF00 or above, is refused with PROTECT (R21, log entry 34), and the footprint applies (R31). -/
def State.checkRun (s : State) (a : Agent) (r : Run) : Option Failure :=
  if r.1 then none
  else if r.2.1 < 0 then some (Cause.protect, ofInt r.2.1)
  else
    (sliceCuts (r.2.2 / 2 ^ 18 + 2) r.2.1.toNat r.2.2).findSome? fun c =>
      let role := c.1 / 2 ^ 18
      let off := c.1 % 2 ^ 18
      firstFailure
        [failIf (decide (s.nroles a ≤ role)) Cause.protect (toWord c.1),
         footprintCheck (s.boxes a) role off c.2,
         failIf (decide (Config.sliceTop < off + c.2)) Cause.protect (toWord (role * 2 ^ 18 + max off Config.sliceTop))]

/-- The checks of runs in order. -/
def State.checkRuns (s : State) (a : Agent) (rs : List Run) : Option Failure :=
  rs.findSome? (s.checkRun a)

/-! ### The pages of a unit's accesses (R237, R306, R364, R365) -/

/-- What translating the pages of a unit's accesses answers: the entries of its pages, the first address that misses, an
access that a migration holds, or the refusal of an address. -/
inductive Pages where
  | ok (ps : Table Nat (Word × Word))
  | miss (va : Nat) (kind : AccessKind)
  | held
  | refused (va : Nat)
deriving DecidableEq, Repr

/-- The pages of accesses, each an address with its kind, translated in order. -/
def State.unitPages (s : State) (core : Option Nat) (cluster asid : Nat) :
    List (Int × AccessKind) → Table Nat (Word × Word) → Pages
  | [], ps => .ok ps
  | (va, kind) :: rest, ps =>
    if va < 0 ∨ 2 ^ 56 ≤ va then .refused (wrap 56 va)
    else
      match s.translate core cluster asid va.toNat kind with
      | .hit _ _ e => s.unitPages core cluster asid rest (ps.put (va.toNat / 2 ^ 16) e)
      | .trap _ => .refused va.toNat
      | .miss => .miss va.toNat kind
      | .held => .held

/-- The roles whose slices a run touches. -/
def runRoles (r : Run) : List Nat :=
  if r.1 || decide (r.2.2 = 0) then []
  else
    let lo := r.2.1.toNat / 2 ^ 18
    upFrom lo ((r.2.1.toNat + r.2.2 - 1) / 2 ^ 18 + 1 - lo)

/-- Whether runs touch the slice of a role that moves to another core, so that the accesses of a unit are held (R19). -/
def State.runsMove (s : State) (launch : Nat) (rs : List Run) : Bool :=
  !s.parts.failing.isEmpty && (rs.flatMap runRoles).any (s.movesAway launch)

/-- The first address in each page that runs of global bytes touch, with a kind. -/
def runPages (kind : AccessKind) (rs : List Run) : List (Int × AccessKind) :=
  (rs.filter (·.1)).flatMap fun r =>
    if r.2.2 = 0 then []
    else
      let p := r.2.1 / 2 ^ 16
      let q := (r.2.1 + (r.2.2 : Int) - 1) / 2 ^ 16
      (upFrom 0 (q - p + 1).toNat).map fun (i : Nat) => (max r.2.1 ((p + i) * 2 ^ 16), kind)

/-- The place of a byte that a unit accesses: a slice of a launch, or the page of a global address. -/
def State.unitLoc (s : State) (launch : Nat) (ps : Table Nat (Word × Word)) (glob : Bool) (addr : Int) : Loc :=
  if glob then
    match ps.find? (addr.toNat / 2 ^ 16) with
    | some e => s.entLoc e.1 e.2 addr.toNat
    | none => .peer 256 0
  else .slice launch (addr.toNat / 2 ^ 18) (addr.toNat % 2 ^ 18)

/-- The accesses of a unit through its pages are counted (R365, R374). -/
def State.countPages (s : State) (core : Option Nat) (cluster : Nat) (m : MissWait) (ps : Table Nat (Word × Word)) : State :=
  ps.foldl (fun s p => s.useEntry core cluster p.2 { m with va := p.1 * 2 ^ 16 }) s

/-! ### Bits -/

/-- The value of a bit at a bit address; a byte that cannot be reached has none. -/
def State.bitAt (s : State) (loc : Loc) (i : Nat) : Bool :=
  ((s.readLoc loc).getD 0).getLsbD i

/-- A byte with one bit changed. -/
def putBit (b : Byte) (i : Nat) (v : Bool) : Byte :=
  if v then b ||| (1#8 <<< i) else b &&& ~~~(1#8 <<< i)

/-- One bit written at a place, the byte's other bits kept, as one update of the byte (R170, R221). -/
def State.writeBit (s : State) (loc : Loc) (i : Nat) (v : Bool) : State :=
  s.storeBytes loc [putBit ((s.readLoc loc).getD 0) i v]

end Sys2Proof.Machine
end

