-- ==== Sys2Proof/Machine/Job.lean ====
section
/-! DEFINITION. Racking jobs: their cells and bytes, their granules, the hazard unit, the coder, and how a job ends
(R219 to R221, R231 to R238). -/

namespace Sys2Proof.Machine

/-! ### Cells and bytes of a job -/

/-- Whether a job is a copy: RACK, RACK.T or RACKM. -/
def RackKind.isCopy : RackKind → Bool
  | .rack => true
  | .rackT => true
  | .rackM => true
  | _ => false

/-- Whether a job goes through the coder. -/
def RackKind.isCoder : RackKind → Bool
  | .rackzC => true
  | .rackzD => true
  | _ => false

/-- The cells that a job reads, in walk order. -/
def Job.cellsA (j : Job) : List (List Int) := j.qa.walk (j.da.ext.headD 0) j.lta

/-- The cells of its second region, in walk order. -/
def Job.cellsB (j : Job) : List (List Int) := j.qb.walk (j.db.ext.headD 0) j.ltb

/-- The two innermost coordinates of a cell swapped. -/
def swapInner (c : List Int) : List Int :=
  match c.reverse with
  | x :: y :: rest => (y :: x :: rest).reverse
  | _ => c

/-- The destination cell of a cell (R224). -/
def Job.destCell (j : Job) (c : List Int) : List Int :=
  let d := if j.kind = .rackT then swapInner c else c
  (d.zip j.trans).map fun p => p.1 + p.2

/-- The number of slices a job writes: one, or one for each receiver. -/
def Job.receivers (j : Job) : Nat := if j.kind = .rackM then j.recv.length else 1

/-- The role whose slice receiver `m` is; the issuing role but for RACKM. -/
def Job.receiver (j : Job) (m : Nat) : Nat := if j.kind = .rackM then j.recv[m]?.getD 0 else j.role

/-- The destination descriptor for receiver `m` (R224). -/
def Job.destDesc (j : Job) (m : Nat) : Desc :=
  if j.kind = .rackM ∧ j.db.space = 1 then { j.db with base := j.receiver m * 2 ^ 18 + j.db.base % 2 ^ 18 } else j.db

/-- Job bytes Z (R219, R234). -/
def Job.bytes (j : Job) : Nat :=
  match j.kind with
  | .rackzD => (j.cellsB.length * j.db.width + 7) / 8
  | _ => (j.cellsA.length * j.da.width + 7) / 8

/-- The granules of a job. -/
def Job.granules (j : Job) : Nat := (j.bytes + 511) / 512

/-- The count of a granule (R219). -/
def Job.granuleCount (j : Job) (g : Nat) : Nat := min 512 (j.bytes - 512 * g)

/-- The cells whose first bit lies in granule `g`, of `n` cells of width `w`: the first and the one after the last. -/
def granuleCells (n w g : Nat) : Nat × Nat :=
  (min n ((4096 * g + w - 1) / w), min n ((4096 * (g + 1) + w - 1) / w))

/-- The stream bits of byte `b` of granule `g`. -/
def granuleBits (n w g b : Nat) : List Nat :=
  let (kf, kl) := granuleCells n w g
  let lo := max (kf * w) (8 * (512 * g + b))
  let hi := min (kl * w) (8 * (512 * g + b) + 8)
  upFrom lo (hi - lo)

/-- The bytes of granule `g` that hold a stream bit. -/
def granuleBytes (n w g : Nat) : List Nat :=
  let (kf, kl) := granuleCells n w g
  if kl ≤ kf then [] else upFrom (kf * w / 8 - 512 * g) ((kl * w - 1) / 8 - kf * w / 8 + 1)

/-- The bit address of a stream bit of cells under a descriptor. -/
def streamBit (d : Desc) (role : Nat) (cells : List (List Int)) (k : Nat) : Int :=
  d.cellBit role (cells[k / d.width]?.getD []) + (k % d.width : Nat)

/-- The source and the destination bit address of a stream bit of a copy. -/
def Job.copyBit (j : Job) (cells : List (List Int)) (m k : Nat) : Int × Int :=
  let c := cells[k / j.da.width]?.getD []
  let i : Int := (k % j.da.width : Nat)
  (j.da.cellBit j.role c + i, (j.destDesc m).cellBit (j.receiver m) (j.destCell c) + i)

/-- The cells that a job reads of the granules from its start on: lower ones are neither read nor written (R224). -/
def Job.cellsFrom (j : Job) : List (List Int) :=
  if j.kind.isCopy then j.cellsA.drop (granuleCells j.cellsA.length j.da.width (j.start / 512)).1 else j.cellsA

/-- The runs that a job reads. -/
def Job.srcRuns (j : Job) : List Run := j.da.runsOf j.role j.cellsFrom

/-- The runs that a job writes in receiver `m`'s slice (R231). -/
def Job.dstRunsAt (j : Job) (m : Nat) : List Run :=
  if j.kind.isCopy then (j.destDesc m).runsOf (j.receiver m) (j.cellsFrom.map j.destCell)
  else j.db.runsOf j.role j.cellsB

/-- The runs that a job writes. -/
def Job.dstRuns (j : Job) : List Run :=
  (upFrom 0 j.receivers).flatMap j.dstRunsAt

/-- Whether job `i`, which entered the queue before job `j`, holds it (R231). -/
def hazard (i j : Job) : Bool :=
  runsMeet i.dstRuns j.srcRuns || runsMeet i.srcRuns j.dstRuns || runsMeet i.dstRuns j.dstRuns

/-! ### Progress -/

/-- The bytes written of a granule at a receiver. -/
def Job.writtenAt (j : Job) (g m : Nat) : List Nat := j.written.get (g, m) []

/-- Whether every byte of a granule of a copy has been written at every receiver. -/
def Job.copyDone (j : Job) (g : Nat) : Bool :=
  let bs := granuleBytes j.cellsA.length j.da.width g
  (upFrom 0 j.receivers).all fun m => bs.all (j.writtenAt g m).contains

/-- A block of which nothing has been read. -/
def Block.init : Block := ⟨[], [], 0, false, []⟩

/-- Block `g` of a coder job. -/
def Job.block (j : Job) (g : Nat) : Block := j.blocks.get g Block.init

/-- Whether all that a block made has been written. -/
def Block.full (b : Block) : Bool := decide (b.out ≠ []) && decide (b.out.length ≤ b.written.length)

/-- Whether granule `g` is behind the job: it lies before the job's start, or all its bytes have been written. -/
def Job.granuleDone (j : Job) (g : Nat) : Bool :=
  if j.kind.isCopy then decide (g < j.start / 512) || (decide (g < j.begun) && j.copyDone g) else (j.block g).full

/-- The granules counted at receiver `m`. -/
def Job.countedAt (j : Job) (m : Nat) : Nat := j.counted[m]?.getD (j.start / 512)

/-- Granules written in order from `g` on, `n` of them at most. -/
def Job.writtenFrom (j : Job) : Nat → Nat → Nat
  | 0, g => g
  | n + 1, g => if j.granuleDone g then j.writtenFrom n (g + 1) else g

/-- The number under which a job keeps the pages of a granule's accesses: a coder reads a block and writes what it made apart. -/
def Job.phase (j : Job) (g : Nat) (write : Bool) : Nat := if j.kind.isCopy then g else 2 * g + b2n write

/-- Whether some accesses of a phase have been performed and others not yet; a RACKZ.D translates each byte it reads by itself. -/
def Job.phaseBusy (j : Job) (p : Nat) : Bool :=
  if j.kind.isCopy then decide (p < j.begun) && !j.copyDone p
  else
    let b := j.block (p / 2)
    if p % 2 = 0 then decide (j.kind = .rackzC) && decide (b.got ≠ []) && decide (b.out = [])
    else decide (b.written ≠ []) && !b.full

/-- What a job still needs of its progress: the entries of phases at hand, and the bits read of granules at hand; a job without
a counter has its written granules, in order, as those done at every receiver (R220). -/
def Job.settle (j : Job) : Job :=
  let j := { j with
    pages := j.pages.filter fun p => j.phaseBusy p.1.1
    got := j.got.filter fun p => !j.copyDone p.1.1 }
  match j.ctr with
  | some _ => j
  | none =>
    let n := j.writtenFrom (j.granules - j.countedAt 0) (j.countedAt 0)
    { j with counted := List.replicate j.receivers n }

/-- Whether the granules below `n` are counted at every receiver. -/
def Job.countedTo (j : Job) (n : Nat) : Bool :=
  (upFrom 0 j.receivers).all fun m => decide (n ≤ j.countedAt m)

/-- Whether a job is complete (R220). -/
def Job.complete (j : Job) : Bool := j.countedTo j.granules

/-- The granules done by all receivers: the prefix that a save counts (R240). -/
def Job.doneGranules (j : Job) : Nat :=
  (upFrom 0 j.receivers).foldl (fun n m => min n (j.countedAt m)) j.granules

/-! ### The in-flight set (R218) -/

/-- A job by number with its entry in the in-flight set. -/
def Core.jobOf? (k : Core) (id : Nat) : Option (Nat × Job) :=
  List.find? (fun p => decide (p.2.id = id)) k.inflight

/-- The lowest free entry of the in-flight set. -/
def Core.freeEntry (k : Core) : Option Nat :=
  (upFrom 0 8).find? fun i => (k.inflight.find? i).isNone

/-- Whether an earlier job of the core keeps a job from beginning (R231). -/
def Core.hazardHolds (k : Core) (j : Job) : Bool :=
  k.inflight.any fun p => decide (p.2.id < j.id) && hazard p.2 j

/-- A fault detail (Table 9-6). -/
def detailWord (cause addr : Nat) : Word := toWord (cause % 256 * 2 ^ 56 + addr % 2 ^ 56)

/-- A job is terminated: its detail is recorded for the issuing slot, or, when its activation has ended, in the group fault
record (R237); a detail still pending gives way to it, a choice of the model (log entry 133). -/
def State.terminateJob (s : State) (core idx : Nat) (j : Job) (cause addr : Nat) : State :=
  let s := s.onCore core fun k => { k with inflight := k.inflight.erase idx }
  let a := Agent.slot core j.slot
  if (s.ctx a).act.id = j.act ∧ (s.ctx a).ctl.status ≠ .free then s.onCtx a fun c => { c with rackFault := detailWord cause addr }
  else s.recordDetail j.launch j.role (detailWord cause addr)

/-- The fault record of an engine (R351): SRC 1 with the in-flight entry of a job, or SRC 2. -/
def engineRecord (s : State) (core slot src job cause addr launch role : Nat) : FaultRec :=
  ⟨toWord ((s.ctx (.slot core slot)).trap.seq.toNat * 2 ^ 48 + job * 2 ^ 22 + src * 2 ^ 19 + slot * 2 ^ 16 + hwidOf core),
    toWord (src * 2 ^ 9 + cause), toWord addr, 0, 0, 0, 0, toWord (launch * 2 ^ 32 + role)⟩

/-- A job of the in-flight set changed.  A complete one leaves the set; a doomed one is terminated once the granules below its
edge have been performed and counted (R220, R237). -/
def State.putJob (s : State) (core idx : Nat) (j : Job) : State :=
  let j := j.settle
  let kept := s.onCore core fun k => { k with inflight := k.inflight.put idx j }
  match j.doomed with
  | some (cause, addr) => if j.countedTo j.edge then s.terminateJob core idx j cause addr else kept
  | none => if j.complete then s.onCore core fun k => { k with inflight := k.inflight.erase idx } else kept

/-- A job fails at granule `g`, which and those above it are not performed (R234, R237, R238). -/
def State.failJob (s : State) (core idx : Nat) (j : Job) (g cause addr : Nat) : State :=
  s.putJob core idx { j with parked := none, doomed := some (cause, addr), edge := g }

/-- Whether a job compresses no byte: it has no granule to count, and only its length word to write (R234). -/
def Job.onlyLength (j : Job) : Bool := decide (j.kind = .rackzC) && decide (j.granules = 0)

/-- A job enters the in-flight set (R218); a RACKZ.D of no block whose stream holds a byte has bytes left (R234). -/
def State.startJob (s : State) (core idx : Nat) (j : Job) : State :=
  if j.onlyLength then s.onCore core fun k => { k with inflight := k.inflight.put idx j }
  else
    match j.kind, j.granules, j.cellsA with
    | .rackzD, 0, c :: _ => s.failJob core idx j 0 Cause.format (wrap 56 (j.da.cellBit j.role c / 8))
    | _, _, _ => s.putJob core idx j

/-- A job is parked on a fault and its record sent (R237, R369). -/
def State.parkJob (s : State) (core idx : Nat) (j : Job) (cause addr : Nat) : State :=
  (s.onCore core fun k => { k with inflight := k.inflight.put idx { j with parked := some (cause, addr) } }).sendRecord
    core true (engineRecord s core j.slot 1 idx cause addr j.launch j.role)

/-- The clusters that hold a role of a group. -/
def Group.clusters (g : Group) : List Nat :=
  g.cores.foldl (fun acc c => insertNat (clusterOf c) acc) []

/-- Whether a group is complete: every cluster that holds its roles has reported (R60). -/
def Group.complete (g : Group) : Bool := decide (g.cores ≠ []) && g.clusters.all g.reported.contains

/-- Whether a group is being saved, so that what is addressed to its roles is held and no new granule of its copies begins (R19,
R240); a complete group is not saved but completes (Table 20-9). -/
def State.saving (s : State) (launch : Nat) : Bool :=
  match s.group? launch with
  | some g => decide (g.phase = .saving) && !g.complete
  | none => false

/-- The miss entry of a job's access (Table 19-2). -/
def Job.missFor (j : Job) (core va : Nat) (kind : AccessKind) : MissWait :=
  ⟨missKind kind, va, j.asid, hwidOf core, 1, j.role, none⟩

/-- Whether a job touches a slice or a counter of a role that moves to another core (R19). -/
def State.jobHeld (s : State) (j : Job) : Bool :=
  s.runsMove j.launch (j.srcRuns ++ j.dstRuns ++ j.ctr.toList.map fun (ca : Nat) => ((false, (ca : Int), 8) : Run))

/-- The pages of accesses of granule `g`: with all of them translated, `k` goes on with the job that holds them; else the job waits
for a miss or for a migration, or a refusal of permission ends it at that granule (R237, R375).  While one of its granules is
parked, no other asks: it waits (R237). -/
def State.withJobPages (s : State) (core idx : Nat) (j : Job) (g : Nat) (write : Bool) (needs : List (Int × AccessKind))
    (k : State → Job → State) : State :=
  if j.parked.isSome then s
  else
    match s.unitPages (some core) (clusterOf core) j.asid needs [] with
    | .ok ps =>
      k (s.countPages (some core) (clusterOf core) (j.missFor core 0 .load) ps)
        { j with pages := ps.foldl (fun t p => Table.put t (j.phase g write, p.1) p.2) j.pages }
    | .miss va kind =>
      (s.onCore core fun c => { c with inflight := c.inflight.put idx { j with parked := some (0, va), parkAt := g } }).postMiss
        (clusterOf core) (j.missFor core va kind)
    | .held => s
    | .refused va => s.failJob core idx j g Cause.protect va

/-! ### Bits of a job (R220, R221, R238) -/

/-- The entries of a phase's pages. -/
def Job.pagesOf (j : Job) (p : Nat) : Table Nat (Word × Word) :=
  (j.pages.filter fun e => decide (e.1.1 = p)).map fun e => (e.1.2, e.2)

/-- The place of a byte that a phase of a job reads or writes. -/
def State.jobLoc (s : State) (j : Job) (p : Nat) (glob : Bool) (addr : Int) : Loc :=
  s.unitLoc j.launch (j.pagesOf p) glob addr

/-- What bits at bit addresses hold, and whether each is poisoned. -/
def State.readBits (s : State) (j : Job) (p : Nat) (glob : Bool) (addrs : List Int) : List (Bool × Bool) :=
  addrs.map fun a =>
    let loc := s.jobLoc j p glob (a / 8)
    (s.bitAt loc (a % 8).toNat, (s.poisonAt loc 1).isSome)

/-- Bits written at bit addresses; a poisoned one poisons what holds it. -/
def State.writeBits (s : State) (j : Job) (p : Nat) (glob : Bool) (ws : List (Int × Bool × Bool)) : State :=
  ws.foldl (fun s w =>
    let loc := s.jobLoc j p glob (w.1 / 8)
    let s := s.writeBit loc (w.1 % 8).toNat w.2.1
    if w.2.2 then s.poisonLoc loc else s) s

/-- The poison of the scratchpad words of which a granule has written all 8 bytes, none of them from poison, is cleared (R238, log
entry 108); `all` are the bits written so far, with their poison. -/
def State.clearWritten (s : State) (launch : Nat) (all : List (Int × Bool)) (now : List Int) : State :=
  now.foldl (fun s a =>
    let inWord := all.filter fun q => decide (q.1 / 64 = a / 64)
    if (upFrom 0 64).all (fun (i : Nat) => inWord.any fun q => decide (q.1 = a / 64 * 64 + (i : Int)))
        && inWord.all (fun q => !q.2) then
      match s.unitLoc launch [] false (a / 8) with
      | .slice l r off =>
        match s.coreOf? l r with
        | some c => s.onCore c fun k => { k with poisonWords := k.poisonWords.filter (· ≠ off / 8) }
        | none => s
      | _ => s
    else s) s

/-! ### Copies: a byte of a granule -/

/-- The bits that byte `b` of granule `g` writes at receiver `m`, with what was read of it: address, value and poison. -/
def Job.copyBits (j : Job) (g b m : Nat) : List (Int × Bool × Bool) :=
  let cells := j.cellsA
  ((granuleBits cells.length j.da.width g b).map fun k => (j.copyBit cells m k).2).zip (j.got.get (g, b) [])

/-- Byte `b` of granule `g` of a begun granule of a copy is read, unless it has been for another receiver, and written at
receiver `m`. -/
def State.copyByte (s : State) (core idx : Nat) (j : Job) (g b m : Nat) : State :=
  let cells := j.cellsA
  let read := s.readBits j g j.da.global ((granuleBits cells.length j.da.width g b).map fun k => (j.copyBit cells m k).1)
  let j := { j with
    got := j.got.put (g, b) ((j.got.find? (g, b)).getD read)
    written := j.written.put (g, m) (b :: j.writtenAt g m) }
  let glob := (j.destDesc m).global
  let now := j.copyBits g b m
  let s := s.writeBits j g glob now
  let all := ((j.writtenAt g m).flatMap fun b => j.copyBits g b m).map fun w => (w.1, w.2.2)
  let s := if glob then s else s.clearWritten j.launch all (now.map Prod.fst)
  s.putJob core idx j

/-- The pages of granule `g` of a copy: every page that it reads and writes is translated before any byte is written
(R220). -/
def Job.copyNeeds (j : Job) (g : Nat) : List (Int × AccessKind) :=
  let (kf, kl) := granuleCells j.cellsA.length j.da.width g
  let cells := (j.cellsA.drop kf).take (kl - kf)
  runPages .load (j.da.runsOf j.role cells) ++ runPages .store (j.db.runsOf j.role (cells.map j.destCell))

/-- GRANULE-BYTE of a copy (R281). -/
def State.copyGranuleByte (s : State) (core idx : Nat) (j : Job) (g b m : Nat) : State :=
  if g < j.start / 512 ∨ j.granules ≤ g ∨ j.receivers ≤ m
      ∨ !(granuleBytes j.cellsA.length j.da.width g).contains b ∨ (j.writtenAt g m).contains b then s
  else if g < j.begun then s.copyByte core idx j g b m
  else if g = j.begun ∧ !s.saving j.launch ∧ !(s.core core).hazardHolds j then
    s.withJobPages core idx j g false (j.copyNeeds g) fun s j => s.copyByte core idx { j with begun := g + 1 } g b m
  else s

/-! ### The coder (R232 to R234) -/

/-- The length of the run of words, at most 64, that a condition on a word and its predecessor allows. -/
def runLength (ok : Word → Word → Bool) : Nat → Word → List Word → Nat
  | 0, _, _ => 0
  | n + 1, prev, w :: ws => if ok prev w then runLength ok n w ws + 1 else 0
  | _ + 1, _, [] => 0

/-- The lowest dictionary index that holds a word (R233). -/
def dictIndex (dict : Table Nat Word) (w : Word) : Option Nat :=
  (upFrom 0 256).find? fun k => decide (dict.get k 0 = w)

/-- The tokens of the words from `prev` on; `fuel` bounds the tokens (R233). -/
def encodeWords (dict : Table Nat Word) : Nat → Word → List Word → List Byte
  | 0, _, _ => []
  | _ + 1, _, [] => []
  | fuel + 1, prev, w :: ws =>
    let go := fun (tag n : Nat) (data : List Byte) =>
      BitVec.ofNat 8 (tag * 64 + (n - 1)) :: data
        ++ encodeWords dict fuel (((w :: ws)[n - 1]?).getD 0) ((w :: ws).drop n)
    if w = 0 then go 0 (runLength (fun _ x => decide (x = 0)) 64 prev (w :: ws)) []
    else if w = prev then go 1 (runLength (fun p x => decide (x = p)) 64 prev (w :: ws)) []
    else if (dictIndex dict w).isSome then
      let n := runLength (fun p x => decide (x ≠ 0) && decide (x ≠ p) && (dictIndex dict x).isSome) 64 prev (w :: ws)
      go 3 n (((w :: ws).take n).map fun x => BitVec.ofNat 8 ((dictIndex dict x).getD 0))
    else
      let n := runLength (fun p x => decide (x ≠ 0) && decide (x ≠ p) && (dictIndex dict x).isNone) 64 prev (w :: ws)
      go 2 n (((w :: ws).take n).flatMap wordToBytes)

/-- The compressed form of a block of bytes (R232, R233). -/
def encodeBlock (dict : Table Nat Word) (bs : List Byte) : List Byte :=
  let ws := wordsOfBytes bs
  encodeWords dict ws.length 0 ws

/-- What the bytes read so far of a compressed block give: more are needed, the block's words and the bytes that they took, or
the position of a token that runs past the block (R234). -/
inductive Decoded where
  | more
  | done (used : Nat) (ws : List Word)
  | bad (pos : Nat)
deriving DecidableEq, Repr

/-- Decoding tokens into at most `want` words; `pos` is the position of the next token. -/
def decodeTokens (dict : Table Nat Word) (want : Nat) : Nat → Nat → List Word → List Byte → Decoded
  | 0, _, _, _ => .more
  | fuel + 1, pos, out, bs =>
    if want ≤ out.length then .done pos out
    else
      match bs with
      | [] => .more
      | h :: rest =>
        let n := h.toNat % 64 + 1
        let tag := h.toNat / 64
        let size := if tag = 2 then 8 * n else if tag = 3 then n else 0
        if want < out.length + n then .bad pos
        else if rest.length < size then .more
        else
          let ws := match tag with
            | 0 => List.replicate n 0
            | 1 => List.replicate n (out.getLastD 0)
            | 2 => wordsOfBytes (rest.take size)
            | _ => (rest.take size).map fun b => dict.get b.toNat 0
          decodeTokens dict want fuel (pos + 1 + size) (out ++ ws) (rest.drop size)

/-- The bytes of the compressed stream of a RACKZ.D. -/
def Job.streamLen (j : Job) : Nat := j.cellsA.length

/-- Byte `k` of the byte stream of cells under a descriptor: the bit addresses of its bits. -/
def streamByte (d : Desc) (role : Nat) (cells : List (List Int)) (k : Nat) : List Int :=
  (upFrom (8 * k) (min (cells.length * d.width) (8 * k + 8) - 8 * k)).map (streamBit d role cells)

/-- The value of a byte made of bits at bit addresses, and whether some of it is poisoned. -/
def State.readStream (s : State) (j : Job) (g : Nat) (addrs : List Int) : Byte × Bool :=
  let bs := s.readBits j (j.phase g false) j.da.global addrs
  (BitVec.ofNat 8 ((bs.zip (upFrom 0 8)).foldl (fun n p => n + b2n p.1.1 * 2 ^ p.2) 0), bs.any Prod.snd)

/-- The pages of stream bytes. -/
def streamNeeds (d : Desc) (kind : AccessKind) (addrs : List Int) : List (Int × AccessKind) :=
  if d.global then runPages kind ((addrs.foldl (fun acc a => pushRun acc (bitRun true a 1)) []).reverse) else []

/-- The first byte number of a coder granule's writes; those below are its reads. -/
def coderWrite : Nat := 1024

/-- A block of a coder job changed; a granule that it begins with has begun. -/
def Job.putBlock (j : Job) (g : Nat) (b : Block) : Job :=
  { j with blocks := j.blocks.put g b, begun := max j.begun (g + 1) }

/-- Whether the blocks below `g` have been read and coded, which gives the places of block `g` in the streams. -/
def Job.codedTo (j : Job) (g : Nat) : Bool := (upFrom 0 g).all fun i => decide ((j.block i).out ≠ [])

/-- The bytes that the blocks below `g` made. -/
def Job.producedTo (j : Job) (g : Nat) : Nat := (upFrom 0 g).foldl (fun n i => n + (j.block i).out.length) 0

/-- The source bytes that the blocks below `g` took. -/
def Job.usedTo (j : Job) (g : Nat) : Nat := (upFrom 0 g).foldl (fun n i => n + (j.block i).used) 0

/-- The bit addresses that byte `i` made by block `g` is written to. -/
def Job.blockByte (j : Job) (g i : Nat) : List Int := streamByte j.db j.role j.cellsB (j.producedTo g + i)

/-- The bits that byte `i` made by block `g` writes. -/
def Job.blockBits (j : Job) (g i : Nat) : List (Int × Bool × Bool) :=
  let b := j.block g
  let v := b.out[i]?.getD 0
  ((j.blockByte g i).zip (upFrom 0 8)).map fun p => (p.1, v.getLsbD p.2, b.tainted)

/-- Whether the writes of block `g` may begin: those of the block below have, and so its pages have been translated and checked
(R220). -/
def Job.writesBegun (j : Job) : Nat → Bool
  | 0 => true
  | g + 1 => decide ((j.block g).written ≠ [])

/-- A write of a coder job: byte `i` made by block `g` (R220, R234, R238). -/
def State.coderWriteByte (s : State) (core idx : Nat) (j : Job) (g i : Nat) : State :=
  let b := j.block g
  if b.out.length ≤ i ∨ b.written.contains i ∨ !j.codedTo g ∨ !j.writesBegun g then s
  else
    let go := fun (s : State) (j : Job) =>
      let j := j.putBlock g { b with written := i :: b.written }
      let now := j.blockBits g i
      let s := s.writeBits j (j.phase g true) j.db.global now
      let all := ((j.block g).written.flatMap (j.blockBits g)).map fun w => (w.1, w.2.2)
      let s := if j.db.global then s else s.clearWritten j.launch all (now.map Prod.fst)
      s.putJob core idx j
    if b.written = [] then
      s.withJobPages core idx j g true (streamNeeds j.db .store ((upFrom 0 b.out.length).flatMap (j.blockByte g))) go
    else go s j

/-- A read of a RACKZ.C: byte `i` of block `g`, which is encoded when all of it has been read.  Poison ends the job (R238). -/
def State.compressRead (s : State) (core idx : Nat) (j : Job) (g i : Nat) : State :=
  let b := j.block g
  let n := j.granuleCount g
  let at_ := fun i => streamByte j.da j.role j.cellsA (512 * g + i)
  if n ≤ i ∨ b.out ≠ [] ∨ (b.got.find? i).isSome then s
  else
    let go := fun (s : State) (j : Job) =>
      let (v, poison) := s.readStream j g (at_ i)
      if poison then s.failJob core idx j g Cause.format (wrap 56 ((at_ i).headD 0 / 8))
      else
        let got := b.got.put i v
        let b := if got.length < n then { b with got := got }
          else { b with got := [], out := encodeBlock (s.core core).dict ((upFrom 0 n).map fun i => got.get i 0) }
        s.putJob core idx (j.putBlock g b)
    if b.got = [] then s.withJobPages core idx j g false (streamNeeds j.da .load ((upFrom 0 n).flatMap at_)) go
    else go s j

/-- A read of a RACKZ.D: the next byte of its stream for block `g`, which is at hand when its tokens are complete (R234).  A defect
ends the job, naming the first offending byte; a stream that ends early names none (log entry 35). -/
def State.decompressRead (s : State) (core idx : Nat) (j : Job) (g i : Nat) : State :=
  let b := j.block g
  let pos := j.usedTo g
  let addr := fun k => wrap 56 ((streamByte j.da j.role j.cellsA k).headD 0 / 8)
  if b.out ≠ [] ∨ i ≠ b.got.length ∨ !j.codedTo g then s
  else if j.streamLen ≤ pos + i then
    let (w, s) := s.freeWord
    s.failJob core idx j g Cause.format (wbits w 55 0)
  else
    let at_ := streamByte j.da j.role j.cellsA (pos + i)
    s.withJobPages core idx j g false (streamNeeds j.da .load at_) fun s j =>
      let (v, poison) := s.readStream j g at_
      let b := { b with got := b.got.put i v, tainted := b.tainted || poison }
      let want := j.granuleCount g / 8
      match decodeTokens (s.core core).dict want (want + 1) 0 [] ((upFrom 0 (i + 1)).map fun k => b.got.get k 0) with
      | .more => s.putJob core idx (j.putBlock g b)
      | .bad p => s.failJob core idx j g Cause.format (addr (pos + p))
      | .done used ws =>
        let j := j.putBlock g { b with got := [], out := ws.flatMap wordToBytes, used := used }
        if g + 1 = j.granules ∧ pos + used < j.streamLen then
          s.failJob core idx j j.granules Cause.format (addr (pos + used))
        else s.putJob core idx j

/-- GRANULE-BYTE of a coder job: its reads are numbered from 0, its writes from `coderWrite`.  A granule begins once the one before
it has, and no earlier job holds the job (R281). -/
def State.coderByte (s : State) (core idx : Nat) (j : Job) (g i : Nat) : State :=
  if j.begun < g ∨ j.granules ≤ g ∨ (s.core core).hazardHolds j then s
  else if coderWrite ≤ i then s.coderWriteByte core idx j g (i - coderWrite)
  else if j.kind = .rackzC then s.compressRead core idx j g i
  else s.decompressRead core idx j g i

/-- GRANULE-BYTE of a job in flight; one that a miss holds, that is parked on a fault or that has failed performs only the granules
below that one (R237). -/
def State.granuleByte (s : State) (core id g b m : Nat) : State :=
  match (s.core core).jobOf? id with
  | none => s
  | some (idx, j) =>
    if (j.parked.isSome && decide (j.parkAt ≤ g)) || (j.doomed.isSome && decide (j.edge ≤ g)) then s
    else if j.kind.isCopy then s.copyGranuleByte core idx j g b m
    else s.coderByte core idx j g b

/-! ### Counts (R220, R234) -/

/-- The role and offset of the counter for receiver `m`. -/
def Job.counterAt (j : Job) (m : Nat) : Option (Nat × Nat) :=
  j.ctr.map fun ca => (if j.kind = .rackM then j.receiver m else ca / 2 ^ 18, ca % 2 ^ 18)

/-- The length word of a RACKZ.C, behind its counter (R234). -/
def State.writeLength (s : State) (home off : Nat) (j : Job) : State :=
  s.onCore home (·.sliceStore (off + 8) (wordToBytes (toWord (j.producedTo j.granules))))

/-- COUNT: a written granule's count is added at its counter, in order; RACKZ.C writes its length before the last one, and one of no
byte ends with it (R220, R234). -/
def State.countGranule (s : State) (core id m : Nat) : State :=
  match (s.core core).jobOf? id with
  | none => s
  | some (idx, j) =>
    let g := j.countedAt m
    match j.counterAt m with
    | none => s
    | some (role, off) =>
      if j.onlyLength then
        match s.coreOf? j.launch role with
        | none => s
        | some home => (s.writeLength home off j).onCore core fun k => { k with inflight := k.inflight.erase idx }
      else if j.receivers ≤ m ∨ j.granules ≤ g ∨ !j.granuleDone g ∨ (j.doomed.isSome ∧ j.edge ≤ g) then s
      else
        match s.coreOf? j.launch role with
        | none => s
        | some home =>
          let s := if j.kind = .rackzC ∧ g + 1 = j.granules then s.writeLength home off j else s
          let s := s.onCore home fun k =>
            k.sliceStore off (wordToBytes (k.sliceWord off + toWord (j.granuleCount g)))
          let counted := ((upFrom 0 j.receivers).map j.countedAt).set m (g + 1)
          s.putJob core idx { j with counted := counted }

end Sys2Proof.Machine
end

