-- ==== Sys2Proof/Machine/Racking.lean ====
section
/-! DEFINITION. The racking engine's instructions: copies, the coder, multicast credits, waits, drains and status (R216 to
R240). -/

namespace Sys2Proof.Machine

/-! ### Queues and pending faults (R12, R237) -/

/-- The engine entries of a core's slots that have issued and are not yet placed in their queue. -/
def State.unplaced (s : State) (core : Nat) (sel : EngCmd → Bool) : List EngCmd :=
  (slotsOf core).flatMap fun a => ((s.ctx a).queue.filterMap fun e => match e.what with
    | .engine c => if sel c then some c else none
    | _ => none)

/-- Whether a command is a racking command. -/
def EngCmd.isRack : EngCmd → Bool
  | .rack _ => true
  | _ => false

/-- Whether an effect of a sealed buffer is a racking command. -/
def Effect.isRack : Effect → Bool
  | .rack _ => true
  | _ => false

/-- Whether a core's sealed buffers hold racking commands that wait for room, ahead of any later one (R283). -/
def Core.racksWait (k : Core) : Bool :=
  k.sealed.any fun b => b.rest.any Effect.isRack

/-- Whether the racking queue has a free entry for a command that issues now (R12). -/
def State.rackRoom (s : State) (core : Nat) : Bool :=
  !(s.core core).racksWait
    && decide ((s.core core).rackQueue.length + (s.unplaced core EngCmd.isRack).length < 2)

/-- The pending fault of the racking engine: an instruction other than RSTAT raises it and clears it (R237). -/
def State.rackPending (s : State) (a : Agent) (f : State) : State :=
  let d := (s.ctx a).rackFault
  if d = 0 then f else (s.onCtx a fun c => { c with rackFault := 0 }).trap a Cause.engineFault d

/-- Whether an activation of a slot runs that is atomic, for a command of a slot or of its sequencer (R47). -/
def State.inAtomic (s : State) (a : Agent) : Bool := s.atomic a

/-! ### Issue of a copy word (R217, R223, R225, R234) -/

/-- A copy word with its operands: its kind, the word, the numbers of qa and qb, their images, its flags, its parameters, and
for a replayed record the two BASE words. -/
structure CopyWord where
  kind : RackKind
  word : IWord
  na : Nat
  nb : Nat
  qa : Region
  qb : Region
  c : Bool
  t : Bool
  s : Bool
  params : List Word
  bases : Option (Word × Word)
deriving DecidableEq, Repr

/-- The number of parameters that a copy word takes (R217). -/
def copyParams (kind : RackKind) (rank : Nat) (c t s : Bool) : Nat :=
  (if t then rank else 0) + b2n c + b2n s + (if kind = .rackM then 1 else 0)

/-- The index of the counter among the parameters. -/
def CopyWord.ctrIdx (x : CopyWord) : Nat := if x.t then x.qa.rank else 0

/-- The translation that a copy word gives (R217). -/
def CopyWord.trans (x : CopyWord) : List Int :=
  if x.t then (x.params.take x.qa.rank).map fun w => signed 32 (wbits w 31 0) else List.replicate x.qa.rank 0

/-- The counter's register value. -/
def CopyWord.ctrWord (x : CopyWord) : Option Word :=
  if x.c then x.params[x.ctrIdx]? else none

/-- The starting byte's register value. -/
def CopyWord.startWord (x : CopyWord) : Word :=
  if x.s then (x.params[x.ctrIdx + b2n x.c]?).getD 0 else 0

/-- The receiver mask of a RACKM. -/
def CopyWord.maskWord (x : CopyWord) : Word :=
  if x.kind = .rackM then (x.params[x.ctrIdx + b2n x.c + b2n x.s]?).getD 0 else 0

/-- The receivers that a mask names (R225). -/
def receiversOf (role : Nat) (mask : Word) : List Nat :=
  ((upFrom 0 64).filter mask.getLsbD).map fun j => role / 64 * 64 + j

/-- The job of a copy word. -/
def CopyWord.job (x : CopyWord) (s : State) (a : Agent) (da db : Desc) (lta ltb : List Nat) : Job :=
  let role := s.myRole a
  let start := x.startWord.toNat
  let recv := if x.kind = .rackM then receiversOf role x.maskWord else []
  let n := if x.kind = .rackM then recv.length else 1
  ⟨s.nextId, x.kind, x.word, slotNo a, (s.ctx a).act.id, s.launchOf a, role, s.asidOf (coreNo a), x.qa, x.qb, da, db, lta,
    ltb, x.params, x.trans, x.ctrWord.map fun w => wbits w 29 0 / 8 * 8, start, recv, 0, start / 512,
    List.replicate n (start / 512), [], [], [], [], none, none, start / 512, 0⟩

/-- The form checks of R223 step 2 that need no descriptor. -/
def CopyWord.rankCheck (x : CopyWord) : Option Failure :=
  firstFailure
    [failIf ((decide (x.kind = .rack) || decide (x.kind = .rackM)) && decide (x.qa.rank ≠ x.qb.rank)) Cause.format
        (toWord (0x100 + x.nb)),
     failIf (decide (x.kind = .rackT) && decide (x.qa.rank < 2)) Cause.format (toWord (0x100 + x.na)),
     failIf (decide (x.kind = .rackT) && decide (x.qb.rank < 2)) Cause.format (toWord (0x100 + x.nb))]

/-- The form checks of R223 steps 2 and 3 on the descriptors. -/
def CopyWord.descCheck (x : CopyWord) (da db : Desc) : Option Failure :=
  firstFailure
    [failIf (decide (x.kind = .rackM) && decide (db.space = 0)) Cause.format (toWord (0x100 + x.nb)),
     failIf (x.kind.isCopy && decide (da.width ≠ db.width)) Cause.format (toWord db.addr),
     failIf (decide (da.rank ≠ x.qa.rank)) Cause.format (toWord (0x100 + x.na)),
     failIf (decide (db.rank ≠ x.qb.rank)) Cause.format (toWord (0x100 + x.nb)),
     failIf (x.qa.ragged && !da.ltv) Cause.format (toWord da.addr),
     failIf (x.qb.ragged && !db.ltv) Cause.format (toWord db.addr)]

/-- The FMT of a coder's compressed side (R234). -/
def uint8Fmt : BitVec 32 := 0x11000000

/-- The form checks of RACKZ (R234). -/
def Job.coderCheck (j : Job) (x : CopyWord) : Option Failure :=
  let z := j.bytes
  let big := if j.kind = .rackzC then x.na else x.nb
  let small := if j.kind = .rackzC then x.nb else x.na
  let fmt := if j.kind = .rackzC then j.db.fmt else j.da.fmt
  firstFailure
    [failIf (j.kind.isCoder && (decide (z % 8 ≠ 0) || decide (65536 < z))) Cause.format (toWord (0x100 + big)),
     failIf (j.kind.isCoder && decide (fmt ≠ uint8Fmt)) Cause.format (toWord (0x100 + small)),
     failIf (decide (j.kind = .rackzC) && decide (j.cellsB.length < z + (z + 511) / 512)) Cause.format
        (toWord (0x100 + small))]

/-- The checks of the parameters (R223 step 4, R225); a RACKZ.C writes its length word after the counter (log entry 36). -/
def CopyWord.paramCheck (x : CopyWord) (nroles role z : Nat) : Option Failure :=
  let ctr := x.ctrWord.getD 0
  let top := if x.kind = .rackzC then 0x3FEF0 else 0x3FEF8
  let off := if x.kind = .rackzC then caOff ctr.toNat / 8 * 8 else caOff ctr.toNat
  firstFailure
    [failIf (x.c && (decide (2 ^ 30 ≤ ctr.toNat) || decide (nroles ≤ caRole ctr.toNat) || decide (top < off)))
        Cause.protect ctr,
     failIf (decide (x.startWord.toNat % 512 ≠ 0) || decide (z < x.startWord.toNat)) Cause.protect x.startWord,
     failIf (decide (x.kind = .rackM)
        && (decide (x.maskWord = 0) || (receiversOf role x.maskWord).any fun r => decide (nroles ≤ r)))
        Cause.protect x.maskWord]

/-- Whether a destination cell of a copy lies outside Cells(qb) or leaves the range of coordinates (R223 step 5). -/
def Job.cellBad (j : Job) : Bool :=
  j.kind.isCopy && j.cellsA.any fun c =>
    let d := j.destCell c
    d.any (fun x => decide (x < -(2 ^ 31)) || decide (2 ^ 31 - 2 < x))
      || !j.qb.hasCell (j.db.ext.headD 0) j.ltb d

/-- The counter words of a job as runs; RACKZ.C has a length word after it. -/
def Job.ctrRuns (j : Job) : List Run :=
  (upFrom 0 j.receivers).filterMap fun m =>
    (j.counterAt m).map fun c => (false, ((c.1 * 2 ^ 18 + c.2 : Nat) : Int), if j.kind = .rackzC then 16 else 8)

/-- The record of a copy word (Table 13-6). -/
def CopyWord.tapeRecord (x : CopyWord) (j : Job) : Record :=
  let imgA := x.qa.recordWords
  let imgB := x.qb.recordWords
  let ia := x.params.length + imgA.length + imgB.length
  let addr := fun (k idx : Nat) (d : Desc) (rs : List Run) =>
    if d.space = 2 then [] else [(⟨k, idx, d.space, if d.global then globalSpan rs else none, 64⟩ : AddrWord)]
  { word := x.word
    ops := x.params ++ imgA ++ imgB ++ [toWord j.da.base, toWord j.db.base]
    addrs := addr 0 ia j.da j.srcRuns ++ addr 1 (ia + 1) j.db (j.db.runsOf j.role j.cellsB)
      ++ (if x.c then [⟨2, x.ctrIdx, 1, none, 64⟩] else [])
    descs := [(x.qa.didx, j.da), (x.qb.didx, j.db)] }

/-- A checked copy enters its queue, or the retire buffer of an atomic task whose copy has a global destination (R225, R239). -/
def State.acceptCopy (s : State) (a : Agent) (x : CopyWord) (j : Job) : State :=
  let core := coreNo a
  let done := fun (s : State) =>
    let s := if x.kind = .rackzC then s.notRecordable a else s.record a (x.tapeRecord j)
    s.issued a
  if s.inAtomic a && j.db.global then
    { s with nextId := s.nextId + 1 }.buffer a 32 (toWord j.db.base) [.rack j] done
  else if !s.rackRoom core then s.awaitRoom a .racking
  else if j.recv.any fun r => decide ((s.core core).mcred.get (r % 64) 0 = 0) then s.awaitRoom a .credits
  else
    let s := s.onCore core fun k =>
      { k with mcred := j.recv.foldl (fun t r => t.put (r % 64) (t.get (r % 64) 0 - 1)) k.mcred }
    done ({ s with nextId := s.nextId + 1 }.enqueue a fun id =>
      ⟨id, false, true, .cellar, 0, .engine (.rack j), none, none⟩)

/-- A copy word of an agent: the checks of R223 in order, then its way into the engine.  R234 gives RACKZ's own FORMAT checks no place
among them: that they stand between steps 3 and 4 is the model's choice (log entry 132). -/
def State.rackCopy (s : State) (a : Agent) (x : CopyWord) : State :=
  s.rackPending a <|
  match x.rankCheck with
  | some (cause, f) => s.trap a cause f
  | none =>
    s.withDescAs a x.qa.didx (x.bases.map Prod.fst) fun da =>
    s.withDescAs a x.qb.didx (x.bases.map Prod.snd) fun db =>
    match x.descCheck da db with
    | some (cause, f) => s.trap a cause f
    | none =>
      s.withTable a x.qa da fun lta =>
      s.withTable a x.qb db fun ltb =>
      let j := x.job s a da db lta ltb
      let check := firstFailure
        [failIf (x.qa.outside da lta) Cause.protect (toWord (0x100 + x.na)),
         failIf (x.qb.outside db ltb) Cause.protect (toWord (0x100 + x.nb)),
         failIf x.qb.isOver Cause.regionOver (toWord x.nb),
         j.coderCheck x,
         x.paramCheck (s.nroles a) (s.myRole a) j.bytes,
         failIf j.cellBad Cause.protect (toWord (0x100 + x.nb)),
         s.checkRuns a (j.srcRuns ++ j.dstRuns ++ j.ctrRuns),
         failIf (runsMeet j.dstRuns j.srcRuns) Cause.protect (toWord (0x100 + x.nb))]
      match check with
      | some (cause, f) => s.trap a cause f
      | none => s.acceptCopy a x j

/-- A copy word of the issuing slot, with its parameters read from X[n] on (R217). -/
def State.copyWord (s : State) (kind : RackKind) (a b : BitVec 4) (n : BitVec 5) (c t st : Bool) : State :=
  let count := fun (s : State) => copyParams kind (s.me.q a).rank c t st
  s.issue { srcs := (upFrom 0 (count s)).map fun i => srcX0 (regPlus n i) } fun s =>
    s.rackCopy s.cur
      ⟨kind, s.me.ctl.iword, a.toNat, b.toNat, s.me.q a, s.me.q b, c, t, st,
        (upFrom 0 (count s)).map (fun i => s.me.x (regPlus n i)), none⟩

/-- RACK (R224). -/
def execRack (a b : BitVec 4) (n : BitVec 5) (c t pv : BitVec 1) (s : State) : Host.Outcome State Fault Refusal :=
  .next (s.copyWord .rack a b n (decide (c = 1)) (decide (t = 1)) (decide (pv = 1)))

/-- RACK.T (R224). -/
def execRackT (a b : BitVec 4) (n : BitVec 5) (c t pv : BitVec 1) (s : State) : Host.Outcome State Fault Refusal :=
  .next (s.copyWord .rackT a b n (decide (c = 1)) (decide (t = 1)) (decide (pv = 1)))

/-- RACKM (R224, R225). -/
def execRackm (a b : BitVec 4) (n : BitVec 5) (c t pv : BitVec 1) (s : State) : Host.Outcome State Fault Refusal :=
  .next (s.copyWord .rackM a b n (decide (c = 1)) (decide (t = 1)) (decide (pv = 1)))

/-- RACKZ.C, whose C is 1 (R234). -/
def execRackzC (a b : BitVec 4) (n : BitVec 5) (s : State) : Host.Outcome State Fault Refusal :=
  .next (s.copyWord .rackzC a b n true false false)

/-- RACKZ.D (R234). -/
def execRackzD (a b : BitVec 4) (n : BitVec 5) (c : BitVec 1) (s : State) : Host.Outcome State Fault Refusal :=
  .next (s.copyWord .rackzD a b n (decide (c = 1)) false false)

/-! ### RELSLOT (R226) -/

/-- RELSLOT of an agent with its two operands. -/
def State.relslot (s : State) (a : Agent) (word : IWord) (xa xb : Word) : State :=
  s.rackPending a <|
  match s.resolve a xa with
  | none => s.trap a Cause.protect xa
  | some r =>
    if r / 64 ≠ s.myRole a / 64 then s.trap a Cause.protect xa
    else if xb = 0 ∨ 65535 < xb.toNat then s.trap a Cause.protect xb
    else
      let s := s.enqueue a fun id => ⟨id, false, true, .cellar, 0, .credit r xb.toNat, none, none⟩
      (s.record a { word := word, ops := [xa, xb] }).issued a

/-- RELSLOT (R226). -/
def execRelslot (a b : BitVec 5) (s : State) : Host.Outcome State Fault Refusal :=
  .next (s.issue { srcs := [srcX0 a, srcX0 b] } fun s =>
    s.relslot s.cur s.me.ctl.iword (s.me.x a) (s.me.x b))

/-! ### DICTLD (R235) -/

/-- The job of a DICTLD. -/
def dictJob (s : State) (a : Agent) (word : IWord) (off : Nat) : Job :=
  ⟨s.nextId, .dictld, word, slotNo a, (s.ctx a).act.id, s.launchOf a, s.myRole a, s.asidOf (coreNo a), Region.zero,
    Region.zero, Desc.none, Desc.none, [], [], [], [], none, 0, [], off, 0, [], [], [], [], [], none, none, 0, 0⟩

/-- A command that keeps its slot until it is performed: the slot is held, or its sequencer waits (R235, R293, R322). -/
def State.heldBy (s : State) (a : Agent) (id : Nat) : State := s.hold a (.command id)

/-- DICTLD of an agent. -/
def State.dictld (s : State) (a : Agent) (word : IWord) (x : Word) : State :=
  s.rackPending a <|
  let check := firstFailure
    [failIf (decide (x.toNat % 64 ≠ 0) || decide (Config.sliceTop < x.toNat + 2048)) Cause.protect x,
     footprintCheck (s.boxes a) (s.myRole a) x.toNat 2048]
  match check with
  | some (cause, f) => s.trap a cause f
  | none =>
    if !s.rackRoom (coreNo a) then s.awaitRoom a .racking
    else
      let j := dictJob s a word x.toNat
      let s := { s with nextId := s.nextId + 1 }.enqueue a fun id =>
        ⟨id, false, true, .cellar, 0, .engine (.rack j), none, none⟩
      (s.record a { word := word, ops := [x] }).heldBy a j.id

/-- DICTLD (R235). -/
def execDictld (a : BitVec 5) (s : State) : Host.Outcome State Fault Refusal :=
  .next (s.issue { srcs := [srcX0 a] } fun s => s.dictld s.cur s.me.ctl.iword (s.me.x a))

/-! ### Waits and drains (R227 to R230) -/

/-- The copies of a core that are queued or in flight, those whose entry has issued and those that a sealed buffer still
holds among them. -/
def State.copiesOf (s : State) (core : Nat) : List Job :=
  let k := s.core core
  ((s.unplaced core EngCmd.isRack).filterMap fun c => match c with
    | .rack j => some j
    | _ => none) ++ (k.sealed.flatMap fun b => b.rest.filterMap fun f => match f with
      | .rack j => some j
      | _ => none) ++ k.rackQueue ++ k.inflight.map Prod.snd

/-- A wait for jobs: it ends at once when there are none (R228, R229).  R229 does not say whether a queued DICTLD of another slot is a
job that DRAIN.M or WAITR waits for: it is not, a choice of the model (log entry 134). -/
def State.waitJobs (s : State) (a : Agent) (word : IWord) (r : Record) (keep : Job → Bool) : State :=
  let s := s.record a { r with word := word }
  match ((s.copiesOf (coreNo a)).filter fun j => decide (j.kind ≠ .dictld) && keep j).map (·.id) with
  | [] => s.issued a
  | ids => s.hold a (.jobs ids)

/-- Whether the counter at an own-slice offset has reached a target (R227, R282). -/
def State.reached (s : State) (a : Agent) (off target : Nat) : Bool :=
  decide (target ≤ ((s.core (coreNo a)).sliceWord off).toNat)

/-- WAITC of an agent: the condition is tested at issue and then by WAIT_DONE. -/
def State.waitc (s : State) (a : Agent) (word : IWord) (xa xb : Word) : State :=
  s.rackPending a <|
  let off := xa.toNat / 8 * 8
  let check := firstFailure
    [failIf (decide (Config.sliceTop ≤ xa.toNat)) Cause.protect xa,
     footprintCheck (s.boxes a) (s.myRole a) off 8]
  match check with
  | some (cause, f) => s.trap a cause f
  | none =>
    let s := s.record a { word := word, ops := [xa, xb] }
    if s.reached a off xb.toNat then s.issued a else s.hold a (.waitc off xb.toNat)

/-- WAITC (R227). -/
def execWaitc (a b : BitVec 5) (s : State) : Host.Outcome State Fault Refusal :=
  .next (s.issue { srcs := [srcX0 a, srcX0 b] } fun s =>
    s.waitc s.cur s.me.ctl.iword (s.me.x a) (s.me.x b))

/-- WAITR of an agent on a region; an OVER region acts as its superset (R212, R228). -/
def State.waitr (s : State) (a : Agent) (word : IWord) (na : Nat) (q : Region) (base : Option Word) : State :=
  s.rackPending a <|
  s.withDescAs a q.didx base fun d =>
    if d.rank ≠ q.rank then s.trap a Cause.format (toWord (0x100 + na))
    else if q.ragged ∧ !d.ltv then s.trap a Cause.format (toWord d.addr)
    else
      s.withTable a q d fun lt =>
        let runs := d.runsOf (s.myRole a) (q.walk (d.ext.headD 0) lt)
        let img := q.recordWords
        let addrs := if d.space = 2 then []
          else [(⟨0, img.length, d.space, if d.global then globalSpan runs else none, 64⟩ : AddrWord)]
        s.waitJobs a word { word := word, ops := img ++ [toWord d.base], addrs := addrs, descs := [(q.didx, d)] } fun j =>
          runsMeet j.dstRuns runs

/-- WAITR (R228). -/
def execWaitr (a : BitVec 4) (s : State) : Host.Outcome State Fault Refusal :=
  .next (s.issue { } fun s => s.waitr s.cur s.me.ctl.iword a.toNat (s.me.q a) none)

/-- A drain of an agent over jobs of a kind (R229). -/
def State.drainJobs (s : State) (a : Agent) (word : IWord) (keep : Job → Bool) : State :=
  s.rackPending a (s.waitJobs a word { word := word, ops := [] } keep)

/-- Whether a job's destination is cellar space or the own slice. -/
def Job.toSlice (j : Job) : Bool := !j.db.global

/-- DRAIN.S (R229). -/
def execDrainS (s : State) : Host.Outcome State Fault Refusal :=
  .next (s.issue { } fun s => s.drainJobs s.cur s.me.ctl.iword Job.toSlice)

/-- DRAIN.G (R229). -/
def execDrainG (s : State) : Host.Outcome State Fault Refusal :=
  .next (s.issue { } fun s => s.drainJobs s.cur s.me.ctl.iword fun j => j.db.global)

/-- DRAIN.M (R229). -/
def execDrainM (s : State) : Host.Outcome State Fault Refusal :=
  .next (s.issue { } fun s => s.drainJobs s.cur s.me.ctl.iword fun _ => true)

/-! ### RSTAT (R236) -/

/-- The RSTAT state word (Table 9-5). -/
def State.rstatWord (s : State) (a : Agent) : Word :=
  let core := coreNo a
  let queued := min 2 ((s.core core).rackQueue.length + (s.unplaced core EngCmd.isRack).length)
  toWord (b2n (decide ((s.ctx a).rackFault ≠ 0)) * 2 ^ 8 + queued * 2 ^ 4 + (s.core core).inflight.length)

/-- RSTAT sel 0 (Table 9-5). -/
def execRstatState (d : BitVec 5) (s : State) : Host.Outcome State Fault Refusal :=
  .next (s.issue { dsts := [.x d] } fun s => s.askStatus d (s.rstatWord s.cur))

/-- RSTAT sel 1: the dictionary generation (R235). -/
def execRstatGeneration (d : BitVec 5) (s : State) : Host.Outcome State Fault Refusal :=
  .next (s.issue { dsts := [.x d] } fun s => s.askStatus d (s.core (coreNo s.cur)).dictGen)

/-- RSTAT sel 2: the pending detail, which stays pending (R237). -/
def execRstatFault (d : BitVec 5) (s : State) : Host.Outcome State Fault Refusal :=
  .next (s.issue { dsts := [.x d] } fun s => s.askStatus d s.me.rackFault)

/-- RSTAT sel 3: MCRED[X[b] mod 64] (R225). -/
def execRstatCredit (d b : BitVec 5) (s : State) : Host.Outcome State Fault Refusal :=
  .next (s.issue { srcs := [srcX0 b], dsts := [.x d] } fun s =>
    s.askStatus d (toWord ((s.core (coreNo s.cur)).mcred.get (wbits (s.me.x b) 5 0) 0)))

/-! ### Replays of recorded commands (R322) -/

/-- A copy record rebuilt: its parameters, images and BASE words; none where they do not match its word. -/
def copyRecord (kind : RackKind) (word : IWord) (ops : List Word) : Option CopyWord :=
  let c := word.getLsbD 5
  let t := word.getLsbD 4 && kind.isCopy
  let st := word.getLsbD 3 && kind.isCopy
  [1, 2, 3, 4].findSome? fun rank =>
    let n := copyParams kind rank c t st
    match readImage (ops.drop n) with
    | some (qa, rest) =>
      match readImage rest with
      | some (qb, [ba, bb]) =>
        if qa.rank = rank ∧ n ≤ ops.length then
          some ⟨kind, word, bits word.toNat 18 15, bits word.toNat 14 11, qa, qb, c, t, st, ops.take n, some (ba, bb)⟩
        else none
      | _ => none
    | none => none

/-- A racking record issued by an agent's sequencer: what it does, or none where its words do not match its command
(R322). -/
def State.replayRack (s : State) (a : Agent) (word : IWord) (ops : List Word) : Option State :=
  let copy := fun kind => (copyRecord kind word ops).map (s.rackCopy a)
  match bits word.toNat 23 19, ops with
  | 0, _ => copy .rack
  | 1, _ => copy .rackT
  | 2, _ => copy .rackM
  | 3, _ => if word.getLsbD 2 then copy .rackzD else none
  | 4, [xa, xb] => some (s.relslot a word xa xb)
  | 5, [x] => some (s.dictld a word x)
  | 6, [xa, xb] => some (s.waitc a word xa xb)
  | 7, _ =>
    match readImage ops with
    | some (q, [base]) => some (s.waitr a word (bits word.toNat 18 15) q (some base))
    | _ => none
  | 8, [] => some (s.drainJobs a word Job.toSlice)
  | 9, [] => some (s.drainJobs a word fun j => j.db.global)
  | 10, [] => some (s.drainJobs a word fun _ => true)
  | _, _ => none

end Sys2Proof.Machine
end

