-- ==== Sys2Proof/Machine/Flags.lean ====
section
/-! DEFINITION. The flags of C.FSTAT and the stochastic draws of a slot (R99, R100, R102). -/

namespace Sys2Proof.Machine

/-- Flags ORed into C.FSTAT (R102). -/
def Ctx.orFlags (c : Ctx) (f : Flags) : Ctx :=
  { c with sp := { c.sp with fstat := c.sp.fstat ||| f.setWidth 64 } }

/-- The draw of a lane at the slot's stream position (R99): KEY is C.SEED bits 63:32, CTR bits 31:0. -/
def Ctx.drawAt (c : Ctx) (lane : Nat) : Nat :=
  draw (wbits c.sp.seed 63 32) (wbits c.sp.seed 31 0) lane

/-- CTR raised by `n`, modulo 2^32. -/
def Ctx.bumpCtr (c : Ctx) (n : Nat) : Ctx :=
  { c with sp := { c.sp with
      seed := toWord (wbits c.sp.seed 63 32 * 2 ^ 32 + (wbits c.sp.seed 31 0 + n) % 2 ^ 32) } }

/-- An instruction in a mode has completed: in RSR with an active element it adds 1 to CTR (R99). -/
def Ctx.drew (c : Ctx) (mode : RMode) (some_ : Bool) : Ctx :=
  if mode = .rsr ∧ some_ then c.bumpCtr 1 else c

end Sys2Proof.Machine
end

