-- ==== Sys2Proof/Machine/Vector.lean ====
section
/-! DEFINITION. The vector instructions that stay in registers: VOP, VFP, VCVT and VPERM (R139 to R153). -/

namespace Sys2Proof.Machine

/-! ### Elements (R139) -/

/-- The element width of et. -/
def widthOf (e : BitVec 2) : Nat := 8 * 2 ^ e.toNat

/-- Element `i` of `w` bits of a register. -/
def elem (v : VReg) (w i : Nat) : Nat :=
  v.toNat / 2 ^ (w * i) % 2 ^ w

/-- The number that `n` elements of `w` bits make. -/
def packElems (w : Nat) (f : Nat → Nat) : Nat → Nat
  | 0 => 0
  | n + 1 => packElems w f n + f n % 2 ^ w * 2 ^ (w * n)

/-- Whether element `i` is active under a predicate: bit i·w/8 of it. -/
def active (p : Word) (w i : Nat) : Bool := p.getLsbD (i * w / 8)

/-- The active elements of a register of elements of `w` bits. -/
def activeElems (p : Word) (w : Nat) : List Nat :=
  (upFrom 0 (512 / w)).filter (active p w)

/-- A register whose active elements are given and whose others are kept. -/
def mapElems (p : Word) (w : Nat) (old : VReg) (f : Nat → Nat) : VReg :=
  BitVec.ofNat 512 (packElems w (fun i => if active p w i then f i else elem old w i) (512 / w))

/-- A predicate that holds a relation in every byte lane of each active element, and zeros elsewhere (R145). -/
def relPred (p : Word) (w : Nat) (f : Nat → Bool) : Word :=
  toWord ((upFrom 0 (512 / w)).foldl (fun acc i =>
    if active p w i && f i then acc + (2 ^ (w / 8) - 1) * 2 ^ (i * w / 8) else acc) 0)

/-! ### The vector engine's queue (R12, R141) -/

/-- An instruction takes its place in the vector engine's queue of two, or stalls its slot. -/
def State.vecEnter (s : State) (k : State → State) : State :=
  let core := coreNo s.cur
  if 2 ≤ (s.core core).vecQueue.length then s.stall s.cur .vector
  else k (s.onCore core fun c => { c with vecQueue := c.vecQueue ++ [slotNo s.cur] })

/-- What a V-form word needs: it may stand in a repeat frame, and reads with k = 0 (R140, R143). -/
def vecNeeds (srcs dsts : List RegName) : Needs :=
  { rep := true, srcs := srcs.map fun r => (r, false), dsts := dsts }

/-- A V-form word whose effect is on the issuing context alone. -/
def State.vec (s : State) (srcs dsts : List RegName) (f : Ctx → Ctx) : State :=
  s.issue (vecNeeds srcs dsts) fun s => s.vecEnter fun s => s.finish f

/-! ### VOP (R144, R145) -/

/-- V[d].e[i] := f(w, V[a].e[i], V[b].e[i], V[d].e[i]) for each active element, modulo 2^w. -/
def State.vop (s : State) (d a b : BitVec 5) (pm : BitVec 3) (e : BitVec 2) (f : Nat → Nat → Nat → Nat → Nat) : State :=
  let w := widthOf e
  s.vec [.v a, .v b] [.v d] fun c =>
    c.setV d (mapElems (c.p pm) w (c.v d) fun i => f w (elem (c.v a) w i) (elem (c.v b) w i) (elem (c.v d) w i))

/-- P[d] := a relation of the elements of V[a] and V[b]. -/
def State.vcmp (s : State) (d : BitVec 3) (a b : BitVec 5) (pm : BitVec 3) (e : BitVec 2) (f : Nat → Nat → Nat → Bool) :
    State :=
  let w := widthOf e
  s.vec [.v a, .v b] [] fun c =>
    c.setP d (relPred (c.p pm) w fun i => f w (elem (c.v a) w i) (elem (c.v b) w i))

/-- VADD (Table 6-3). -/
def execVadd (d a b : BitVec 5) (p : BitVec 3) (e : BitVec 2) (s : State) : Host.Outcome State Fault Refusal :=
  .next (s.vop d a b p e fun _ x y _ => x + y)

/-- VSUB (Table 6-3). -/
def execVsub (d a b : BitVec 5) (p : BitVec 3) (e : BitVec 2) (s : State) : Host.Outcome State Fault Refusal :=
  .next (s.vop d a b p e fun w x y _ => x + (2 ^ w - y))

/-- VADDS (Table 6-3). -/
def execVadds (d a b : BitVec 5) (p : BitVec 3) (e : BitVec 2) (s : State) : Host.Outcome State Fault Refusal :=
  .next (s.vop d a b p e fun w x y _ => wrap w (clamp (signed w x + signed w y) (-(2 ^ (w - 1) : Int)) (2 ^ (w - 1) - 1)))

/-- VADDUS (Table 6-3). -/
def execVaddus (d a b : BitVec 5) (p : BitVec 3) (e : BitVec 2) (s : State) : Host.Outcome State Fault Refusal :=
  .next (s.vop d a b p e fun w x y _ => min (x + y) (2 ^ w - 1))

/-- VSUBS (Table 6-3). -/
def execVsubs (d a b : BitVec 5) (p : BitVec 3) (e : BitVec 2) (s : State) : Host.Outcome State Fault Refusal :=
  .next (s.vop d a b p e fun w x y _ => wrap w (clamp (signed w x - signed w y) (-(2 ^ (w - 1) : Int)) (2 ^ (w - 1) - 1)))

/-- VSUBUS (Table 6-3). -/
def execVsubus (d a b : BitVec 5) (p : BitVec 3) (e : BitVec 2) (s : State) : Host.Outcome State Fault Refusal :=
  .next (s.vop d a b p e fun _ x y _ => x - y)

/-- VMUL (Table 6-3). -/
def execVmul (d a b : BitVec 5) (p : BitVec 3) (e : BitVec 2) (s : State) : Host.Outcome State Fault Refusal :=
  .next (s.vop d a b p e fun _ x y _ => x * y)

/-- VMULH (Table 6-3). -/
def execVmulh (d a b : BitVec 5) (p : BitVec 3) (e : BitVec 2) (s : State) : Host.Outcome State Fault Refusal :=
  .next (s.vop d a b p e fun w x y _ => wrap w (signed w x * signed w y / 2 ^ w))

/-- VMULHU (Table 6-3). -/
def execVmulhu (d a b : BitVec 5) (p : BitVec 3) (e : BitVec 2) (s : State) : Host.Outcome State Fault Refusal :=
  .next (s.vop d a b p e fun w x y _ => x * y / 2 ^ w)

/-- VMACC (Table 6-3). -/
def execVmacc (d a b : BitVec 5) (p : BitVec 3) (e : BitVec 2) (s : State) : Host.Outcome State Fault Refusal :=
  .next (s.vop d a b p e fun _ x y z => z + x * y)

/-- VMIN (Table 6-3). -/
def execVmin (d a b : BitVec 5) (p : BitVec 3) (e : BitVec 2) (s : State) : Host.Outcome State Fault Refusal :=
  .next (s.vop d a b p e fun w x y _ => if signed w x ≤ signed w y then x else y)

/-- VMAX (Table 6-3). -/
def execVmax (d a b : BitVec 5) (p : BitVec 3) (e : BitVec 2) (s : State) : Host.Outcome State Fault Refusal :=
  .next (s.vop d a b p e fun w x y _ => if signed w x ≤ signed w y then y else x)

/-- VMINU (Table 6-3). -/
def execVminu (d a b : BitVec 5) (p : BitVec 3) (e : BitVec 2) (s : State) : Host.Outcome State Fault Refusal :=
  .next (s.vop d a b p e fun _ x y _ => min x y)

/-- VMAXU (Table 6-3). -/
def execVmaxu (d a b : BitVec 5) (p : BitVec 3) (e : BitVec 2) (s : State) : Host.Outcome State Fault Refusal :=
  .next (s.vop d a b p e fun _ x y _ => max x y)

/-- VABS: −2^(w−1) gives itself (Table 6-3). -/
def execVabs (d a : BitVec 5) (p : BitVec 3) (e : BitVec 2) (s : State) : Host.Outcome State Fault Refusal :=
  .next (s.vop d a a p e fun w x _ _ => wrap w (signed w x).natAbs)

/-- VAND (Table 6-3). -/
def execVand (d a b : BitVec 5) (p : BitVec 3) (e : BitVec 2) (s : State) : Host.Outcome State Fault Refusal :=
  .next (s.vop d a b p e fun _ x y _ => x &&& y)

/-- VOR (Table 6-3). -/
def execVor (d a b : BitVec 5) (p : BitVec 3) (e : BitVec 2) (s : State) : Host.Outcome State Fault Refusal :=
  .next (s.vop d a b p e fun _ x y _ => x ||| y)

/-- VXOR (Table 6-3). -/
def execVxor (d a b : BitVec 5) (p : BitVec 3) (e : BitVec 2) (s : State) : Host.Outcome State Fault Refusal :=
  .next (s.vop d a b p e fun _ x y _ => x ^^^ y)

/-- VANDN (Table 6-3). -/
def execVandn (d a b : BitVec 5) (p : BitVec 3) (e : BitVec 2) (s : State) : Host.Outcome State Fault Refusal :=
  .next (s.vop d a b p e fun w x y _ => x &&& (2 ^ w - 1 - y))

/-- VSLL (Table 6-3). -/
def execVsll (d a b : BitVec 5) (p : BitVec 3) (e : BitVec 2) (s : State) : Host.Outcome State Fault Refusal :=
  .next (s.vop d a b p e fun w x y _ => x * 2 ^ (y % w))

/-- VSRL (Table 6-3). -/
def execVsrl (d a b : BitVec 5) (p : BitVec 3) (e : BitVec 2) (s : State) : Host.Outcome State Fault Refusal :=
  .next (s.vop d a b p e fun w x y _ => x / 2 ^ (y % w))

/-- VSRA (Table 6-3). -/
def execVsra (d a b : BitVec 5) (p : BitVec 3) (e : BitVec 2) (s : State) : Host.Outcome State Fault Refusal :=
  .next (s.vop d a b p e fun w x y _ => wrap w (signed w x / 2 ^ (y % w)))

/-- VCMPEQ (R145). -/
def execVcmpeq (d : BitVec 3) (a b : BitVec 5) (p : BitVec 3) (e : BitVec 2) (s : State) :
    Host.Outcome State Fault Refusal :=
  .next (s.vcmp d a b p e fun _ x y => decide (x = y))

/-- VCMPNE (R145). -/
def execVcmpne (d : BitVec 3) (a b : BitVec 5) (p : BitVec 3) (e : BitVec 2) (s : State) :
    Host.Outcome State Fault Refusal :=
  .next (s.vcmp d a b p e fun _ x y => decide (x ≠ y))

/-- VCMPLT (R145). -/
def execVcmplt (d : BitVec 3) (a b : BitVec 5) (p : BitVec 3) (e : BitVec 2) (s : State) :
    Host.Outcome State Fault Refusal :=
  .next (s.vcmp d a b p e fun w x y => decide (signed w x < signed w y))

/-- VCMPLTU (R145). -/
def execVcmpltu (d : BitVec 3) (a b : BitVec 5) (p : BitVec 3) (e : BitVec 2) (s : State) :
    Host.Outcome State Fault Refusal :=
  .next (s.vcmp d a b p e fun _ x y => decide (x < y))

/-- VCMPLE (R145). -/
def execVcmple (d : BitVec 3) (a b : BitVec 5) (p : BitVec 3) (e : BitVec 2) (s : State) :
    Host.Outcome State Fault Refusal :=
  .next (s.vcmp d a b p e fun w x y => decide (signed w x ≤ signed w y))

/-- VCMPLEU (R145). -/
def execVcmpleu (d : BitVec 3) (a b : BitVec 5) (p : BitVec 3) (e : BitVec 2) (s : State) :
    Host.Outcome State Fault Refusal :=
  .next (s.vcmp d a b p e fun _ x y => decide (x ≤ y))

/-! ### VFP (R146) -/

/-- The floating format of et; et = 0 names none and does not decode. -/
def fpOf (e : BitVec 2) : FloatFmt :=
  match e.toNat with
  | 1 => fp16
  | 2 => fp32
  | _ => fp64

/-- The rounding mode of an fn field; 5 to 7 do not decode. -/
def modeOf (r : BitVec 3) : RMode := (rmodeOf r.toNat).getD .rne

/-- A floating element operation: `f` gives the exact result and its flags from V[a].e[i], V[b].e[i] and V[d].e[i]; each
active element is rounded once, its flags ORed into C.FSTAT, and CTR advanced in RSR (R99, R102, R142). -/
def Ctx.vfp (c : Ctx) (d a b : BitVec 5) (pm : BitVec 3) (e : BitVec 2) (mode : RMode)
    (f : FVal → FVal → FVal → FVal × Flags) : Ctx :=
  let w := widthOf e
  let fmt := fpOf e
  let p := c.p pm
  let at_ := fun i =>
    let r := f (decodeF fmt (elem (c.v a) w i)) (decodeF fmt (elem (c.v b) w i)) (decodeF fmt (elem (c.v d) w i))
    let q := roundF fmt mode false (c.drawAt i) r.1
    (encodeF fmt q.1, r.2 ||| q.2)
  let fl := (activeElems p w).foldl (fun acc i => acc ||| (at_ i).2) (0 : Flags)
  ((c.setV d (mapElems p w (c.v d) fun i => (at_ i).1)).orFlags fl).drew mode !(activeElems p w).isEmpty

/-- A VFP word with two V sources. -/
def State.vfp (s : State) (d a b : BitVec 5) (pm : BitVec 3) (e : BitVec 2) (mode : RMode)
    (f : FVal → FVal → FVal → FVal × Flags) : State :=
  s.vec [.v a, .v b] [.v d] fun c => c.vfp d a b pm e mode f

/-- The exact x × y + z of a fused multiply-add; a NaN operand gives NaN and no flag (R101). -/
def fmaV (mode : RMode) (x y z : FVal) : FVal × Flags :=
  if z.isNaN then (.nan, 0)
  else
    let p := mulV x y
    let q := addV mode p.1 z
    (q.1, p.2 ||| q.2)

/-- VFADD (Table 6-4). -/
def execVfadd (d a b : BitVec 5) (p : BitVec 3) (e : BitVec 2) (r : BitVec 3) (s : State) :
    Host.Outcome State Fault Refusal :=
  .next (s.vfp d a b p e (modeOf r) fun x y _ => addV (modeOf r) x y)

/-- VFSUB (Table 6-4). -/
def execVfsub (d a b : BitVec 5) (p : BitVec 3) (e : BitVec 2) (r : BitVec 3) (s : State) :
    Host.Outcome State Fault Refusal :=
  .next (s.vfp d a b p e (modeOf r) fun x y _ => addV (modeOf r) x (negV y))

/-- VFMUL (Table 6-4). -/
def execVfmul (d a b : BitVec 5) (p : BitVec 3) (e : BitVec 2) (r : BitVec 3) (s : State) :
    Host.Outcome State Fault Refusal :=
  .next (s.vfp d a b p e (modeOf r) fun x y _ => mulV x y)

/-- VFMA (Table 6-4). -/
def execVfma (d a b : BitVec 5) (p : BitVec 3) (e : BitVec 2) (r : BitVec 3) (s : State) :
    Host.Outcome State Fault Refusal :=
  .next (s.vfp d a b p e (modeOf r) fun x y z => fmaV (modeOf r) x y z)

/-- VFDIV (Table 6-4). -/
def execVfdiv (d a b : BitVec 5) (p : BitVec 3) (e : BitVec 2) (r : BitVec 3) (s : State) :
    Host.Outcome State Fault Refusal :=
  .next (s.vfp d a b p e (modeOf r) fun x y _ => divV x y)

/-- VFMIN (R101). -/
def execVfmin (d a b : BitVec 5) (p : BitVec 3) (e : BitVec 2) (s : State) : Host.Outcome State Fault Refusal :=
  .next (s.vfp d a b p e .rne fun x y _ => (pickV false x y, 0))

/-- VFMAX (R101). -/
def execVfmax (d a b : BitVec 5) (p : BitVec 3) (e : BitVec 2) (s : State) : Host.Outcome State Fault Refusal :=
  .next (s.vfp d a b p e .rne fun x y _ => (pickV true x y, 0))

/-- VFSQRT (Table 6-4). -/
def execVfsqrt (d a : BitVec 5) (p : BitVec 3) (e : BitVec 2) (r : BitVec 3) (s : State) :
    Host.Outcome State Fault Refusal :=
  .next (s.vec [.v a] [.v d] fun c => c.vfp d a a p e (modeOf r) fun x _ _ => sqrtV x)

/-! ### VCVT (R147 to R149) -/

/-- The descriptor checks of VCVT: R94 for each side, then the kinds and scales it does not take.  Where both descriptors are refused,
which of them C.FADDR holds is the model's choice: the spec gives no order (R148; log entry 122). -/
def vcvtDescBad (src dst : BitVec 32) : Option Failure :=
  firstFailure
    [failIf (fmtBad src) Cause.format (src.setWidth 64),
     failIf (fmtBad dst) Cause.format (dst.setWidth 64),
     failIf (decide (fKind src = 7) || decide (fMx src ≠ 0)) Cause.format (src.setWidth 64),
     failIf (decide (fKind dst = 7) || decide (fKind dst = 8) || decide (fMx dst ≠ 0)) Cause.format (dst.setWidth 64)]

/-- The elements a VCVT converts (R148). -/
def vcvtCount (ws wd : Nat) : Nat := 512 / max (max ws wd) 8

/-- Whether R148 refuses the part number of a VCVT. -/
def vcvtPartBad (ws wd p : Nat) : Bool :=
  let n := vcvtCount ws wd
  (decide (n * ws < 512) && decide (512 < (p + 1) * n * ws))
    || (decide (n * wd < 512) && decide (512 < (p + 1) * n * wd))
    || (decide (n * ws = 512) && decide (n * wd = 512) && decide (p ≠ 0))

/-- The bit offset of a side: 0 when it fills its register, else that of part `p`. -/
def sideOffset (n w p : Nat) : Nat := if n * w = 512 then 0 else p * n * w

/-- One element converted, with its flags (R149). -/
def convertElem (src : NumFmt) (dst : BitVec 32) (sat : Bool) (d : Nat) (b : Nat) : Nat × Flags :=
  let mode := (rmodeOf (fRm dst)).getD .rne
  let x := decodeNum src b
  match numFmt dst with
  | .int sgn w =>
    let (lo, hi) := intRange sgn w
    match src, x with
    | .int _ _, .fin neg m _ =>
      let v : Int := if neg then -(m : Int) else m
      (wrap w (if sat then clamp v lo hi else v), 0)
    | _, _ =>
      let r := toInteger lo hi mode d x
      (wrap w r.1, r.2)
  | .float f =>
    let r := roundF f mode (fSat dst) d x
    (encodeF f r.1, r.2)
  | _ => (0, 0)

/-- The bits `off` to `off` + `w` − 1 of a number replaced. -/
def putBits (v off w x : Nat) : Nat :=
  v - v / 2 ^ off % 2 ^ w * 2 ^ off + x % 2 ^ w * 2 ^ off

/-- VCVT on registers: element i is active when bit i of the predicate is 1; other destination bits are kept. -/
def Ctx.vcvt (c : Ctx) (d a : BitVec 5) (src dst : BitVec 32) (sat : Bool) (pm : BitVec 3) (p : Nat) : Ctx :=
  let ws := fWidth src
  let wd := fWidth dst
  let n := vcvtCount ws wd
  let so := sideOffset n ws p
  let do_ := sideOffset n wd p
  let on := (upFrom 0 n).filter fun i => (c.p pm).getLsbD i
  let r := on.foldl (fun (acc : Nat × Flags) i =>
    let q := convertElem (numFmt src) dst sat (c.drawAt i) ((c.v a).toNat / 2 ^ (so + i * ws) % 2 ^ ws)
    (putBits acc.1 (do_ + i * wd) wd q.1, acc.2 ||| q.2)) ((c.v d).toNat, 0)
  ((c.setV d (BitVec.ofNat 512 r.1)).orFlags r.2).drew ((rmodeOf (fRm dst)).getD .rne) !on.isEmpty

/-- VCVT and VCVT.S: the descriptors of FMT[2k] and FMT[2k+1] and the part are checked at issue (R148). -/
def State.vcvt (s : State) (d a : BitVec 5) (k pm : BitVec 3) (p : BitVec 4) (sat : Bool) : State :=
  s.issue (vecNeeds [.v a] [.v d]) fun s =>
    let src := s.me.fmt (k.setWidth 4 <<< 1)
    let dst := s.me.fmt ((k.setWidth 4 <<< 1) ||| 1)
    match firstFailure [vcvtDescBad src dst,
        failIf (vcvtPartBad (fWidth src) (fWidth dst) p.toNat) Cause.format (toWord p.toNat)] with
    | some (cause, f) => s.trap s.cur cause f
    | none => s.vecEnter fun s => s.finish fun c => c.vcvt d a src dst sat pm p.toNat

/-- VCVT wraps an integer into an integer (R149). -/
def execVcvt (d a : BitVec 5) (k m : BitVec 3) (p : BitVec 4) (s : State) : Host.Outcome State Fault Refusal :=
  .next (s.vcvt d a k m p false)

/-- VCVT.S saturates an integer into an integer (R149). -/
def execVcvtS (d a : BitVec 5) (k m : BitVec 3) (p : BitVec 4) (s : State) : Host.Outcome State Fault Refusal :=
  .next (s.vcvt d a k m p true)

/-! ### VPERM: moves, predicates and formats (Table 6-6) -/

/-- VMOV. -/
def execVmov (d a : BitVec 5) (p : BitVec 3) (e : BitVec 2) (s : State) : Host.Outcome State Fault Refusal :=
  .next (s.vec [.v a] [.v d] fun c =>
    c.setV d (mapElems (c.p p) (widthOf e) (c.v d) fun i => elem (c.v a) (widthOf e) i))

/-- VSPLAT. -/
def execVsplat (d a : BitVec 5) (p : BitVec 3) (e : BitVec 2) (s : State) : Host.Outcome State Fault Refusal :=
  .next (s.vec [.x a] [.v d] fun c => c.setV d (mapElems (c.p p) (widthOf e) (c.v d) fun _ => (c.x a).toNat))

/-- VEXT: the element is sign-extended. -/
def execVext (d a b : BitVec 5) (e : BitVec 2) (s : State) : Host.Outcome State Fault Refusal :=
  .next (s.vec [.v a, .x b] [.x d] fun c =>
    let w := widthOf e
    c.setX d (ofInt (signed w (elem (c.v a) w ((c.x b).toNat % (512 / w))))))

/-- VINS: one element is written, the others are unchanged. -/
def execVins (d a b : BitVec 5) (e : BitVec 2) (s : State) : Host.Outcome State Fault Refusal :=
  .next (s.vec [.x a, .x b] [.v d] fun c =>
    let w := widthOf e
    c.setV d (BitVec.ofNat 512 (putBits (c.v d).toNat (w * ((c.x b).toNat % (512 / w))) w (c.x a).toNat)))

/-- VPERMV. -/
def execVpermv (d a b : BitVec 5) (p : BitVec 3) (e : BitVec 2) (s : State) : Host.Outcome State Fault Refusal :=
  .next (s.vec [.v a, .v b] [.v d] fun c =>
    let w := widthOf e
    c.setV d (mapElems (c.p p) w (c.v d) fun i => elem (c.v a) w (elem (c.v b) w i % (512 / w))))

/-- VIOTA. -/
def execViota (d : BitVec 5) (p : BitVec 3) (e : BitVec 2) (s : State) : Host.Outcome State Fault Refusal :=
  .next (s.vec [] [.v d] fun c => c.setV d (mapElems (c.p p) (widthOf e) (c.v d) id))

/-- A predicate operation on whole predicate registers. -/
def State.pop (s : State) (d a b : BitVec 3) (f : Word → Word → Word) : State :=
  s.vec [] [] fun c => c.setP d (f (c.p a) (c.p b))

/-- PAND. -/
def execPand (d a b : BitVec 3) (s : State) : Host.Outcome State Fault Refusal :=
  .next (s.pop d a b fun x y => x &&& y)

/-- POR. -/
def execPor (d a b : BitVec 3) (s : State) : Host.Outcome State Fault Refusal :=
  .next (s.pop d a b fun x y => x ||| y)

/-- PXOR. -/
def execPxor (d a b : BitVec 3) (s : State) : Host.Outcome State Fault Refusal :=
  .next (s.pop d a b fun x y => x ^^^ y)

/-- PANDN. -/
def execPandn (d a b : BitVec 3) (s : State) : Host.Outcome State Fault Refusal :=
  .next (s.pop d a b fun x y => x &&& ~~~y)

/-- PMOVX. -/
def execPmovx (d : BitVec 3) (a : BitVec 5) (s : State) : Host.Outcome State Fault Refusal :=
  .next (s.vec [.x a] [] fun c => c.setP d (c.x a))

/-- PMOVP. -/
def execPmovp (d : BitVec 5) (a : BitVec 3) (s : State) : Host.Outcome State Fault Refusal :=
  .next (s.vec [] [.x d] fun c => c.setX d (c.p a))

/-- PCNT: the elements that a predicate makes active. -/
def execPcnt (d : BitVec 5) (a : BitVec 3) (e : BitVec 2) (s : State) : Host.Outcome State Fault Refusal :=
  .next (s.vec [] [.x d] fun c => c.setX d (toWord (activeElems (c.p a) (widthOf e)).length))

/-- FMTW (R150). -/
def execFmtw (d : BitVec 4) (a : BitVec 5) (s : State) : Host.Outcome State Fault Refusal :=
  .next (s.vec [.x a] [] fun c => c.setFmt d ((c.x a).extractLsb' 0 32))

/-- FMTR (R150). -/
def execFmtr (d : BitVec 5) (a : BitVec 4) (s : State) : Host.Outcome State Fault Refusal :=
  .next (s.vec [] [.x d] fun c => c.setX d ((c.fmt a).setWidth 64))

/-! ### Float compares (Table 6-6) -/

/-- P[d] := a relation of the decoded elements; it sets no flag. -/
def State.vfcmp (s : State) (d : BitVec 3) (a b : BitVec 5) (pm : BitVec 3) (e : BitVec 2) (f : FVal → FVal → Bool) :
    State :=
  let w := widthOf e
  s.vec [.v a, .v b] [] fun c =>
    c.setP d (relPred (c.p pm) w fun i => f (decodeF (fpOf e) (elem (c.v a) w i)) (decodeF (fpOf e) (elem (c.v b) w i)))

/-- VFCMPEQ (Table 6-6). -/
def execVfcmpeq (d : BitVec 3) (a b : BitVec 5) (p : BitVec 3) (e : BitVec 2) (s : State) :
    Host.Outcome State Fault Refusal :=
  .next (s.vfcmp d a b p e fun x y => !(x.isNaN || y.isNaN) && !ltV x y && !ltV y x)

/-- VFCMPLT (Table 6-6). -/
def execVfcmplt (d : BitVec 3) (a b : BitVec 5) (p : BitVec 3) (e : BitVec 2) (s : State) :
    Host.Outcome State Fault Refusal :=
  .next (s.vfcmp d a b p e fun x y => !(x.isNaN || y.isNaN) && ltV x y)

/-- VFCMPLE (Table 6-6). -/
def execVfcmple (d : BitVec 3) (a b : BitVec 5) (p : BitVec 3) (e : BitVec 2) (s : State) :
    Host.Outcome State Fault Refusal :=
  .next (s.vfcmp d a b p e fun x y => !(x.isNaN || y.isNaN) && !ltV y x)

/-- VFCMPUN (Table 6-6). -/
def execVfcmpun (d : BitVec 3) (a b : BitVec 5) (p : BitVec 3) (e : BitVec 2) (s : State) :
    Host.Outcome State Fault Refusal :=
  .next (s.vfcmp d a b p e fun x y => x.isNaN || y.isNaN)

/-! ### Reductions (R152, R153) -/

/-- X[d] := the fold of an operation over the active elements, from its identity; inactive ones contribute the identity. -/
def State.vred (s : State) (d a : BitVec 5) (pm : BitVec 3) (e : BitVec 2) (start : Nat → Int) (f : Nat → Int → Nat → Int) :
    State :=
  let w := widthOf e
  s.vec [.v a] [.x d] fun c =>
    c.setX d (ofInt ((activeElems (c.p pm) w).foldl (fun acc i => f w acc (elem (c.v a) w i)) (start w)))

/-- VREDADD: the sum of the sign-extended elements (R152). -/
def execVredadd (d a : BitVec 5) (p : BitVec 3) (e : BitVec 2) (s : State) : Host.Outcome State Fault Refusal :=
  .next (s.vred d a p e (fun _ => 0) fun w acc x => acc + signed w x)

/-- VREDADDU: the sum of the zero-extended elements (R152). -/
def execVredaddu (d a : BitVec 5) (p : BitVec 3) (e : BitVec 2) (s : State) : Host.Outcome State Fault Refusal :=
  .next (s.vred d a p e (fun _ => 0) fun _ acc x => acc + x)

/-- VREDMIN (R152). -/
def execVredmin (d a : BitVec 5) (p : BitVec 3) (e : BitVec 2) (s : State) : Host.Outcome State Fault Refusal :=
  .next (s.vred d a p e (fun w => 2 ^ (w - 1) - 1) fun w acc x => min acc (signed w x))

/-- VREDMAX (R152). -/
def execVredmax (d a : BitVec 5) (p : BitVec 3) (e : BitVec 2) (s : State) : Host.Outcome State Fault Refusal :=
  .next (s.vred d a p e (fun w => -(2 ^ (w - 1))) fun w acc x => max acc (signed w x))

/-- VREDMINU (R152). -/
def execVredminu (d a : BitVec 5) (p : BitVec 3) (e : BitVec 2) (s : State) : Host.Outcome State Fault Refusal :=
  .next (s.vred d a p e (fun w => 2 ^ w - 1) fun _ acc x => min acc x)

/-- VREDMAXU (R152). -/
def execVredmaxu (d a : BitVec 5) (p : BitVec 3) (e : BitVec 2) (s : State) : Host.Outcome State Fault Refusal :=
  .next (s.vred d a p e (fun _ => 0) fun _ acc x => max acc x)

/-- One level of the lane tree: adjacent values added and rounded, the additions numbered from `m` (R153). -/
def addLevel (f : FloatFmt) (mode : RMode) (d : Nat → Nat) : Nat → List FVal → List FVal × Flags
  | m, x :: y :: rest =>
    let a := addV mode x y
    let r := roundF f mode false (d m) a.1
    let t := addLevel f mode d (m + 1) rest
    (r.1 :: t.1, a.2 ||| r.2 ||| t.2)
  | _, l => (l, 0)

/-- The lane tree over at most 2^fuel values. -/
def addTree (f : FloatFmt) (mode : RMode) (d : Nat → Nat) : Nat → Nat → List FVal → FVal × Flags
  | 0, _, l => (l.headD .nan, 0)
  | fuel + 1, m, l =>
    let r := addLevel f mode d m l
    let t := addTree f mode d fuel (m + l.length / 2) r.1
    (t.1, r.2 ||| t.2)

/-- VFREDADD: pairwise by lane, inactive elements contributing −0; in RSR CTR advances once (R153). -/
def execVfredadd (d a : BitVec 5) (r p : BitVec 3) (e : BitVec 2) (s : State) : Host.Outcome State Fault Refusal :=
  .next (s.vec [.v a] [.x d] fun c =>
    let w := widthOf e
    let f := fpOf e
    let vals := (upFrom 0 (512 / w)).map fun i =>
      if active (c.p p) w i then decodeF f (elem (c.v a) w i) else .fin true 0 0
    let t := addTree f (modeOf r) c.drawAt (512 / w).log2 0 vals
    ((c.setX d (toWord (encodeF f t.1))).orFlags t.2).drew (modeOf r) !(activeElems (c.p p) w).isEmpty)

/-- The extreme of the active elements under R101; inactive ones contribute NaN (R153). -/
def State.vfpick (s : State) (d a : BitVec 5) (pm : BitVec 3) (e : BitVec 2) (wantMax : Bool) : State :=
  let w := widthOf e
  s.vec [.v a] [.x d] fun c =>
    c.setX d (toWord (encodeF (fpOf e) ((activeElems (c.p pm) w).foldl
      (fun acc i => pickV wantMax acc (decodeF (fpOf e) (elem (c.v a) w i))) .nan)))

/-- VFREDMIN (R153). -/
def execVfredmin (d a : BitVec 5) (p : BitVec 3) (e : BitVec 2) (s : State) : Host.Outcome State Fault Refusal :=
  .next (s.vfpick d a p e false)

/-- VFREDMAX (R153). -/
def execVfredmax (d a : BitVec 5) (p : BitVec 3) (e : BitVec 2) (s : State) : Host.Outcome State Fault Refusal :=
  .next (s.vfpick d a p e true)

/-- VECTOR_QUEUE_SERVE: the engine takes the head of its queue, and a slot stalled on the queue runs again (R141).  The
register effects took place in issue order, when the instruction entered the queue (log entry 30). -/
def execVectorQueueServe (core : Nat) (s : State) : Host.Outcome State Fault Refusal :=
  .next (match (s.core core).vecQueue with
    | [] => s
    | _ :: rest => (s.onCore core fun k => { k with vecQueue := rest }).wake core .vector)

end Sys2Proof.Machine
end

