-- ==== Sys2Proof/Machine/Press.lean ====
section
/-! DEFINITION. The press: leases, press-port commands, weights, streams, drains, DLEAVE and status (R103 to R106, R243 to
R270). -/

namespace Sys2Proof.Machine

/-! ### Formats of the press (R246, R255, R256) -/

/-- Whether a format is a signed INT8. -/
def isInt8 (f : BitVec 32) : Bool := decide (fKind f = 0) && decide (fWidth f = 8)

/-- The rate of an operand format (R246). -/
def pressRate (f : BitVec 32) : Nat :=
  if fKind f = 6 then (if fWidth f = 4 then 4 else 2) else if fKind f = 0 then 2 else 1

/-- The power class of a rate. -/
def rateClass (r : Nat) : Nat := if r = 1 then 0 else if r = 2 then 1 else 2

/-- K of a latched B format (Table 10-8). -/
def pressK (fb : BitVec 32) : Nat :=
  if fKind fb = 6 then (if fWidth fb = 4 then 512 else 256) else if fKind fb = 0 then 256 else 128

/-- Whether an A format pairs with a latched B format (Table 10-8). -/
def pressPairs (fa fb : BitVec 32) : Bool :=
  if fKind fb = 5 ∨ fKind fb = 7 then decide (fKind fa = 5)
  else if fKind fb = 0 then isInt8 fa
  else decide (fKind fa = 6)

/-- Whether a format may stand as FMTB (R255). -/
def fmtbOk (f : BitVec 32) : Bool :=
  (decide (fKind f = 5) || decide (fKind f = 6) || decide (fKind f = 7) || isInt8 f)
    && (decide (fMx f = 0) || decide (fKind f = 6))

/-- The elements of a block of a format with scales (R103). -/
def mxBlock (f : BitVec 32) : Nat := if fMx f = 1 then 32 else 16

/-! ### C.LEASE (R244 to R250) -/

/-- CYC of a lease at a cycle. -/
def Lease.cycles (l : Lease) (now : Nat) : Nat := if l.held then min (now - l.cyc) 0x1FFFF else 0

/-- A core with lease parameters asks for the press when a command other than UNLEASE heads its queue and it holds none
(R249). -/
def Core.rerequest (k : Core) : Core :=
  let wants := match k.pressQueue with
    | c :: _ => decide (c.kind ≠ .unlease)
    | [] => false
  if k.lease.lv && !k.lease.held && wants then
    { k with lease := { k.lease with req := true } }
  else k

/-- The pending press fault: an instruction other than PSTAT raises it and clears it (R267). -/
def State.pressPending (s : State) (a : Agent) (f : State) : State :=
  let d := (s.ctx a).pressFault
  if d = 0 then f else (s.onCtx a fun c => { c with pressFault := 0 }).trap a Cause.engineFault d

/-- LEASE of an agent (R245). -/
def State.lease (s : State) (a : Agent) (word : IWord) (x : Word) : State :=
  s.pressPending a <|
  let l := (s.core (coreNo a)).lease
  let rows := wbits x 20 10
  let row0 := wbits x 9 0
  if l.held ∨ l.req then s.trap a Cause.leaseViolation x
  else if wbits x 63 23 ≠ 0 ∨ wbits x 22 21 = 3 ∨ rows = 0 ∨ 1024 < rows ∨ 1024 < row0 + rows then s.trap a Cause.format x
  else
    let s := s.onCore (coreNo a) fun k =>
      { k with lease := { k.lease with
          lv := true, req := true, pcls := wbits x 22 21, prio := (s.ctx a).sp.eprio % 8, rows := rows, row0 := row0 } }
    (s.record a { word := word, ops := [x] }).issued a

/-- LEASE (R245). -/
def execLease (a : BitVec 5) (s : State) : Host.Outcome State Fault Refusal :=
  .next (s.issue { srcs := [srcX0 a] } fun s => s.lease s.cur s.me.ctl.iword (s.me.x a))

/-! ### The press port (R12, R252) -/

/-- Whether a command is a press command. -/
def EngCmd.isPress : EngCmd → Bool
  | .press _ => true
  | _ => false

/-- The press commands of a core that have issued and are not yet in its queue, in issue order. -/
def State.pressUnplaced (s : State) (core : Nat) : List PressCmd :=
  let cs := (s.unplaced core EngCmd.isPress).filterMap fun c => match c with
    | .press p => some p
    | _ => none
  cs.foldl (fun acc p => (acc.filter fun q => decide (q.id < p.id)) ++ [p] ++ (acc.filter fun q => decide (p.id < q.id))) []

/-- Whether the press-port queue has a free entry for a command that issues now (R12). -/
def State.pressRoom (s : State) (core : Nat) : Bool :=
  decide ((s.core core).pressQueue.length + (s.pressUnplaced core).length < 2)

/-- The command that runs in the press for a core. -/
def State.pressRunning (s : State) (core : Nat) : Option PressCmd :=
  match (s.cluster (clusterOf core)).press.state with
  | .busy h c => if h = core then some c else none
  | _ => none

/-- The core's latched PLOADW block as it stands: that of its last PLOADW to issue, else the last performed (R252,
R253). -/
def State.latchedBlock (s : State) (core : Nat) : Option (List Word) :=
  let k := s.core core
  let cmds := (match s.pressRunning core with | some c => [c] | none => []) ++ k.pressQueue ++ s.pressUnplaced core
  match (cmds.filter fun c => decide (c.kind = .ploadw)).getLast? with
  | some c => some c.block
  | none => k.latched

/-- FMTB of a PLOADW block (Table 10-7), FMTA of a PSTREAM block (Table 10-9). -/
def blockFmt (w : List Word) : BitVec 32 := BitVec.ofNat 32 (wbits (w[1]?.getD 0) 63 32)

/-- A word of a block. -/
def blk (w : List Word) (i : Nat) : Word := w[i]?.getD 0

/-! ### Checks at issue (R253) -/

/-- A check of step 5 on bytes in cellar space: a role of the issuer's cluster, in one slice below 0x3_FF00. -/
def cellRun (role nroles : Nat) (r : Nat × Nat) : Option Failure :=
  let h := r.1 / 2 ^ 18
  failIf (decide (nroles ≤ h) || decide (h / 16 ≠ role / 16) || decide (Config.sliceTop < r.1 % 2 ^ 18 + r.2)) Cause.protect
    (toWord r.1)

/-- The footprint check of step 6 on bytes in cellar space. -/
def printRun (boxes : List (Nat × Nat)) (r : Nat × Nat) : Option Failure :=
  footprintCheck boxes (r.1 / 2 ^ 18) (r.1 % 2 ^ 18) r.2

/-- The check of step 7: a row outside the lease. -/
def rowsOutside (l : Lease) (rows : List Nat) : Option Failure :=
  (rows.find? fun r => !(decide (l.row0 ≤ r) && decide (r < l.row0 + l.rows))).map fun r =>
    (Cause.leaseViolation, toWord r)

/-- Contents of a PLOADW block (R255).  An FMTB that R94 accepts but whose kind or MX PLOADW does not is a refused value of the
block, so that C.FADDR is the block's cellar address: R94's last sentence, R253 step 4 and R255 leave open whether it is the
descriptor (log entry 109). -/
def ploadwFormat (w : List Word) (at_ : Word) : Option Failure :=
  let f := blockFmt w
  firstFailure
    [failIf (decide (2 ^ 30 ≤ (blk w 0).toNat) || decide (2 ^ 30 ≤ (blk w 2).toNat) || decide (2 ^ 30 ≤ (blk w 3).toNat)
        || (w.drop 4).any fun x => decide (x ≠ 0)) Cause.format at_,
     failIf (fmtBad f) Cause.format (f.setWidth 64),
     failIf (!fmtbOk f || (decide (blk w 2 ≠ 0) && decide (fMx f = 0) && decide (fKind f ≠ 7))
        || (decide (blk w 3 ≠ 0) && decide (fKind f ≠ 7))) Cause.format at_]

/-- The bytes that a PLOADW reads, each with its length (Table 10-7). -/
def ploadwReads (w : List Word) : List (Nat × Nat) :=
  let f := blockFmt w
  let k := pressK f
  (upFrom 0 k).map (fun i => ((blk w 0).toNat + i * wbits (blk w 1) 31 0, 16 * fWidth f))
    ++ (if fMx f ≠ 0 then (upFrom 0 (k / mxBlock f)).map fun b => ((blk w 2).toNat + 128 * b, 128) else [])
    ++ (if fKind f = 7 then (upFrom 0 4).flatMap fun g =>
      [((blk w 2).toNat + 256 * g, 256), ((blk w 3).toNat + 64 * g, 64)] else [])

/-- The fields of word 0x18 of a PSTREAM block: destination rows. -/
def psDcnt (w : List Word) : Nat := wbits (blk w 3) 47 37
/-- DROW. -/
def psDrow (w : List Word) : Nat := wbits (blk w 3) 36 27
/-- ANCH. -/
def psAnch (w : List Word) : Int := signed 11 (wbits (blk w 3) 26 16)
/-- AMODE. -/
def psAnchored (w : List Word) : Bool := (blk w 3).getLsbD 15
/-- INIT. -/
def psInit (w : List Word) : Bool := (blk w 3).getLsbD 14
/-- ASP. -/
def psFromRows (w : List Word) : Bool := (blk w 3).getLsbD 13
/-- IV. -/
def psIndexed (w : List Word) : Bool := (blk w 3).getLsbD 12
/-- M. -/
def psRows (w : List Word) : Nat := wbits (blk w 3) 11 0 + 1
/-- CV. -/
def psCounted (w : List Word) : Bool := (blk w 5).getLsbD 63
/-- The counter word's cellar address. -/
def psCounter (w : List Word) : Nat := wbits (blk w 5) 29 0 / 8 * 8

/-- Contents of a PSTREAM block (R257, R260). -/
def pstreamFormat (w : List Word) (at_ : Word) : Option Failure :=
  let f := blockFmt w
  firstFailure
    [failIf (decide (2 ^ 30 ≤ (blk w 0).toNat) || decide (2 ^ 30 ≤ (blk w 2).toNat) || decide (wbits (blk w 3) 63 48 ≠ 0)
        || decide (2 ^ 18 ≤ (blk w 4).toNat) || decide (wbits (blk w 5) 62 30 ≠ 0) || decide (blk w 6 ≠ 0)
        || decide (blk w 7 ≠ 0) || decide (psDcnt w = 0) || decide (1024 < psDrow w + psDcnt w)) Cause.format at_,
     failIf (fmtBad f) Cause.format (f.setWidth 64),
     failIf ((psFromRows w && (decide (1024 ≤ (blk w 0).toNat) || decide (wbits (blk w 1) 31 0 ≠ 0) || decide (fMx f ≠ 0)))
        || (decide (fMx f = 0) && decide (blk w 2 ≠ 0)) || (psIndexed w && decide ((blk w 4).toNat % 2 ≠ 0)))
        Cause.format at_]

/-- The bytes of A row `i` and of its scales. -/
def aRowReads (w : List Word) (k i : Nat) : List (Nat × Nat) :=
  let f := blockFmt w
  (if psFromRows w then [] else [((blk w 0).toNat + i * wbits (blk w 1) 31 0, (k * fWidth f + 7) / 8)])
    ++ (if fMx f = 0 then [] else [((blk w 2).toNat + i * (k / mxBlock f), k / mxBlock f)])

/-- The accumulator rows that A row `i` of an ASP 1 stream joins. -/
def aRowSources (w : List Word) (k i : Nat) : List Nat :=
  if psFromRows w then upFrom ((blk w 0).toNat + i * (k / 128)) (k / 128) else []

/-- Steps 5 to 7 for a PSTREAM whose latched weights have format `fb` (R253). -/
def State.pstreamPlaces (s : State) (a : Agent) (w : List Word) (fb : BitVec 32) : Option Failure :=
  let k := pressK fb
  let role := s.myRole a
  let n := s.nroles a
  let rows := if psIndexed w then [] else (upFrom 0 (psRows w)).flatMap (aRowReads w k)
  let ivec := if psIndexed w then [(role * 2 ^ 18 + (blk w 4).toNat, 2 * psRows w)] else []
  let ctr := if psCounted w then [(psCounter w, 8)] else []
  let sources := if psIndexed w then [] else (upFrom 0 (psRows w)).flatMap (aRowSources w k)
  firstFailure
    [(rows ++ ivec).findSome? (cellRun role n),
     ctr.findSome? fun r =>
      failIf (decide (n ≤ r.1 / 2 ^ 18) || decide (Config.sliceTop < r.1 % 2 ^ 18 + 8)) Cause.protect (toWord r.1),
     (rows ++ ivec ++ ctr).findSome? (printRun (s.boxes a)),
     rowsOutside (s.core (coreNo a)).lease (upFrom (psDrow w) (psDcnt w) ++ sources)]

/-- Steps 4 to 7 for a press command: `xa` is X[a], and `at_` the block's cellar address (R253); for a replayed command both
are the record's index (R322). -/
def State.pressCheck (s : State) (a : Agent) (kind : PressKind) (w : List Word) (xa at_ : Word) : Option Failure :=
  match kind with
  | .unlease => none
  | .ploadw =>
    firstFailure
      [ploadwFormat w at_,
       (ploadwReads w).findSome? (cellRun (s.myRole a) (s.nroles a)),
       (ploadwReads w).findSome? (printRun (s.boxes a))]
  | .pstream =>
    match pstreamFormat w at_ with
    | some f => some f
    | none =>
      match s.latchedBlock (coreNo a) with
      | none => some (Cause.format, xa)
      | some b =>
        if pressPairs (blockFmt w) (blockFmt b) then s.pstreamPlaces a w (blockFmt b) else some (Cause.format, xa)
  | .pdrain =>
    let x := blk w 0
    let n := wbits x 20 10
    let row := wbits x 9 0
    firstFailure
      [failIf (decide (wbits x 31 26 ≠ 0) || decide (4 < wbits x 24 22) || decide (n = 0) || decide (1024 < row + n))
        Cause.format x,
       rowsOutside (s.core (coreNo a)).lease (upFrom row n)]

/-! ### Issue (R250, R252, R253) -/

/-- Steps 1 and 2 of R253. -/
def State.pressReady (s : State) (a : Agent) (k : State) : State :=
  s.pressPending a <|
  if (s.core (coreNo a)).lease.lv then k else s.trap a Cause.leaseViolation 0

/-- The record of a press-port command (Table 13-6). -/
def pressRecord (kind : PressKind) (word : IWord) (w : List Word) (fb : Option (BitVec 32)) : Record :=
  match kind with
  | .ploadw => { word := word, ops := w, addrs := [⟨0, 0, 1, none, 64⟩, ⟨1, 2, 1, none, 64⟩, ⟨2, 3, 1, none, 64⟩] }
  | .pstream =>
    { word := word
      ops := w
      addrs := (if psFromRows w then [] else [(⟨0, 0, 1, none, 64⟩ : AddrWord)]) ++ [⟨1, 2, 1, none, 64⟩, ⟨2, 5, 1, none, 30⟩]
      fmtb := fb }
  | _ => { word := word, ops := w }

/-- A press-port command past steps 1 to 3: the other checks, its place in the queue, and what PDRAIN, and a PSTREAM of
accumulator rows that rounds in RSR, take from C.SEED (R99, R252, R253, R261; log entry 40). -/
def State.pressPort (s : State) (a : Agent) (word : IWord) (kind : PressKind) (w : List Word) (xa at_ : Word) : State :=
  match s.pressCheck a kind w xa at_ with
  | some (cause, f) => s.trap a cause f
  | none =>
    let core := coreNo a
    if !s.pressRoom core then s.awaitRoom a .press
    else
      let seed := (s.ctx a).sp.seed
      let c : PressCmd := ⟨s.nextId, kind, slotNo a, (s.ctx a).act.id, core, s.launchOf a, s.myRole a, s.nroles a, at_.toNat,
        w, s.boxes a, wbits seed 63 32, wbits seed 31 0, 0, [], false⟩
      let s := s.record a (pressRecord kind word w ((s.latchedBlock core).map blockFmt))
      let s := if kind = .pdrain ∧ wbits (blk w 0) 24 22 = 4 then s.onCtx a fun k => k.bumpCtr (wbits (blk w 0) 20 10) else s
      let s := if kind = .pstream ∧ psFromRows w ∧ fRm (blockFmt w) = 4 then s.onCtx a fun k => k.bumpCtr 1 else s
      ({ s with nextId := s.nextId + 1 }.enqueue a fun id =>
        ⟨id, false, true, .cellar, 0, .engine (.press c), none, none⟩).issued a

/-- An operand block of 64 bytes at an own-slice offset, checked and read (R253 step 3, R174, R294). -/
def State.withBlock (s : State) (a : Agent) (x : Word) (k : List Word → State) : State :=
  let check := firstFailure
    [failIf (decide (x.toNat % 64 ≠ 0) || decide (Config.sliceTop < x.toNat + 64)) Cause.protect x,
     footprintCheck (s.boxes a) (s.myRole a) x.toNat 64]
  match check with
  | some (cause, f) => s.trap a cause f
  | none => s.withOwn a x.toNat 64 fun bs => k (wordsOfBytes bs)

/-- A press-port command whose operand block lies at X[a]. -/
def State.pressBlock (s : State) (kind : PressKind) (a : BitVec 5) : State :=
  s.issue { srcs := [srcX0 a] } fun s =>
    let x := s.me.x a
    s.pressReady s.cur <| s.withBlock s.cur x fun w =>
      s.pressPort s.cur s.me.ctl.iword kind w x (toWord (s.ownCa s.cur x.toNat))

/-- UNLEASE (R250). -/
def execUnlease (s : State) : Host.Outcome State Fault Refusal :=
  .next (s.issue { } fun s => s.pressReady s.cur <| s.pressPort s.cur s.me.ctl.iword .unlease [] 0 0)

/-- PLOADW (R255). -/
def execPloadw (a : BitVec 5) (s : State) : Host.Outcome State Fault Refusal :=
  .next (s.pressBlock .ploadw a)

/-- PSTREAM (R257). -/
def execPstream (a : BitVec 5) (s : State) : Host.Outcome State Fault Refusal :=
  .next (s.pressBlock .pstream a)

/-- PDRAIN (R261). -/
def execPdrain (a : BitVec 5) (s : State) : Host.Outcome State Fault Refusal :=
  .next (s.issue { srcs := [srcX0 a] } fun s =>
    s.pressReady s.cur <| s.pressPort s.cur s.me.ctl.iword .pdrain [s.me.x a] (s.me.x a) (s.me.x a))

/-- A press record issued by an agent's sequencer, record `idx` of its tape; none where its words do not match its command
(R322). -/
def State.replayPress (s : State) (a : Agent) (word : IWord) (ops : List Word) (idx : Nat) : Option State :=
  let i := toWord idx
  let port := fun kind => some (s.pressReady a <| s.pressPort a word kind ops i i)
  match bits word.toNat 23 19 with
  | 0 => match ops with
    | [x] => some (s.lease a word x)
    | _ => none
  | 1 => if ops.length = 0 then port .unlease else none
  | 2 => if ops.length = 8 then port .ploadw else none
  | 3 => if ops.length = 8 then port .pstream else none
  | 4 => match ops with
    | [x] => some (s.pressReady a <| s.pressPort a word .pdrain [x] x x)
    | _ => none
  | _ => none

/-! ### Faults and the end of a lease (R248, R251, R267) -/

/-- A failed start or row check is recorded for the issuing slot, or in the group fault record when its activation has ended
(R267). -/
def State.pressDetail (s : State) (c : PressCmd) (cause addr : Nat) : State :=
  let a := Agent.slot c.core c.slot
  if (s.ctx a).act.id = c.act ∧ (s.ctx a).ctl.status ≠ .free then
    s.onCtx a fun k => { k with pressFault := detailWord cause addr }
  else s.recordDetail c.launch c.role (detailWord cause addr)

/-- A press changed. -/
def State.onPress (s : State) (cluster : Nat) (f : Press → Press) : State :=
  s.onCluster cluster fun cl => { cl with press := f cl.press }

/-- The cycles past 65,536 of a lease that ends are its tenant's debt (R248, R386). -/
def State.addDebt (s : State) (core : Nat) : State :=
  let cyc := (s.core core).lease.cycles s.now
  match (s.core core).binding with
  | some b =>
    match s.group? b.launch with
    | some g =>
      if 65536 < cyc then
        { s with dispatch := { s.dispatch with
            debt := s.dispatch.debt.put g.tenant (s.dispatch.debt.get g.tenant 0 + toWord (cyc - 65536)) } }
      else s
    | none => s
  | none => s

/-- A lease ends: its debt is added and the press is free; after UNLEASE the core's C.LEASE is zero and its block dropped, else its
parameters stay (R248 to R250, R386). -/
def State.endLease (s : State) (core : Nat) (unlease : Bool) : State :=
  ((s.addDebt core).onPress (clusterOf core) fun p => { p with state := .free }).onCore core fun k =>
    if unlease then { k with lease := Lease.none, latched := none }
    else ({ k with lease := { k.lease with held := false } }).rerequest

/-- A command has completed, or ended by a failed start check: the lease goes on, or ends (Table 10-6). -/
def State.pressDone (s : State) (core : Nat) : State :=
  let l := (s.core core).lease
  if 64 ≤ l.cmds ∨ 65536 ≤ l.cycles s.now then s.endLease core false
  else
    (s.onPress (clusterOf core) fun p => { p with state := .held core }).onCore core fun k =>
      { k with lease := { k.lease with idle := s.now } }

/-! ### Accumulator rows (R105, R106, R259) -/

/-- A row of a press. -/
def Press.row (p : Press) (r : Nat) : AccRow := p.rows.get r AccRow.zero

/-- A row with zero sums in a mode. -/
def AccRow.reset (r : AccRow) (anchored : Bool) (anchor : Int) : AccRow :=
  ⟨r.tag, anchored, if anchored then anchor else 0, Vector.replicate 128 0, 0, 0⟩

/-- A cell of a row. -/
def AccRow.cell (r : AccRow) (n : Nat) : BitVec 72 := r.cells[n]?.getD 0

/-- The start check of the row modes (R259). -/
def Press.modeBad (p : Press) (w : List Word) : Bool :=
  (psAnchored w && isInt8 (blockFmt w) && decide (psAnch w ≠ 0))
    || (!psInit w && (upFrom (psDrow w) (psDcnt w)).any fun i =>
      let r := p.row i
      (r.anchored != psAnchored w) || (psAnchored w && decide (r.anchor ≠ psAnch w)))

/-- The start checks of a command of a core (R254): the cause of the failure. -/
def State.startFails (s : State) (c : PressCmd) : Option Nat :=
  let p := (s.cluster (clusterOf c.core)).press
  let l := (s.core c.core).lease
  match c.kind with
  | .ploadw => if l.pcls < rateClass (pressRate (blockFmt c.block)) then some Cause.leaseViolation else none
  | .pstream =>
    let fa := blockFmt c.block
    match p.weights with
    | none => some Cause.format
    | some t =>
      if t.core ≠ c.core ∨ !l.wv ∨ !pressPairs fa t.fmtb then some Cause.format
      else if l.pcls < rateClass (min (pressRate fa) (pressRate t.fmtb)) then some Cause.leaseViolation
      else if p.modeBad c.block then some Cause.format
      else none
  | _ => none

/-- A command reaches the press: CMDS counts it, the start checks run, and it starts or ends without effect (R251, R254). An
ASP 1 stream works on the rows as they stand now (R260). -/
def State.pressStart (s : State) (c : PressCmd) : State :=
  let s := s.onCore c.core fun k => { k with lease := { k.lease with cmds := min 64 (k.lease.cmds + 1) } }
  match s.startFails c with
  | some cause => (s.pressDetail c cause c.addr).pressDone c.core
  | none => s.onPress (clusterOf c.core) fun p => { p with state := .busy c.core c, source := p.rows }

/-! ### What a running command reads (R123, R257, R281) -/

/-- The key under which a word that stream row `r` has read is latched. -/
def readKey (r word : Nat) : Nat := r * 2 ^ 28 + word

/-- The cellar word that stream row `r` reads: as latched, else as it stands; a poisoned word gives a free value (log entry
39). -/
def State.pressWord (s : State) (c : PressCmd) (r word : Nat) : Nat :=
  match c.latched.find? (readKey r word) with
  | some v => v.toNat
  | none =>
    match s.coreOf? c.launch (8 * word / 2 ^ 18) with
    | some k =>
      let off := 8 * word % 2 ^ 18
      if ((s.core k).slicePoison off 8).isSome then (Config.freeWord (s.fresh + readKey r word)).toNat
      else ((s.core k).sliceWord off).toNat
    | none => 0

/-- `w` bits at a bit address of cellar space, as stream row `r` reads them. -/
def State.pressBits (s : State) (c : PressCmd) (r bit w : Nat) : Nat :=
  (s.pressWord c r (bit / 64) + 2 ^ 64 * s.pressWord c r (bit / 64 + 1)) / 2 ^ (bit % 64) % 2 ^ w

/-- A value scaled by an E8M0 scale byte; 0xFF gives NaN (R103). -/
def scaled (scale : Nat) (x : FVal) : FVal :=
  if scale = 255 then .nan
  else
    match x with
    | .fin neg m e => .fin neg m (e + (scale : Int) - 127)
    | v => v

/-! ### Weights (R103, R104, R255) -/

/-- The weight that an I4G element expands to (R104). -/
def i4gWeight (q z c : Nat) : Nat :=
  encodeF bf16 (roundF bf16 .rne false 0 (mulV (intVal ((q : Int) - z)) (decodeF bf16 c)).1).1

/-- The tile that a PLOADW block names. -/
def State.loadTile (s : State) (c : PressCmd) : Weights :=
  let w := c.block
  let f := blockFmt w
  let k := pressK f
  let raw := fun i n => s.pressBits c 0 (8 * ((blk w 0).toNat + i * wbits (blk w 1) 31 0) + fWidth f * n) (fWidth f)
  let value := fun i n =>
    if fKind f = 7 then
      let e := 128 * (i / 32) + n
      i4gWeight (raw i n) (s.pressBits c 0 (8 * (blk w 3).toNat + 4 * e) 4) (s.pressBits c 0 (8 * ((blk w 2).toNat + 2 * e)) 16)
    else raw i n
  { core := c.core
    fmtb := f
    k := k
    bits := (upFrom 0 k).flatMap fun i => (upFrom 0 128).map fun n => BitVec.ofNat 16 (value i n)
    scales := if fMx f = 0 then []
      else (upFrom 0 (128 * (k / mxBlock f))).map fun j => BitVec.ofNat 8 (s.pressBits c 0 (8 * ((blk w 2).toNat + j)) 8) }

/-- W[k][n] of a tile. -/
def Weights.value (t : Weights) (k n : Nat) : FVal :=
  let b := (t.bits[128 * k + n]?.getD 0).toNat
  if fKind t.fmtb = 7 then decodeF bf16 b
  else
    let x := decodeNum (numFmt t.fmtb) b
    if fMx t.fmtb = 0 then x else scaled (t.scales[128 * (k / mxBlock t.fmtb) + n]?.getD 0).toNat x

/-! ### Streams (R105, R106, R257 to R260) -/

/-- Whether a value is a zero. -/
def FVal.isZero : FVal → Bool
  | .fin _ 0 _ => true
  | _ => false

/-- The sign of a value that has one. -/
def FVal.isNeg : FVal → Bool
  | .fin neg _ _ => neg
  | .inf neg => neg
  | .nan => false

/-- A product of the press: a zero element or weight contributes 0, whatever the other is (R257). -/
def pressProduct (x y : FVal) : FVal :=
  if x.isZero ∨ y.isZero then .fin (x.isNeg != y.isNeg) 0 0 else (mulV x y).1

/-- One sum of the K tree, rounded to FP64. -/
def sum64 (x y : FVal) : FVal := (roundF fp64 .rne false 0 (addV .rne x y).1).1

/-- One level of the K tree. -/
def pairSums : List FVal → List FVal
  | x :: y :: rest => sum64 x y :: pairSums rest
  | l => l

/-- The K tree of R105; `n` bounds its levels. -/
def kTree : Nat → List FVal → FVal
  | 0, l => l.headD (.fin false 0 0)
  | n + 1, l => if l.length ≤ 1 then l.headD (.fin false 0 0) else kTree n (pairSums l)

/-- A contribution to an anchored element: the sum and its flag (R106). -/
def contribute (anchor : Int) (acc : BitVec 72 × Bool) (p : FVal) : BitVec 72 × Bool :=
  match p with
  | .fin neg m e =>
    let q := (roundInt .rne 0 neg m (e - anchor)).1
    if q.natAbs < 2 ^ 63 then (acc.1 + BitVec.ofInt 72 q, acc.2) else (acc.1, true)
  | _ => (acc.1, true)

/-- A row once an A row of K elements has streamed past a tile into it. -/
def AccRow.accumulate (r : AccRow) (t : Weights) (a : List FVal) : AccRow :=
  let products := fun n => (a.zip (upFrom 0 a.length)).map fun p => pressProduct p.1 (t.value p.2 n)
  let cell := fun n =>
    if r.anchored then (products n).foldl (contribute r.anchor) (r.cell n, r.ovf.getLsbD n)
    else (BitVec.ofNat 72 (encodeF fp64 (sum64 (decodeF fp64 (r.cell n).toNat) (kTree 10 (products n)))), false)
  { r with
    cells := Vector.ofFn fun i : Fin 128 => (cell i).1
    ovf := (upFrom 0 128).foldl (fun o n => if (cell n).2 then o ||| (1#128 <<< n) else o) 0 }

/-- The value of a column of a row as an ASP 1 stream reads it (R260); an element lost to an error reads as NaN (R401). -/
def AccRow.value (r : AccRow) (n : Nat) : FVal :=
  if r.bad.getLsbD n then .nan
  else if r.anchored then
    match intVal (signed 64 (r.cell n).toNat) with
    | .fin neg m e => .fin neg m (e + r.anchor)
    | v => v
  else decodeF fp64 (r.cell n).toNat

/-- A value converted to an A format with its RM and SAT (R97, R98, R260). -/
def toElement (f : BitVec 32) (d : Nat) (x : FVal) : FVal :=
  let mode := (rmodeOf (fRm f)).getD .rne
  match numFmt f with
  | .int sgn w =>
    let (lo, hi) := intRange sgn w
    intVal (toInteger lo hi mode d x).1
  | .float g => (roundF g mode (fSat f) d x).1
  | _ => x

/-- The K elements of A row `i`, read for stream row `r`; an ASP 1 conversion in RSR draws from the KEY and the CTR that the stream
took from C.SEED, with a lane that R99 does not name and that is a free value (log entry 40). -/
def State.aElements (s : State) (c : PressCmd) (source : Press) (k r i : Nat) : List FVal :=
  let w := c.block
  let f := blockFmt w
  (upFrom 0 k).map fun e =>
    if psFromRows w then
      let row := source.source.get ((blk w 0).toNat + i * (k / 128) + e / 128) AccRow.zero
      toElement f (draw c.key c.ctr (Config.freeWord (s.fresh + 2 ^ 41 + r * 2 ^ 10 + e)).toNat) (row.value (e % 128))
    else
      let x := decodeNum (numFmt f) (s.pressBits c r (8 * ((blk w 0).toNat + i * wbits (blk w 1) 31 0) + e * fWidth f) (fWidth f))
      if fMx f = 0 then x
      else scaled (s.pressBits c r (8 * ((blk w 2).toNat + i * (k / mxBlock f) + e / mxBlock f)) 8) x

/-- The A row of stream row `r` (R257). -/
def State.aRow (s : State) (c : PressCmd) (r : Nat) : Nat :=
  if psIndexed c.block then s.pressBits c r (8 * (c.role * 2 ^ 18 + (blk c.block 4).toNat + 2 * r)) 16 else r

/-- The bytes that a running command reads for stream row `r`, those of a PLOADW for row 0; an indexed row is known once its index
has been read (R255, R257, R258). -/
def State.rowReads (s : State) (c : PressCmd) (r : Nat) : List (Nat × Nat) :=
  let w := c.block
  match c.kind, (s.cluster (clusterOf c.core)).press.weights with
  | .ploadw, _ => if r = 0 then ploadwReads w else []
  | .pstream, some t =>
    let at_ := c.role * 2 ^ 18 + (blk w 4).toNat + 2 * r
    if psRows w ≤ r then []
    else if !psIndexed w then aRowReads w t.k r
    else (at_, 2) :: (if (c.latched.find? (readKey r (at_ / 8))).isSome then aRowReads w t.k (s.aRow c r) else [])
  | _, _ => []

/-- Whether stream row `r` of a command has begun. -/
def PressCmd.begun (c : PressCmd) (r : Nat) : Bool := c.latched.any fun p => decide (p.1 / 2 ^ 28 = r)

/-- Whether stream row `r` of a command may read a word: one that it reads, not read yet, once the row before it has begun
(R281). -/
def State.rowMayRead (s : State) (c : PressCmd) (r word : Nat) : Bool :=
  (c.latched.find? (readKey r word)).isNone && decide (word < 2 ^ 27) && (decide (r = 0) || c.begun (r - 1))
    && (s.rowReads c r).any fun q => decide (8 * word < q.1 + q.2) && decide (q.1 < 8 * word + 8)

/-- Whether a core of a group has stopped and waits to be quarantined: what the press reads for the group's other cores waits (R19). -/
def State.launchMoves (s : State) (launch : Nat) : Bool :=
  match s.group? launch with
  | some g => g.cores.any s.failing
  | none => false

/-- GRANULE-BYTE of a press command: stream row `r` reads a word of cellar space before the command completes (R281). -/
def State.pressRead (s : State) (cluster id r word : Nat) : State :=
  match (s.cluster cluster).press.state with
  | .busy core c =>
    if c.id = id ∧ s.rowMayRead c r word ∧ !s.launchMoves c.launch then
      let v := toWord (s.pressWord c r word)
      { s.onPress cluster fun p =>
        { p with state := .busy core { c with latched := c.latched.put (readKey r word) v } } with
        fresh := s.fresh + 2 ^ 42 }
    else s
  | _ => s

/-- The row check of an indexed stream (R258): the cause and the first refused address. -/
def rowCheck (c : PressCmd) (l : Lease) (k i : Nat) : Option Failure :=
  if psIndexed c.block then
    firstFailure
      [(aRowReads c.block k i).findSome? (cellRun c.role c.nroles),
       (aRowReads c.block k i).findSome? (printRun c.boxes),
       rowsOutside l (aRowSources c.block k i)]
  else none

/-- The rows of a stream accumulated in order, up to a row that is refused (R257, R258). -/
def State.streamRows (s : State) (c : PressCmd) (t : Weights) (l : Lease) : List Nat → Press → Press × Option Failure
  | [], p => (p, none)
  | r :: rs, p =>
    let i := s.aRow c r
    match rowCheck c l t.k i with
    | some f => (p, some f)
    | none =>
      let dr := psDrow c.block + r % psDcnt c.block
      s.streamRows c t l rs { p with rows := p.rows.put dr ((p.row dr).accumulate t (s.aElements c p t.k r i)) }

/-- The destination rows given their mode first (R259). -/
def Press.initRows (p : Press) (w : List Word) : Press :=
  if psInit w then
    let reset := fun (t : Table Nat AccRow) i => t.put i ((p.row i).reset (psAnchored w) (psAnch w))
    { p with rows := (upFrom (psDrow w) (psDcnt w)).foldl reset p.rows }
  else p

/-- The effect of a PSTREAM, with its counter add after the last row (R257, R268). -/
def State.streamEffect (s : State) (c : PressCmd) : State :=
  let cl := clusterOf c.core
  let p := (s.cluster cl).press
  match p.weights with
  | none => s
  | some t =>
    let (p', failed) := s.streamRows c t (s.core c.core).lease (upFrom 0 (psRows c.block)) (p.initRows c.block)
    let s := { s.onPress cl fun _ => p' with fresh := s.fresh + 2 ^ 42 }
    match failed with
    | some (cause, f) => s.pressDetail c cause f.toNat
    | none =>
      if psCounted c.block then
        match s.coreOf? c.launch (psCounter c.block / 2 ^ 18) with
        | some home =>
          s.onCore home fun k =>
            let off := psCounter c.block % 2 ^ 18
            k.sliceStore off (wordToBytes (k.sliceWord off + toWord (psRows c.block)))
        | none => s
      else s

/-- The effect of a PLOADW: the tile and FMTB latched together; the other cores of the cluster hold no tile (R248,
R255). -/
def State.loadEffect (s : State) (c : PressCmd) : State :=
  let cl := clusterOf c.core
  let t := s.loadTile c
  let s := { s.onPress cl fun p => { p with weights := some t } with fresh := s.fresh + 2 ^ 42 }
  let s := (upFrom (17 * cl) 17).foldl (fun s k => s.onCore k fun c => { c with lease := { c.lease with wv := false } }) s
  s.onCore c.core fun k => { k with lease := { k.lease with wv := true }, latched := some c.block, loader := (c.addr, c.slot, c.act) }

/-! ### Drains (R261, R262) -/

/-- The deliveries of a drain: rows in ascending order with their halves. -/
def Press.deliveries (p : Press) (x : Word) : List (Nat × Nat) :=
  (upFrom (wbits x 9 0) (wbits x 20 10)).flatMap fun r => if (p.row r).anchored then [(r, 0), (r, 1)] else [(r, 0)]

/-- A row read by a drain in float mode: V24 to V31, and the flags (R261). -/
def AccRow.drainFloat (r : AccRow) (x : Word) (key ctr : Nat) : List VReg × Flags :=
  let mode := (rmodeOf (wbits x 24 22)).getD .rne
  let one := fun n => roundF fp32 mode (x.getLsbD 25) (draw key ctr n) (r.value n)
  ((upFrom 0 8).map fun j => BitVec.ofNat 512 (packElems 32 (fun e => encodeF fp32 (one (16 * j + e)).1) 16),
   (upFrom 0 128).foldl (fun f n => f ||| (one n).2) 0)

/-- OVF of a column as a drain takes it (R106, R401). -/
def AccRow.overflows (r : AccRow) (n : Nat) : Bool :=
  r.bad.getLsbD n || r.ovf.getLsbD n || decide ((r.cell n).toInt < -(2 ^ 63)) || decide (2 ^ 63 - 1 < (r.cell n).toInt)

/-- Half of an anchored row: V24 to V31, and OVFM. -/
def AccRow.drainHalf (r : AccRow) (half : Nat) : List VReg × Word :=
  let a := fun m => if r.bad.getLsbD (64 * half + m) then 0 else (r.cell (64 * half + m)).toNat % 2 ^ 64
  ((upFrom 0 8).map fun j => BitVec.ofNat 512 (packElems 64 (fun e => a (8 * j + e)) 8),
   toWord ((upFrom 0 64).foldl (fun n m => n + b2n (r.overflows (64 * half + m)) * 2 ^ m) 0))

/-- The row after a drain: OVF is as the drain took it, and with CLR its last delivery clears it (R106, R261). -/
def AccRow.drained (r : AccRow) (half : Nat) (clear : Bool) : AccRow :=
  if clear ∧ (!r.anchored ∨ half = 1) then r.reset r.anchored r.anchor
  else if r.anchored then
    { r with ovf := (upFrom (64 * half) 64).foldl (fun o n => if r.overflows n then o ||| (1#128 <<< n) else o) r.ovf }
  else r

/-- The payload of a drain notice (Table 10-11). -/
def noticePayload (x : Word) (r : AccRow) (row half : Nat) (fl : Flags) (ovfm : Word) : List Byte :=
  wordToBytes (toWord (wbits x 63 32 * 2 ^ 32 + fl.toNat * 2 ^ 23 + (if r.anchored then wrap 11 r.anchor else 0) * 2 ^ 12
    + b2n r.anchored * 2 ^ 11 + half * 2 ^ 10 + row)) ++ wordToBytes ovfm

/-- The lowest free entry of a drain buffer. -/
def Core.freeDrain (k : Core) : Option Nat :=
  (upFrom 0 16).find? fun i => (k.drain.find? i).isNone

/-- Whether a notice of a role waits at its full mailbox, so that the press holds (R262). -/
def State.noticeWaits (s : State) (core launch role : Nat) : Bool :=
  let h := (s.core core).handlers.get 0 Handler.zero
  h.mv && decide (2 ^ h.mlog ≤ h.count) && s.mesh.any fun m => decide (m.launch = launch) && decide (m.dst = role) && m.drain.isSome

/-- A delivery of the running drain: an entry taken and a notice sent. -/
def State.deliver (s : State) (cluster core : Nat) (c : PressCmd) : State :=
  let p := (s.cluster cluster).press
  let x := blk c.block 0
  match (p.deliveries x)[c.next]?, (s.core core).freeDrain with
  | some (row, half), some e =>
    if s.noticeWaits core c.launch c.role then s
    else
      let r := p.row row
      let ctr := (c.ctr + (row - wbits x 9 0)) % 2 ^ 32
      let (vs, fl) := if r.anchored then ((r.drainHalf half).1, 0) else r.drainFloat x c.key ctr
      let ovfm := if r.anchored then (r.drainHalf half).2 else 0
      let m : MeshMsg := ⟨s.nextId, c.launch, c.role, ⟨2, 16, c.role, 0, 0, noticePayload x r row half fl ovfm⟩, some e⟩
      let s := s.onPress cluster fun p =>
        { p with
          state := .busy core { c with next := c.next + 1 }
          rows := p.rows.put row (r.drained half (x.getLsbD 21)) }
      { s.onCore core fun k => { k with drain := k.drain.put e vs } with nextId := s.nextId + 1, mesh := s.mesh ++ [m] }
  | _, _ => s

/-- DRAIN_DELIVERY (R262). -/
def execDrainDelivery (cluster : Nat) (s : State) : Host.Outcome State Fault Refusal :=
  .next (match (s.cluster cluster).press.state with
    | .busy core c => if c.kind = .pdrain then s.deliver cluster core c else s
    | _ => s)

/-! ### The press's transitions (Table 10-6) -/

/-- The distance of core `i` of a cluster after the last grantee. -/
def afterLast (last i : Nat) : Nat := (i + 17 - last - 1) % 17

/-- The requesting core that the arbiter chooses (R247). -/
def State.chooseCore (s : State) (cluster : Nat) : Option Nat :=
  let last := (s.cluster cluster).press.last
  ((upFrom 0 17).filter fun i => (s.core (17 * cluster + i)).lease.req).foldl (fun (best : Option Nat) i =>
    match best with
    | none => some i
    | some b =>
      let pi := (s.core (17 * cluster + i)).lease.prio
      let pb := (s.core (17 * cluster + b)).lease.prio
      if pb < pi ∨ (pb = pi ∧ afterLast last i < afterLast last b) then some i else some b) none

/-- LEASE_ARBITRATION (R247). -/
def execLeaseArbitration (cluster : Nat) (s : State) : Host.Outcome State Fault Refusal :=
  .next (match (s.cluster cluster).press.state, s.chooseCore cluster with
    | .free, some i => s.onPress cluster fun p => { p with state := .asking (17 * cluster + i) }
    | _, _ => s)

/-- The rows of a lease granted to a group: those of other contexts are made zero and tagged (R24, R247). -/
def Press.grantRows (p : Press) (l : Lease) (launch : Nat) : Press :=
  { p with
    rows := (upFrom l.row0 l.rows).foldl (fun t r =>
      if (p.row r).tag = some launch then t else t.put r ⟨some launch, false, 0, Vector.replicate 128 0, 0, 0⟩) p.rows }

/-- The command that reloads a core's latched block (R247); a start check that it fails is recorded as one of the PLOADW that latched
the block (R254, R267). -/
def reloadCmd (s : State) (core : Nat) (b : Binding) (w : List Word) : PressCmd :=
  let l := (s.core core).loader
  ⟨s.nextId, .ploadw, l.2.1, l.2.2, core, b.launch, b.role, b.nroles, l.1, w, [], 0, 0, 0, [], true⟩

/-- A grant (R247). -/
def State.grantLease (s : State) (cluster core : Nat) (b : Binding) : State :=
  let k := s.core core
  let s := s.onPress cluster fun p => { (p.grantRows k.lease b.launch) with state := .held core, last := core % 17 }
  let s := s.onCore core fun k =>
    { k with lease := { k.lease with held := true, req := false, cmds := 0, cyc := s.now, idle := s.now } }
  match k.latched with
  | some w =>
    if k.lease.wv then s else { s with nextId := s.nextId + 1 }.pressStart (reloadCmd s core b w)
  | none => s

/-- LEAVE_GIVEN (R247); a request withdrawn meanwhile leaves the press free (R250). -/
def execLeaveGiven (cluster : Nat) (s : State) : Host.Outcome State Fault Refusal :=
  .next (match (s.cluster cluster).press.state with
    | .asking core =>
      match (s.core core).lease.req, (s.core core).binding with
      | true, some b => s.grantLease cluster core b
      | _, _ => s.onPress cluster fun p => { p with state := .free }
    | _ => s)

/-- PRESS_COMMAND_START (R251, R254); the press holds while a notice waits at a full mailbox (R262). -/
def execPressCommandStart (cluster : Nat) (s : State) : Host.Outcome State Fault Refusal :=
  .next (match (s.cluster cluster).press.state with
    | .held core =>
      match (s.core core).pressQueue with
      | c :: rest =>
        if c.kind = .unlease ∨ 65536 ≤ (s.core core).lease.cycles s.now ∨ s.noticeWaits core c.launch c.role then s
        else ((s.onCore core fun k => { k with pressQueue := rest }).wake core .press).pressStart c
      | [] => s
    | _ => s)

/-- The started load or stream of a core that is killed, or quarantined, has its effect (R269, R402). -/
def State.finishPress (s : State) (core : Nat) : State :=
  match s.pressRunning core with
  | some c =>
    match c.kind with
    | .ploadw => s.loadEffect c
    | .pstream => s.streamEffect c
    | _ => s
  | none => s

/-- PRESS_COMMAND_COMPLETE (R251): a load or a stream has its effect; a drain ends once its last delivery has taken an
entry. -/
def execPressCommandComplete (cluster : Nat) (s : State) : Host.Outcome State Fault Refusal :=
  .next (match (s.cluster cluster).press.state with
    | .busy core c =>
      match c.kind with
      | .ploadw => if s.launchMoves c.launch then s else (s.loadEffect c).pressDone core
      | .pstream => if s.launchMoves c.launch then s else (s.streamEffect c).pressDone core
      | _ =>
        if ((s.cluster cluster).press.deliveries (blk c.block 0)).length ≤ c.next then s.pressDone core else s
    | _ => s)

/-- UNLEASE_ACT (R250): the head UNLEASE of a core ends the lease that it holds, or clears C.LEASE at once. -/
def execUnleaseAct (core : Nat) (s : State) : Host.Outcome State Fault Refusal :=
  .next (match (s.core core).pressQueue with
    | c :: rest =>
      if c.kind ≠ .unlease ∨ (s.pressRunning core).isSome then s
      else
        let s := (s.onCore core fun k => { k with pressQueue := rest }).wake core .press
        if (s.core core).lease.held then s.endLease core true
        else s.onCore core fun k => { k with lease := Lease.none, latched := none }
    | [] => s)

/-- LEASE_CYCLE_LIMIT (R248). -/
def execLeaseCycleLimit (cluster : Nat) (s : State) : Host.Outcome State Fault Refusal :=
  .next (match (s.cluster cluster).press.state with
    | .held core => if 65536 ≤ (s.core core).lease.cycles s.now then s.endLease core false else s
    | _ => s)

/-- Whether another core of the cluster has a request waiting. -/
def State.otherAsks (s : State) (cluster core : Nat) : Bool :=
  (upFrom (17 * cluster) 17).any fun k => decide (k ≠ core) && (s.core k).lease.req

/-- LEASE_IDLE_END (R248). -/
def execLeaseIdleEnd (cluster : Nat) (s : State) : Host.Outcome State Fault Refusal :=
  .next (match (s.cluster cluster).press.state with
    | .held core =>
      if (s.core core).pressQueue = [] ∧ 1024 ≤ s.now - (s.core core).lease.idle ∧ s.otherAsks cluster core then
        s.endLease core false
      else s
    | _ => s)

/-- A role marked done acts as if UNLEASE were queued behind its press-port commands, those that have not reached the queue
included (R250). -/
def State.queueUnlease (s : State) (core : Nat) : State :=
  if (s.core core).lease.lv then
    let launch := s.launchOf (.slot core 0)
    let c : PressCmd := ⟨s.nextId, .unlease, 0, 0, core, launch, s.roleOf core, 0, 0, [], [], 0, 0, 0, [], false⟩
    { s with nextId := s.nextId + 1 }.enqueue (.slot core 0) fun id =>
      ⟨id, false, true, .cellar, 0, .engine (.press c), none, none⟩
  else s

/-- Whether every press command of a core that has issued has completed (R269). -/
def State.pressIdle (s : State) (core : Nat) : Bool :=
  (s.core core).pressQueue.isEmpty && (s.pressUnplaced core).isEmpty && (s.pressRunning core).isNone

/-! ### DLEAVE (R103, R264) -/

/-- The exponent of the largest power of two that is a normal value of an element format (R103); a format without normal
values has none, and takes the open one (log entry 41). -/
def emaxOf (f : BitVec 32) (open_ : Word) : Int :=
  match numFmt f with
  | .float g =>
    let top := match g.svp with
      | 0 => 2 ^ g.eb - 2
      | 1 => if g.m = 0 then 2 ^ g.eb - 2 else 2 ^ g.eb - 1
      | _ => 2 ^ g.eb - 1
    if top = 0 then open_.toInt else (top : Int) - g.bias
  | _ => 6

/-- An element converted from a real value, with its flags (R264): an integer destination always saturates; with MX a
signed INT8 is clamped to −127 to 127 and a float saturates (R103). -/
def leaveElem (f : BitVec 32) (mx : Bool) (d : Nat) (x : FVal) : Nat × Flags :=
  let mode := (rmodeOf (fRm f)).getD .rne
  match numFmt f with
  | .int sgn w =>
    let (lo, hi) := intRange sgn w
    let r := toInteger (if mx then -127 else lo) hi mode d x
    (wrap w r.1, r.2)
  | .float g =>
    let r := roundF g mode (fSat f || mx) d x
    (encodeF g r.1, r.2)
  | _ => (0, 0)

/-- |x| as a number of units of 2^q. -/
def magnitude (q : Int) (x : FVal) : Nat :=
  match x with
  | .fin _ m e => inUnits m e q
  | _ => 0

/-- floor(log2) of the largest magnitude of finite values, none where all are zero. -/
def topExponent (xs : List FVal) : Option Int :=
  xs.foldl (fun (best : Option Int) x =>
    match x with
    | .fin _ m e => if m = 0 then best else some (match best with | some b => max b (e + m.log2) | none => e + m.log2)
    | _ => best) none

/-- The scale byte and the elements of a block of values, with the flags (R103). -/
def mxConvert (f : BitVec 32) (emax : Int) (draws : List Nat) (xs : List FVal) : Nat × List Nat × Flags :=
  if xs.any FVal.special then (255, xs.map fun _ => 0, 0)
  else
    let sc : Int := match topExponent xs with
      | none => -127
      | some t => clamp (t - emax) (-127) 127
    let es := (xs.zip draws).map fun p => leaveElem f true p.2 (match p.1 with | .fin neg m e => .fin neg m (e - sc) | v => v)
    ((sc + 127).toNat, es.map Prod.fst, es.foldl (fun fl e => fl ||| e.2) 0)

/-- A list cut into blocks of `n`; `fuel` bounds their number. -/
def blocksOf {α : Type} (n : Nat) : Nat → List α → List (List α)
  | 0, _ => []
  | fuel + 1, l => if l.length = 0 then [] else l.take n :: blocksOf n fuel (l.drop n)

/-- The row in V24 to V31 as one number. -/
def Ctx.drainedRow (c : Ctx) : Nat :=
  (upFrom 0 8).foldl (fun n j => n + (c.v (BitVec.ofNat 5 (24 + j))).toNat * 2 ^ (512 * j)) 0

/-- The values of the row under a source format; an INT64 element is taken by the anchor (R264). -/
def Ctx.rowValues (c : Ctx) (src : BitVec 32) (anchor : Int) : List FVal :=
  let row := c.drainedRow
  if fKind src = 3 then (upFrom 0 128).map fun i => decodeF fp32 (row / 2 ^ (32 * i) % 2 ^ 32)
  else (upFrom 0 64).map fun i => match intVal (signed 64 (row / 2 ^ (64 * i))) with
    | .fin neg m e => .fin neg m (e + anchor)
    | v => v

/-- Elements packed from bit 0 on, as bytes (R88). -/
def packBytes (w : Nat) (es : List Nat) : List Byte :=
  toBytes ((es.length * w + 7) / 8) ((es.zip (upFrom 0 es.length)).foldl (fun n p => n + p.1 % 2 ^ w * 2 ^ (w * p.2)) 0)

/-- The element bytes, the scale bytes and the flags of a DLEAVE. -/
def Ctx.leaveBytes (c : Ctx) (src dst : BitVec 32) (anchor emax : Int) : List Byte × List Byte × Flags :=
  let xs := c.rowValues src anchor
  let draws := (upFrom 0 xs.length).map c.drawAt
  if fMx dst = 0 then
    let es := (xs.zip draws).map fun p => leaveElem dst false p.2 p.1
    (packBytes (fWidth dst) (es.map Prod.fst), [], es.foldl (fun fl e => fl ||| e.2) 0)
  else
    let n := mxBlock dst
    let bs := ((blocksOf n 8 xs).zip (blocksOf n 8 draws)).map fun p => mxConvert dst emax p.2 p.1
    (packBytes (fWidth dst) (bs.flatMap fun b => b.2.1), bs.map fun b => BitVec.ofNat 8 b.1, bs.foldl (fun fl b => fl ||| b.2.2) 0)

/-- The descriptor checks of DLEAVE (R264). -/
def dleaveFmtBad (src dst : BitVec 32) : Option Failure :=
  firstFailure
    [failIf (fmtBad src || !(decide (fKind src = 3) || (decide (fKind src = 0) && decide (fWidth src = 64)))
        || decide (fMx src ≠ 0)) Cause.format (src.setWidth 64),
     failIf (fmtBad dst || decide (fKind dst = 7) || decide (fKind dst = 8)) Cause.format (dst.setWidth 64)]

/-- The two stores of a DLEAVE to cellar addresses, which take their place in the vector engine's queue once they are checked
(R12). -/
def State.leaveCellar (s : State) (x y : Word) (es sc : List Byte) (k : State → State) : State :=
  let check := firstFailure
    [s.checkCellar s.cur x es.length, if sc.isEmpty then none else s.checkCellar s.cur y sc.length]
  match check with
  | some (cause, f) => s.trap s.cur cause f
  | none =>
    let store := fun (s : State) (ca : Word) (bs : List Byte) =>
      if bs.isEmpty then s
      else s.enqueue s.cur fun id =>
        ⟨id, false, false, .cellar, ca.toNat, .store (s.caLoc s.cur ca.toNat) bs none false, none, none⟩
    s.vecEnter fun s => k (store (store s x es) y sc)

/-- The parts of a DLEAVE's stores to global memory, translated and checked together; none for no bytes. -/
def State.leaveParts (s : State) (y : Word) (sc : List Byte) (k : List Part → State) : State :=
  if sc.isEmpty then k [] else s.withParts s.cur y.toNat sc.length .store k

/-- The two stores of a DLEAVE to global addresses; an atomic task buffers them.  Each part obeys its own page's kind (R25,
Table 7-3). -/
def State.leaveGlobal (s : State) (x y : Word) (es sc : List Byte) (k : State → State) : State :=
  s.withParts s.cur x.toNat es.length .store fun ps =>
    s.leaveParts y sc fun qs =>
      if s.atomic s.cur then
        let used := storeUse es.length + (if sc.isEmpty then 0 else storeUse sc.length)
        let effects := [.store x.toNat es none false] ++ (if sc.isEmpty then [] else [.store y.toNat sc none false])
        if (s.ctx s.cur).act.used + used ≤ 4096 then s.vecEnter fun s => s.buffer s.cur used x effects k
        else s.buffer s.cur used x effects k
      else
        s.vecEnter fun s =>
          let s := s.useParts s.cur .store (ps ++ qs)
          k ((s.storeParts s.cur false false none false ps es).storeParts s.cur false false none false qs sc)

/-- DLEAVE (R264): it takes a place in the vector engine's queue, and abandons a recording (R315). -/
def execDleave (n : BitVec 5) (k : BitVec 3) (g : BitVec 1) (s : State) : Host.Outcome State Fault Refusal :=
  let fmts := fun (s : State) => (s.me.fmt (k.setWidth 4 <<< 1), s.me.fmt ((k.setWidth 4 <<< 1) ||| 1))
  let wide := fun (s : State) => decide (fKind (fmts s).1 = 0) && decide (fWidth (fmts s).1 = 64)
  let mx := fun (s : State) => decide (fMx (fmts s).2 ≠ 0)
  .next (s.issue { srcs := (upFrom 24 8).map (fun j => srcV (BitVec.ofNat 5 j)) ++ [srcX0 n]
                      ++ (if mx s then [srcX0 (regPlus n 1)] else []) ++ (if wide s then [srcX0 (regPlus n 2)] else []) } fun s =>
    s.pressPending s.cur <|
    let (src, dst) := fmts s
    let x := s.me.x n
    let al := s.me.x (regPlus n 2)
    match firstFailure
        [dleaveFmtBad src dst,
         failIf (wide s && (decide (al.toInt < -1024) || decide (1023 < al.toInt))) Cause.protect al] with
    | some (cause, f) => s.trap s.cur cause f
    | none =>
      let (w, s) := s.freeWord
      let (es, sc, fl) := s.me.leaveBytes src dst (if wide s then al.toInt else 0) (emaxOf dst w)
      let done := fun (s : State) =>
        (s.notRecordable s.cur).finish fun c => (c.orFlags fl).drew ((rmodeOf (fRm dst)).getD .rne) true
      if g = 1 then s.leaveGlobal x (s.me.x (regPlus n 1)) es sc done
      else s.leaveCellar x (s.me.x (regPlus n 1)) es sc done)

/-! ### PSTAT (R265) -/

/-- The role of the press's holder. -/
def State.holderRole (s : State) (cluster : Nat) : Nat :=
  match (s.cluster cluster).press.state with
  | .held core => s.roleOf core
  | .busy core _ => s.roleOf core
  | _ => 0

/-- The press state word for a core; a command that has issued holds an entry of the queue (R12, R265). -/
def State.pressStateWord (s : State) (core : Nat) : Word :=
  let code := match (s.cluster (clusterOf core)).press.state with
    | .free => 0
    | .asking _ => 1
    | .held _ => 2
    | .busy _ _ => 3
  let queued := (s.core core).pressQueue.length + (s.unplaced core EngCmd.isPress).length
  toWord (min 3 queued * 2 ^ 16 + s.holderRole (clusterOf core) % 4096 * 2 ^ 4 + code)

/-- The state of a row for a group. -/
def Press.rowWord (p : Press) (launch row : Nat) : Word :=
  let r := p.row row
  toWord (b2n (decide (r.tag = some launch)) * 2 ^ 12 + b2n r.anchored * 2 ^ 11 + wrap 11 r.anchor)

/-- PSTAT sel 0. -/
def execPstatState (d : BitVec 5) (s : State) : Host.Outcome State Fault Refusal :=
  .next (s.issue { dsts := [.x d] } fun s => s.askStatus d (s.pressStateWord (coreNo s.cur)))

/-- PSTAT sel 1: the pending press fault, which stays pending (R267). -/
def execPstatFault (d : BitVec 5) (s : State) : Host.Outcome State Fault Refusal :=
  .next (s.issue { dsts := [.x d] } fun s => s.askStatus d s.me.pressFault)

/-- PSTAT sel 2. -/
def execPstatRow (d b : BitVec 5) (s : State) : Host.Outcome State Fault Refusal :=
  .next (s.issue { srcs := [srcX0 b], dsts := [.x d] } fun s =>
    s.askStatus d ((s.cluster (agentCluster s.cur)).press.rowWord (s.launchOf s.cur) ((s.me.x b).toNat % 1024)))

end Sys2Proof.Machine
end

