-- ==== Sys2Proof/Machine/Trellis.lean ====
section
/-! DEFINITION. The Trellis: configuration, binning, updates, pair streams and status (R289 to R310). -/

namespace Sys2Proof.Machine

/-! ### The configuration block (Table 12-2) -/

/-- An FP32 pattern as an integer of units of 2^−149; none for NaN and infinities. -/
def fx32 (b : Nat) : Option Int :=
  match decodeF fp32 (b % 2 ^ 32) with
  | .fin neg m e => some (if neg then -((m * 2 ^ (e + 149).toNat : Nat) : Int) else ((m * 2 ^ (e + 149).toNat : Nat) : Int))
  | _ => none

/-- The low half of a block word. -/
def lowHalf (w : List Word) (i : Nat) : Nat := wbits (blk w i) 31 0

/-- The high half of a block word. -/
def highHalf (w : List Word) (i : Nat) : Nat := wbits (blk w i) 63 32

/-- The eight FP32 fields of a block: O0, O1, O2, RCUT, H0, H1, H2 and SKIN. -/
def cfgFields (w : List Word) : List Nat :=
  [lowHalf w 0, highHalf w 0, lowHalf w 1, highHalf w 1, lowHalf w 2, highHalf w 2, lowHalf w 3, highHalf w 3]

/-- Field `i` of a block as an integer of units of 2^−149. -/
def cfgVal (w : List Word) (i : Nat) : Int := (fx32 ((cfgFields w)[i]?.getD 0)).getD 0

/-- O of a dimension. -/
def cfgO (w : List Word) (t : Nat) : Int := cfgVal w t
/-- H of a dimension. -/
def cfgH (w : List Word) (t : Nat) : Int := cfgVal w (4 + t)
/-- RCUT. -/
def cfgRcut (w : List Word) : Int := cfgVal w 3
/-- SKIN. -/
def cfgSkin (w : List Word) : Int := cfgVal w 7
/-- NC of a dimension. -/
def cfgNc (w : List Word) (t : Nat) : Nat := wbits (blk w 4) (16 * t + 12) (16 * t)
/-- The periodic bit of a dimension. -/
def cfgPer (w : List Word) (t : Nat) : Bool := (blk w 4).getLsbD (48 + t)
/-- WSP: whether the work area lies in cellar space. -/
def cfgCellar (w : List Word) : Bool := (blk w 4).getLsbD 56
/-- WORK. -/
def cfgWork (w : List Word) : Nat := (blk w 5).toNat
/-- L of a dimension (R290). -/
def cfgL (w : List Word) (t : Nat) : Int := (cfgNc w t : Int) * cfgH w t
/-- Whether a block's reserved bits are not all zero. -/
def cfgReserved (w : List Word) : Bool :=
  decide (wbits (blk w 4) 63 57 ≠ 0) || decide (wbits (blk w 4) 55 51 ≠ 0) || decide (wbits (blk w 4) 47 45 ≠ 0)
    || decide (wbits (blk w 4) 31 29 ≠ 0) || decide (wbits (blk w 4) 15 13 ≠ 0) || decide (blk w 6 ≠ 0) || decide (blk w 7 ≠ 0)

/-- Whether R294 refuses a block's contents. -/
def cfgBad (w : List Word) (nroles : Nat) : Bool :=
  let work := cfgWork w
  cfgReserved w || (cfgFields w).any (fun b => (fx32 b).isNone) || decide (cfgRcut w ≤ 0) || decide (cfgSkin w < 0)
    || [0, 1, 2].any (fun t => decide (cfgH w t < cfgRcut w + cfgSkin w) || decide (cfgNc w t = 0)
      || (cfgPer w t && decide (cfgNc w t < 3)))
    || decide (4096 < cfgNc w 0 * cfgNc w 1 * cfgNc w 2) || decide (work % 32 ≠ 0)
    || (if cfgCellar w then decide (2 ^ 30 ≤ work) || decide (nroles ≤ work / 2 ^ 18) else decide (2 ^ 56 ≤ work))

/-! ### The grid (R290, R291) -/

/-- The cell of a position (R290). -/
def cellOf (w : List Word) (p : List Int) : Nat :=
  [0, 1, 2].foldl (fun idx t =>
    let u := ((p[t]?.getD 0) - cfgO w t) / cfgH w t
    let nc : Int := cfgNc w t
    let c := if cfgPer w t then u % nc else min (max u 0) (nc - 1)
    idx * cfgNc w t + c.toNat) 0

/-- MinImage (R291). -/
def minImage (w : List Word) (t : Nat) (d : Int) : Int :=
  if cfgPer w t then d - (2 * d + cfgL w t) / (2 * cfgL w t) * cfgL w t else d

/-! ### Issue (R293, R294, R297, R300) -/

/-- Whether a command is a Trellis command. -/
def EngCmd.isTrel : EngCmd → Bool
  | .trel _ => true
  | _ => false

/-- The small cores of a cluster. -/
def coresOf (cluster : Nat) : List Nat := upFrom (17 * cluster) 17

/-- Whether the Trellis queue of a cluster has a free entry for a command that issues now. -/
def State.trelRoom (s : State) (cluster : Nat) : Bool :=
  let unplaced := ((coresOf cluster).map fun k => (s.unplaced k EngCmd.isTrel).length).foldl (· + ·) 0
  decide ((s.cluster cluster).trellis.queue.length + unplaced < 16)

/-- The pending Trellis fault: an instruction other than TRSTAT raises it and clears it (R306). -/
def State.trelPending (s : State) (a : Agent) (f : State) : State :=
  let d := (s.ctx a).trelFault
  if d = 0 then f else (s.onCtx a fun c => { c with trelFault := 0 }).trap a Cause.engineFault d

/-- A Trellis command of an agent with what it names. -/
def trelCmd (s : State) (a : Agent) (kind : TrelKind) (qnum addr : Nat) (block : List Word) (q : Region) (d : Desc)
    (lt : List Nat) (ctrl : Word) : TrelCmd :=
  ⟨s.nextId, kind, slotNo a, (s.ctx a).act.id, coreNo a, s.launchOf a, s.myRole a, s.nroles a, s.asidOf (coreNo a), qnum,
    addr, block, q, d, lt, ctrl, s.boxes a, s.now, 0⟩

/-- A list without its immediate repetitions. -/
def dedup : List Int → List Int
  | x :: y :: l => if x = y then dedup (y :: l) else x :: dedup (y :: l)
  | l => l

/-- The rows of a particle region in walk order (R219, R297). -/
def TrelCmd.rows (c : TrelCmd) : List Int :=
  dedup ((c.region.walk (c.desc.ext.headD 0) c.lt).map fun cell => cell.headD 0)

/-- The byte address of particle record `r`. -/
def TrelCmd.recordAt (c : TrelCmd) (r : Int) : Int := c.desc.cellBit c.role [r, 0] / 8

/-- The particle records as runs. -/
def TrelCmd.recordRuns (c : TrelCmd) : List Run := c.rows.map fun r => (c.desc.global, c.recordAt r, 16)

/-- The record of a Trellis command (Table 13-6); TRCFG's WORK is taken to span its first record (log entry 42). -/
def TrelCmd.tapeRecord (c : TrelCmd) (word : IWord) : Record :=
  let img := c.region.recordWords
  match c.kind with
  | .trcfg =>
    { word := word
      ops := c.block
      addrs := [⟨0, 5, b2n (cfgCellar c.block), if cfgCellar c.block then none else some (cfgWork c.block, 32), 64⟩] }
  | .trpairs => { word := word, ops := img ++ [c.ctrl], descs := [(c.region.didx, c.desc)] }
  | .trrel => { word := word, ops := [] }
  | _ =>
    { word := word
      ops := img ++ [toWord c.desc.base]
      addrs := if c.desc.space = 2 then []
        else [⟨0, img.length, c.desc.space, if c.desc.global then globalSpan c.recordRuns else none, 64⟩]
      descs := [(c.region.didx, c.desc)] }

/-- A command past its issue checks waits for a queue entry, is recorded, enters the queue, and holds its slot (R293, R315). -/
def State.trelEnter (s : State) (a : Agent) (c : TrelCmd) : State :=
  if !s.trelRoom (agentCluster a) then s.awaitRoom a .trellis
  else
    let s := s.record a (c.tapeRecord (s.ctx a).ctl.iword)
    ({ s with nextId := s.nextId + 1 }.enqueue a fun id =>
      ⟨id, false, true, .cellar, 0, .engine (.trel c), none, none⟩).heldBy a c.id

/-- TRCFG of an agent with its block; `at_` is the block's cellar address, or the index of a replayed record (R294,
R322). -/
def State.trcfg (s : State) (a : Agent) (w : List Word) (at_ : Word) : State :=
  if cfgBad w (s.nroles a) then s.trap a Cause.format at_
  else s.trelEnter a (trelCmd s a .trcfg 0 at_.toNat w Region.zero Desc.none [] 0)

/-- TRCFG (R294). -/
def execTrcfg (a : BitVec 5) (s : State) : Host.Outcome State Fault Refusal :=
  .next (s.issue { srcs := [srcX0 a] } fun s =>
    let x := s.me.x a
    s.trelPending s.cur <| s.withBlock s.cur x fun w => s.trcfg s.cur w (toWord (s.ownCa s.cur x.toNat)))

/-- TRREL of an agent (R295). -/
def State.trrel (s : State) (a : Agent) : State :=
  s.trelPending a <| s.trelEnter a (trelCmd s a .trrel 0 0 [] Region.zero Desc.none [] 0)

/-- TRREL (R295). -/
def execTrrel (s : State) : Host.Outcome State Fault Refusal :=
  .next (s.issue { } fun s => s.trrel s.cur)

/-- The footprint check of a run of cellar bytes (R31). -/
def printRuns (boxes : List (Nat × Nat)) (r : Run) : Option Failure :=
  if r.1 || decide (r.2.1 < 0) then none
  else (sliceCuts (r.2.2 / 2 ^ 18 + 2) r.2.1.toNat r.2.2).findSome? (printRun boxes)

/-- Whether the boxes of a region are dense with [0, 4) in dimension 1; a RAGGED region is no list of dense boxes (R196). -/
def recordForm (q : Region) : Bool :=
  !q.strided && !q.ragged && q.boxes.all fun b =>
    match b with
    | [_, d] => decide (d.lo = 0) && decide (d.hi = 4) && decide (d.step = 1)
    | _ => false

/-- TRBIN or TRUPD of an agent on a region: the checks at issue (R212, R297). -/
def State.trbin (s : State) (a : Agent) (kind : TrelKind) (na : Nat) (q : Region) (base : Option Word) : State :=
  s.trelPending a <| s.withDescAs a q.didx base fun d =>
  let at_ := toWord (0x100 + na)
  if d.rank ≠ q.rank ∨ q.rank ≠ 2 ∨ d.width ≠ 32 ∨ !recordForm q then s.trap a Cause.format at_
  else
    let lt := []
    let c := trelCmd s a kind na 0 [] q d lt 0
    let n := c.rows.length
    let check := firstFailure
      [failIf q.isOver Cause.regionOver (toWord na),
       failIf (q.outside d lt) Cause.protect at_,
       failIf (decide (n = 0) || decide (65536 < n)) Cause.format at_,
       c.recordRuns.findSome? (printRuns (s.boxes a))]
    match check with
    | some (cause, f) => s.trap a cause f
    | none => s.trelEnter a c

/-- TRBIN (R297). -/
def execTrbin (a : BitVec 4) (s : State) : Host.Outcome State Fault Refusal :=
  .next (s.issue { } fun s => s.trbin s.cur .trbin a.toNat (s.me.q a) none)

/-- TRUPD (R297). -/
def execTrupd (a : BitVec 4) (s : State) : Host.Outcome State Fault Refusal :=
  .next (s.issue { } fun s => s.trbin s.cur .trupd a.toNat (s.me.q a) none)

/-- The receivers that MASK names, ascending (Table 12-4). -/
def pairReceivers (role : Nat) (ctrl : Word) : List Nat :=
  ((upFrom 0 16).filter ctrl.getLsbD).map fun j => role / 16 * 16 + j

/-- TRPAIRS of an agent: the checks at issue, those of R212 first (R300). -/
def State.trpairs (s : State) (a : Agent) (na : Nat) (q : Region) (ctrl : Word) : State :=
  s.trelPending a <| s.withDesc a q.didx fun d =>
  let at_ := toWord (0x100 + na)
  if d.rank ≠ q.rank then s.trap a Cause.format at_
  else if q.ragged ∧ !d.ltv then s.trap a Cause.format (toWord d.addr)
  else s.withTable a q d fun lt =>
    let check := firstFailure
      [failIf (q.outside d lt) Cause.protect at_,
       failIf (decide (d.rank ≠ 3)) Cause.format at_,
       failIf q.isOver Cause.regionOver (toWord na),
       failIf (decide (wbits ctrl 31 17 ≠ 0)) Cause.format ctrl,
       failIf (decide (wbits ctrl 15 0 = 0) || (pairReceivers (s.myRole a) ctrl).any fun r => decide (s.nroles a ≤ r))
         Cause.protect ctrl]
    match check with
    | some (cause, f) => s.trap a cause f
    | none => s.trelEnter a (trelCmd s a .trpairs na 0 [] q d lt ctrl)

/-- TRPAIRS (R300). -/
def execTrpairs (a : BitVec 4) (n : BitVec 5) (s : State) : Host.Outcome State Fault Refusal :=
  .next (s.issue { srcs := [srcX0 n] } fun s => s.trpairs s.cur a.toNat (s.me.q a) (s.me.x n))

/-- A Trellis record issued by an agent's sequencer, record `idx` of its tape; none where its words do not match its command
(R322). -/
def State.replayTrel (s : State) (a : Agent) (word : IWord) (ops : List Word) (idx : Nat) : Option State :=
  let na := bits word.toNat 18 15
  match bits word.toNat 23 19 with
  | 0 => if ops.length = 8 then some (s.trelPending a <| s.trcfg a ops (toWord idx)) else none
  | 1 => match readImage ops with
    | some (q, [base]) => some (s.trbin a .trbin na q (some base))
    | _ => none
  | 2 => match readImage ops with
    | some (q, [base]) => some (s.trbin a .trupd na q (some base))
    | _ => none
  | 3 => match readImage ops with
    | some (q, [ctrl]) => some (s.trpairs a na q ctrl)
    | _ => none
  | 5 => if ops.length = 0 then some (s.trrel a) else none
  | _ => none

/-! ### How a queued command ends (R293, R315, R322) -/

/-- The agent that issued a Trellis command. -/
def TrelCmd.agent (c : TrelCmd) : Agent := .slot c.core c.slot

/-- Whether the activation that issued a command still waits for it. -/
def State.trelWaits (s : State) (c : TrelCmd) : Bool :=
  decide ((s.ctx c.agent).act.id = c.act) && decide ((s.ctx c.agent).ctl.hold = some (.command c.id))

/-- The head command leaves the queue. -/
def State.trelPop (s : State) (cluster : Nat) : State :=
  (coresOf cluster).foldl (fun s k => s.wake k .trellis)
    (s.onCluster cluster fun cl => { cl with trellis := { cl.trellis with queue := cl.trellis.queue.drop 1 } })

/-- The head command has been performed, or started: its slot goes on (R293). -/
def State.trelDone (s : State) (cluster : Nat) (c : TrelCmd) : State :=
  let s := s.trelPop cluster
  if s.trelWaits c then s.issued c.agent else s

/-- The head command fails a check of the engine: it traps at its instruction and has no effect (R293). -/
def State.trelFail (s : State) (cluster : Nat) (c : TrelCmd) (cause : Nat) (f : Word) : State :=
  let s := s.trelPop cluster
  if s.trelWaits c then (s.unrecord c.agent).trap c.agent cause f else s

/-- The head command of the Trellis queue when it may be performed: no stream runs. -/
def Trellis.head (t : Trellis) : Option TrelCmd :=
  match t.stream with
  | some _ => none
  | none => t.queue.head?

/-- A Trellis changed. -/
def State.onTrellis (s : State) (cluster : Nat) (f : Trellis → Trellis) : State :=
  s.onCluster cluster fun cl => { cl with trellis := f cl.trellis }

/-- The Trellis of a cluster. -/
def State.trellis (s : State) (cluster : Nat) : Trellis := (s.cluster cluster).trellis

/-- TRCFG_PERFORM (R295). -/
def execTrcfgPerform (cluster : Nat) (s : State) : Host.Outcome State Fault Refusal :=
  .next (match (s.trellis cluster).head with
    | some c =>
      if c.kind ≠ .trcfg then s
      else
        match (s.trellis cluster).owner with
        | some l =>
          if l ≠ c.launch then s.trelFail cluster c Cause.protect 0
          else (s.onTrellis cluster fun t => { t with state := .empty, block := c.block, npart := 0, bins := [] }).trelDone cluster c
        | none =>
          (s.onTrellis cluster fun t =>
            { t with state := .empty, owner := some c.launch, block := c.block, npart := 0, bins := [] }).trelDone cluster c
    | none => s)

/-- A Trellis without configuration, bins and owner (R295). -/
def Trellis.freed (t : Trellis) : Trellis :=
  { t with state := .free, owner := none, block := [], npart := 0, bins := [] }

/-- TRREL_PERFORM (R295). -/
def execTrrelPerform (cluster : Nat) (s : State) : Host.Outcome State Fault Refusal :=
  .next (match (s.trellis cluster).head with
    | some c =>
      if c.kind ≠ .trrel then s
      else
        (s.onTrellis cluster fun t => if t.owner = some c.launch then t.freed else t).trelDone cluster c
    | none => s)

/-! ### Binning and updating (R296 to R299) -/

/-- The miss entry of a Trellis command's access (Table 19-2). -/
def TrelCmd.missFor (c : TrelCmd) (va : Nat) (kind : AccessKind) : MissWait :=
  ⟨missKind kind, va, c.asid, hwidOf c.core, 3, c.role, some c.id⟩

/-- The pages that TRBIN or TRUPD needs: those of the records, and those of the work area (R297). -/
def TrelCmd.needs (c : TrelCmd) (w : List Word) : List (Int × AccessKind) :=
  let work : List Run := [(!cfgCellar w, cfgWork w, 32 * c.rows.length)]
  runPages .load c.recordRuns ++ (if c.kind = .trupd then runPages .load work else []) ++ runPages .store work

/-- Bytes that a Trellis command reads through its pages. -/
def State.trelBytes (s : State) (c : TrelCmd) (ps : Table Nat (Word × Word)) (glob : Bool) (at_ : Int) (n : Nat) : List Byte :=
  (upFrom 0 n).map fun (i : Nat) => (s.readLoc (s.unitLoc c.launch ps glob (at_ + i))).getD 0

/-- The first poisoned byte among bytes that a Trellis command reads. -/
def State.trelPoison (s : State) (c : TrelCmd) (ps : Table Nat (Word × Word)) (glob : Bool) (at_ : Int) (n : Nat) :
    Option Word :=
  ((upFrom 0 n).find? fun (i : Nat) => (s.poisonAt (s.unitLoc c.launch ps glob (at_ + i)) 1).isSome).map fun (i : Nat) =>
    ofInt (at_ + i)

/-- Whether a cellar record runs past 0x3_FF00 of its slice, or names a role that the group has not (R297). -/
def cellarBad (nroles : Nat) (at_ : Int) (n : Nat) : Bool :=
  decide (at_ < 0) || decide ((nroles : Int) ≤ at_ / 2 ^ 18) || decide ((Config.sliceTop : Int) < at_ % 2 ^ 18 + n)

/-- Three FP32 patterns from a byte on, as integers of units of 2^−149; none where one is NaN or infinite. -/
def triple (bs : List Byte) : Option (List Int) :=
  match fx32 (fromBytes (bs.take 4)), fx32 (fromBytes ((bs.drop 4).take 4)), fx32 (fromBytes ((bs.drop 8).take 4)) with
  | some x, some y, some z => some [x, y, z]
  | _, _, _ => none

/-- The address of work record `i`. -/
def workAt (w : List Word) (i : Nat) : Int := ((cfgWork w + 32 * i : Nat) : Int)

/-- The checks of TRBIN and TRUPD at the engine after translation, in order (R297, R299). -/
def State.trelCheck (s : State) (c : TrelCmd) (w : List Word) (ps : Table Nat (Word × Word)) : Option Failure :=
  let recs := c.rows.map c.recordAt
  let g := c.desc.global
  let n := recs.length
  let works := (upFrom 0 n).map (workAt w)
  let cellar := fun (bad : Bool) (at_ : Int) => failIf bad Cause.protect (ofInt at_)
  let refs := if c.kind = .trupd then works.findSome? (fun at_ => s.trelPoison c ps (!cfgCellar w) (at_ + 16) 12) else none
  firstFailure
    [recs.findSome? fun at_ => if g then none else cellar (cellarBad c.nroles at_ 16) at_,
     works.findSome? fun at_ => if cfgCellar w then cellar (cellarBad c.nroles at_ 32) at_ else none,
     (recs.findSome? fun at_ => s.trelPoison c ps g at_ 16).map fun f => (Cause.poison, f),
     refs.map fun f => (Cause.poison, f),
     recs.findSome? fun at_ => failIf (triple (s.trelBytes c ps g at_ 12)).isNone Cause.format (ofInt at_),
     if cfgCellar w then printRuns c.boxes (false, cfgWork w, 32 * n) else none]

/-- The cells of the particles of a TRBIN. -/
def State.cellsOfRecords (s : State) (c : TrelCmd) (w : List Word) (ps : Table Nat (Word × Word)) : List Nat :=
  c.rows.map fun r => cellOf w ((triple (s.trelBytes c ps c.desc.global (c.recordAt r) 12)).getD [])

/-- The lowest cell that receives more than 32 particles, and how many it receives. -/
def overfull (cells : List Nat) : Option (Nat × Nat) :=
  let isOver := cells.filter fun k => decide (32 < (cells.filter (· = k)).length)
  match isOver with
  | [] => none
  | k :: ks =>
    let low := ks.foldl min k
    some (low, (cells.filter (· = low)).length)

/-- The bins of particles by their cells, each cell's slots in index order (R298). -/
def binsOf (cells : List Nat) : Table Nat (List Nat) :=
  (cells.zip (upFrom 0 cells.length)).foldl (fun (t : Table Nat (List Nat)) p => t.put p.1 (t.get p.1 [] ++ [p.2])) []

/-- Bytes written to work record `i`. -/
def State.writeWork (s : State) (c : TrelCmd) (w : List Word) (ps : Table Nat (Word × Word)) (i : Nat) (bs : List Byte) :
    State :=
  s.storeBytes (s.unitLoc c.launch ps (!cfgCellar w) (workAt w i)) bs

/-- Whether a command waits for the translation of a page. -/
def State.trelMisses (s : State) (cluster : Nat) (c : TrelCmd) (page : Nat) : Bool :=
  match s.unitPages none cluster c.asid (c.needs (s.trellis cluster).block) [] with
  | .miss va _ => decide (va / 2 ^ 16 = page)
  | _ => false

/-- The effect of a TRBIN (R298). -/
def State.binEffect (s : State) (cluster : Nat) (c : TrelCmd) (w : List Word) (ps : Table Nat (Word × Word)) : State :=
  let cells := s.cellsOfRecords c w ps
  match overfull cells with
  | some (k, n) => s.trelFail cluster c Cause.trellisOverflow (toWord (k * 2 ^ 32 + n))
  | none =>
    let datas := c.rows.map fun r => s.trelBytes c ps c.desc.global (c.recordAt r) 16
    let s := ((datas.zip cells).zip (upFrom 0 cells.length)).foldl (fun s p =>
      s.writeWork c w ps p.2 (p.1.1 ++ p.1.1.take 12 ++ toBytes 4 p.1.2)) s
    (s.onTrellis cluster fun t => { t with state := .binned, npart := cells.length, bins := binsOf cells }).trelDone cluster c

/-- Whether a particle has moved by more than half the skin from its reference, or its reference is not finite (R299). -/
def movedFar (w : List Word) (new : List Int) (ref : Option (List Int)) : Bool :=
  match ref with
  | none => true
  | some r =>
    let d := fun t => minImage w t ((new[t]?.getD 0) - (r[t]?.getD 0))
    decide (cfgSkin w * cfgSkin w < 4 * (d 0 * d 0 + d 1 * d 1 + d 2 * d 2))

/-- The effect of a TRUPD (R299). -/
def State.updateEffect (s : State) (cluster : Nat) (c : TrelCmd) (w : List Word) (ps : Table Nat (Word × Word)) : State :=
  let datas := c.rows.map fun r => s.trelBytes c ps c.desc.global (c.recordAt r) 12
  let idx := upFrom 0 datas.length
  let stale := (datas.zip idx).any fun p =>
    movedFar w ((triple p.1).getD []) (triple (s.trelBytes c ps (!cfgCellar w) (workAt w p.2 + 16) 12))
  let s := (datas.zip idx).foldl (fun s p => s.writeWork c w ps p.2 p.1) s
  (s.onTrellis cluster fun t => if stale then { t with state := .stale } else t).trelDone cluster c

/-- TRBIN or TRUPD at the engine: the owner, for TRUPD the state and the count, the pages, the other checks, and the effect;
a page that misses keeps the command waiting, as does a slice whose role moves to another core, and a refused page traps (R19, R297,
R299). -/
def State.trelPerform (s : State) (cluster : Nat) (c : TrelCmd)
    (effect : State → List Word → Table Nat (Word × Word) → State) : State :=
  let t := s.trellis cluster
  let w := t.block
  if t.owner ≠ some c.launch then s.trelFail cluster c Cause.protect 0
  else if c.kind = .trupd ∧ t.state = .empty then s.trelFail cluster c Cause.trellisStale 0
  else if c.kind = .trupd ∧ c.rows.length ≠ t.npart then s.trelFail cluster c Cause.format (toWord (0x100 + c.qnum))
  else
    match s.unitPages none cluster c.asid (c.needs w) [] with
    | .miss va kind =>
      match (s.ctx c.agent).refusalOf va with
      | some cause => s.trelFail cluster c cause (toWord va)
      | none => s.askMiss cluster (c.missFor va kind)
    | .held => s
    | .refused va => s.trelFail cluster c Cause.protect (toWord va)
    | .ok ps =>
      if s.runsMove c.launch ((!cfgCellar w, cfgWork w, 32 * c.rows.length) :: c.recordRuns) then s
      else match s.trelCheck c w ps with
      | some (cause, f) => s.trelFail cluster c cause f
      | none => effect (s.countPages none cluster (c.missFor 0 .load) ps) w ps

/-- TRBIN_PERFORM (R298). -/
def execTrbinPerform (cluster : Nat) (s : State) : Host.Outcome State Fault Refusal :=
  .next (match (s.trellis cluster).head with
    | some c => if c.kind = .trbin then s.trelPerform cluster c fun s => s.binEffect cluster c else s
    | none => s)

/-- TRUPD_PERFORM (R299). -/
def execTrupdPerform (cluster : Nat) (s : State) : Host.Outcome State Fault Refusal :=
  .next (match (s.trellis cluster).head with
    | some c => if c.kind = .trupd then s.trelPerform cluster c fun s => s.updateEffect cluster c else s
    | none => s)

/-! ### Status (R305) -/

/-- The code of a Trellis state (R305). -/
def trelCode : TrelState → Nat
  | .free => 0
  | .empty => 1
  | .binned => 2
  | .stale => 3

/-- The Trellis state word for a group. -/
def Trellis.word (t : Trellis) (launch : Nat) : Word :=
  let own := decide (t.owner = some launch)
  let largest := t.bins.foldl (fun n b => max n b.2.length) 0
  toWord (trelCode t.state + b2n t.stream.isSome * 2 ^ 3 + b2n own * 2 ^ 4
    + (if own then t.npart * 2 ^ 16 + largest % 64 * 2 ^ 40 else 0))

/-- The count of a cell for a group; a group that is not the owner reads zero. -/
def Trellis.cellCount (t : Trellis) (launch cell : Nat) : Word :=
  if t.owner = some launch then toWord (t.bins.get cell []).length else 0

/-- TRSTAT sel 0. -/
def execTrstatState (d : BitVec 5) (s : State) : Host.Outcome State Fault Refusal :=
  .next (s.issue { dsts := [.x d] } fun s => s.askStatus d ((s.cluster (agentCluster s.cur)).trellis.word (s.launchOf s.cur)))

/-- TRSTAT sel 1: the pending Trellis fault, which stays pending (R306). -/
def execTrstatFault (d : BitVec 5) (s : State) : Host.Outcome State Fault Refusal :=
  .next (s.issue { dsts := [.x d] } fun s => s.askStatus d s.me.trelFault)

/-- TRSTAT sel 2. -/
def execTrstatCell (d b : BitVec 5) (s : State) : Host.Outcome State Fault Refusal :=
  .next (s.issue { srcs := [srcX0 b], dsts := [.x d] } fun s =>
    s.askStatus d ((s.cluster (agentCluster s.cur)).trellis.cellCount (s.launchOf s.cur) ((s.me.x b).toNat % 4096)))

/-! ### Streaming pairs (R300 to R303, R306) -/

/-- TRPAIRS_START (R300); one that a resume routine has issued again goes on with the end messages that its stream has not sent
(R309). -/
def execTrpairsStart (cluster : Nat) (s : State) : Host.Outcome State Fault Refusal :=
  .next (match (s.trellis cluster).head with
    | some c =>
      let t := s.trellis cluster
      if c.kind ≠ .trpairs then s
      else if t.owner ≠ some c.launch then s.trelFail cluster c Cause.protect 0
      else if c.desc.ext ≠ [cfgNc t.block 0, cfgNc t.block 1, cfgNc t.block 2] then
        s.trelFail cluster c Cause.format (toWord (0x100 + c.qnum))
      else if t.state ≠ .binned then s.trelFail cluster c Cause.trellisStale (t.word c.launch)
      else
        let n := (pairReceivers c.role c.ctrl).length
        (s.onTrellis cluster fun t =>
          { t with stream := some ⟨c, 0, 0, [], List.replicate n 0, c.ends, none⟩ }).trelDone cluster c
    | none => s)

/-- The 27 offsets in offset order (R301). -/
def offsets27 : List (Int × Int × Int) :=
  [-1, 0, 1].flatMap fun x => [-1, 0, 1].flatMap fun y => [-1, 0, 1].map fun z => (x, y, z)

/-- A coordinate of a neighbour cell: wrapped where periodic, none outside the grid. -/
def neighbourAt (w : List Word) (t : Nat) (c : Int) : Option Nat :=
  let nc : Int := cfgNc w t
  if cfgPer w t then some (c % nc).toNat else if 0 ≤ c ∧ c < nc then some c.toNat else none

/-- The neighbour of a cell at an offset. -/
def neighbour (w : List Word) (cell : Nat) (e : Int × Int × Int) : Option Nat :=
  let ny := cfgNc w 1
  let nz := cfgNc w 2
  match neighbourAt w 0 ((cell / (ny * nz) : Nat) + e.1), neighbourAt w 1 ((cell / nz % ny : Nat) + e.2.1),
    neighbourAt w 2 ((cell % nz : Nat) + e.2.2) with
  | some x, some y, some z => some ((x * ny + y) * nz + z)
  | _, _, _ => none

/-- The number of a grid cell. -/
def gridIndex (w : List Word) (cell : List Int) : Nat :=
  let at_ := fun (t : Nat) => (cell[t]?.getD 0).toNat
  (at_ 0 * cfgNc w 1 + at_ 1) * cfgNc w 2 + at_ 2

/-- The i-cells of a stream, ascending. -/
def Trellis.iCells (t : Trellis) (c : TrelCmd) : List Nat :=
  ((c.region.walk (c.desc.ext.headD 0) c.lt).map (gridIndex t.block)).foldl (fun acc k => insertNat k acc) []

/-- The pairs that a stream tests, in order (R301). -/
def Trellis.candidates (t : Trellis) (c : TrelCmd) : List (Nat × Nat) :=
  let full := c.ctrl.getLsbD 16
  (t.iCells c).flatMap fun k => offsets27.flatMap fun e =>
    match neighbour t.block k e with
    | none => []
    | some k' =>
      (t.bins.get k []).flatMap fun i => (t.bins.get k' []).filterMap fun j =>
        if i ≠ j ∧ (full ∨ i < j) then some (i, j) else none

/-- What reading a live position gives: the position and the pages it went through, a miss, an access that waits, or the cause and address
that end the stream. -/
inductive Position where
  | at_ (p : List Int) (ps : Table Nat (Word × Word))
  | miss (va : Nat)
  | waits
  | ends (cause addr : Nat)
deriving DecidableEq, Repr

/-- The live position of work record `n` (R301, R306). -/
def State.position (s : State) (cluster : Nat) (c : TrelCmd) (w : List Word) (n : Nat) : Position :=
  let at_ := workAt w n
  let glob := !cfgCellar w
  match s.unitPages none cluster c.asid (runPages .load [(glob, at_, 12)]) [] with
  | .miss va _ => .miss va
  | .held => .waits
  | .refused va => .ends Cause.protect va
  | .ok ps =>
    let role := (at_ / 2 ^ 18).toNat
    if !glob ∧ ((s.coreOf? c.launch role).isNone ∨ s.movesAway c.launch role) then .waits
    else
      match s.trelPoison c ps glob at_ 12 with
      | some f => .ends Cause.poison f.toNat
      | none =>
        match triple (s.trelBytes c ps glob at_ 12) with
        | some p => .at_ p ps
        | none => .ends Cause.format at_.toNat

/-- An exact value of units of 2^−`q`, rounded to FP32. -/
def round32 (q : Nat) (n : Int) : Nat :=
  encodeF fp32 (roundF fp32 .rne false 0 (.fin (decide (n < 0)) n.natAbs (-(q : Int)))).1

/-- The bytes of a pair (Table 12-5) whose exact squared distance lies within the cut-off; none for one beyond it, and a bad
pair for a displacement that rounds to an infinity (R301). -/
def pairBytes (w : List Word) (i j : Nat) (pi pj : List Int) : Option (Option (List Byte)) :=
  let ds := [0, 1, 2].map fun t => round32 149 (minImage w t ((pj[t]?.getD 0) - (pi[t]?.getD 0)))
  if ds.any fun d => (fx32 d).isNone then none
  else
    let v := ds.map fun d => (fx32 d).getD 0
    let s := v.foldl (fun acc x => acc + x * x) 0
    if s ≤ cfgRcut w * cfgRcut w then
      some (some (toBytes 2 i ++ toBytes 2 j ++ ds.flatMap (toBytes 4) ++ toBytes 4 (round32 298 s)))
    else some none

/-- A message of a stream to receiver number `k`. -/
def streamMsg (c : TrelCmd) (extra : Nat) (payload : List Byte) : Msg :=
  ⟨1, payload.length, c.role, extra, 1, payload⟩

/-- A stream changed. -/
def State.setStream (s : State) (cluster : Nat) (st : Option Stream) : State :=
  s.onTrellis cluster fun t => { t with stream := st }

/-- A message of a stream sent to a receiver. -/
def State.sendPairs (s : State) (c : TrelCmd) (dst : Nat) (m : Msg) : State :=
  { s with nextId := s.nextId + 1, mesh := s.mesh ++ [⟨s.nextId, c.launch, dst, m, none⟩] }

/-- Emit: the pairs held go to their receiver unless they are among those skipped (R301). -/
def State.emitPairs (s : State) (cluster : Nat) (st : Stream) : State :=
  let recv := pairReceivers st.cmd.role st.cmd.ctrl
  let k := st.formed % recv.length
  let n := st.held.length
  let s := if wbits st.cmd.ctrl 63 32 ≤ st.formed then
      s.sendPairs st.cmd (recv[k]?.getD 0) (streamMsg st.cmd n st.held.flatten)
    else s
  s.setStream cluster (some { st with
    formed := st.formed + 1
    held := []
    counts := st.counts.set k (st.counts[k]?.getD 0 + n) })

/-- Whether a message of a stream is still on its way to a receiver. -/
def State.pairsInFlight (s : State) (c : TrelCmd) : Bool :=
  s.mesh.any fun m => decide (m.launch = c.launch) && decide (m.msg.kind = 1) && decide (m.msg.src = c.role)

/-- The next end message; the stream has ended once the last one has been delivered, so that the queue waits behind one that meets a
full mailbox (R303; log entry 110). -/
def State.emitEnd (s : State) (cluster : Nat) (st : Stream) : State :=
  let recv := pairReceivers st.cmd.role st.cmd.ctrl
  let total := st.counts.foldl (· + ·) 0
  match recv[st.ends]? with
  | some r =>
    (s.sendPairs st.cmd r
      (streamMsg st.cmd 4 (wordToBytes (toWord (st.counts[st.ends]?.getD 0)) ++ wordToBytes (toWord total)))).setStream cluster
      (some { st with ends := st.ends + 1 })
  | none => if s.pairsInFlight st.cmd then s else s.setStream cluster none

/-- A stream is terminated at a message boundary: its detail is recorded, or enters the group fault record when the
activation has ended (R306). -/
def State.endStream (s : State) (cluster : Nat) (c : TrelCmd) (cause addr : Nat) : State :=
  let s := s.setStream cluster none
  if (s.ctx c.agent).act.id = c.act ∧ (s.ctx c.agent).ctl.status ≠ .free then
    s.onCtx c.agent fun k => { k with trelFault := detailWord cause addr }
  else s.recordDetail c.launch c.role (detailWord cause addr)

/-- A stream is parked on a fault and its record sent (R306, R351). -/
def State.parkStream (s : State) (cluster : Nat) (st : Stream) (cause addr : Nat) : State :=
  let c := st.cmd
  (s.setStream cluster (some { st with parked := some (cause, addr) })).sendRecord c.core true
    (engineRecord s c.core c.slot 2 0 cause addr c.launch c.role)

/-- Up to `n` pairs tested, until three are held (R301). -/
def State.testPairs (s : State) (cluster : Nat) (w : List Word) : Nat → Stream → List (Nat × Nat) → State
  | n, st, [] =>
    if st.held = [] then (if n = 0 then s.setStream cluster (some st) else s.emitEnd cluster st)
    else s.emitPairs cluster st
  | 0, st, _ => s.setStream cluster (some st)
  | n + 1, st, (i, j) :: rest =>
    match s.position cluster st.cmd w i with
    | .miss va => (s.setStream cluster (some { st with parked := some (0, va) })).askMiss cluster (st.cmd.missFor va .load)
    | .waits => s.setStream cluster (some st)
    | .ends cause addr => s.endStream cluster st.cmd cause addr
    | .at_ pi ps =>
      match s.position cluster st.cmd w j with
      | .miss va => (s.setStream cluster (some { st with parked := some (0, va) })).askMiss cluster (st.cmd.missFor va .load)
      | .waits => s.setStream cluster (some st)
      | .ends cause addr => s.endStream cluster st.cmd cause addr
      | .at_ pj qs =>
        let s := s.countPages none cluster (st.cmd.missFor 0 .load) (ps ++ qs)
        match pairBytes w i j pi pj with
        | none => s.endStream cluster st.cmd Cause.format (workAt w j).toNat
        | some none => s.testPairs cluster w n { st with tested := st.tested + 1 } rest
        | some (some bs) =>
          let st := { st with tested := st.tested + 1, held := st.held ++ [bs] }
          if st.held.length = 3 then s.emitPairs cluster st else s.testPairs cluster w n st rest

/-- Whether a message of a stream waits at a full mailbox, so that the stream holds (R303). -/
def State.pairsWait (s : State) (c : TrelCmd) : Bool :=
  (pairReceivers c.role c.ctrl).any fun r =>
    match s.coreOf? c.launch r with
    | none => true
    | some k =>
      let h := (s.core k).handlers.get 1 Handler.zero
      h.mv && decide (2 ^ h.mlog ≤ h.count)
        && s.mesh.any fun m => decide (m.launch = c.launch) && decide (m.dst = r) && decide (m.msg.kind = 1)

/-- EMIT: the running stream tests up to `n` pairs and sends one message at most; a stream that waits for a page, is
parked, or whose message waits at a full mailbox stays as it is, and one of a group that is being saved has stopped (R301 to R303, R306,
R309). -/
def execEmit (cluster n : Nat) (s : State) : Host.Outcome State Fault Refusal :=
  .next (match (s.trellis cluster).stream with
    | none => s
    | some st =>
      if st.parked.isSome ∨ s.saving st.cmd.launch ∨ s.pairsWait st.cmd then s
      else
        let t := s.trellis cluster
        s.testPairs cluster t.block (n + 1) st ((t.candidates st.cmd).drop st.tested))

/-- The commands and the stream of a group stop, the stream at a message boundary and without an end message (R309). -/
def Trellis.drop (t : Trellis) (launch : Nat) : Trellis :=
  { t with
    queue := t.queue.filter fun c => decide (c.launch ≠ launch)
    stream := match t.stream with
      | some st => if st.cmd.launch = launch then none else some st
      | none => none }

/-- A group's completion or kill frees the Trellis that it owns; a kill drops its commands and stops its stream (R295,
R309). -/
def Trellis.leave (t : Trellis) (launch : Nat) : Trellis :=
  let t := t.drop launch
  if t.owner = some launch then t.freed else t

end Sys2Proof.Machine
end

