-- ==== Sys2Proof/Machine/Cask.lean ====
section
/-! DEFINITION. Cask tapes: recording, decanting, dropping and status (R311 to R330). -/

namespace Sys2Proof.Machine

/-! ### Control words and status words (R313, Tables 13-4 and 13-8) -/

/-- TAPE of a control word. -/
def cwTape (x : Word) : Nat := wbits x 2 0
/-- NPV of a control word. -/
def cwNpv (x : Word) : Nat := wbits x 8 4
/-- PVOFF of a control word. -/
def cwOff (x : Word) : Nat := wbits x 29 12
/-- KEY of a control word. -/
def cwKey (x : Word) : Nat := wbits x 63 32
/-- Whether a reserved bit of a control word is set. -/
def cwReserved (x : Word) : Bool :=
  decide (wbits x 31 30 ≠ 0) || decide (wbits x 11 9 ≠ 0) || decide (wbits x 3 3 ≠ 0)

/-- A cask status word. -/
def caskStatus (cause detail tape lines index : Nat) : Word :=
  toWord (cause * 2 ^ 56 + detail * 2 ^ 48 + tape % 8 * 2 ^ 32 + lines % 2 ^ 16 * 2 ^ 16 + index % 2 ^ 16)

/-- Steps 1 and 2 of R314 for a patch vector of entries of `size` bytes, and then its words. -/
def State.withPatches (s : State) (a : Agent) (x : Word) (size : Nat) (k : List Word → State) : State :=
  let n := size * cwNpv x
  let check := firstFailure
    [failIf (cwReserved x || decide (16 < cwNpv x)) Cause.format x,
     failIf (decide (cwOff x % size ≠ 0) || decide (Config.sliceTop < cwOff x + n)) Cause.protect x,
     if n = 0 then none else footprintCheck (s.boxes a) (s.myRole a) (cwOff x) n]
  match check with
  | some (cause, f) => s.trap a cause f
  | none => if n = 0 then k [] else s.withOwn a (cwOff x) n fun bs => k (wordsOfBytes bs)

/-- A cask instruction: MODE in an atomic task, as a check of step 5 of R70 (R311). -/
def State.cask (s : State) (k : State) : State :=
  if s.atomic s.cur then s.trap s.cur Cause.mode 0 else k

/-! ### Recording (R314, R318) -/

/-- The recording patch entries that words hold: BASE, SPACE and LEN. -/
def patchEntries : List Word → List (Nat × Nat × Nat)
  | b :: w :: rest => (b.toNat, wbits w 63 62, wbits w 61 0) :: patchEntries rest
  | _ => []

/-- The first recording patch entry that is refused. -/
def badPatch (ps : List (Nat × Nat × Nat)) : Option Nat :=
  (upFrom 0 ps.length).find? fun i =>
    match ps[i]? with
    | some (_, sp, len) => decide (2 ≤ sp) || decide (len = 0)
    | none => false

/-- CASKREC (R314). -/
def execCaskrec (a : BitVec 5) (s : State) : Host.Outcome State Fault Refusal :=
  .next (s.issue { srcs := [srcX0 a] } fun s => s.cask <|
    let x := s.me.x a
    s.withPatches s.cur x 16 fun ws =>
      let ps := patchEntries ws
      match badPatch ps with
      | some i => s.trap s.cur Cause.format (toWord (s.ownCa s.cur (cwOff x + 16 * i)))
      | none =>
        let cl := agentCluster s.cur
        let t := (s.cluster cl).tape (cwTape x)
        let busy := t.state = .recording ∨ t.state = .decanting ∨ t.state = .paused
        if (s.tapeOf? s.cur .recording).isSome ∨ busy ∨ (t.state ≠ .empty ∧ t.tenant ≠ s.tenantOf s.cur) then
          s.trap s.cur Cause.protect x
        else
          (s.onTape cl (cwTape x) fun _ =>
            { Tape.init with
              state := .recording, tenant := s.tenantOf s.cur, key := cwKey x, owner := some s.cur, patches := ps
              npv := cwNpv x }).finish fun c => { c with cask := .recording (cwTape x) })

/-- CASKEND (R318). -/
def execCaskend (d : BitVec 5) (s : State) : Host.Outcome State Fault Refusal :=
  .next (s.issue { dsts := [.x d] } fun s => s.cask <|
    let cl := agentCluster s.cur
    let report := fun (s : State) (v : Word) => s.finish fun c => { c with cask := .none }.setX d v
    match s.tapeOf? s.cur .recording with
    | some k =>
      let t := (s.cluster cl).tape k
      if (s.cluster cl).freeLines < 1 then report (s.onTape cl k fun _ => Tape.init) (caskStatus 0x0F 0x02 k 0 0)
      else
        let t := { t with state := .sealed, owner := none, savedFor := none }
        report (s.onTape cl k fun _ => t) (caskStatus 0 0 k t.lines t.cmds.length)
    | none =>
      match s.me.cask with
      | .abandoned k detail => report s (caskStatus 0x0F detail k 0 0)
      | _ => report s (caskStatus 0x0F 0x01 0 0 0))

/-! ### Guards at decant (R321) -/

/-- What checking guards finds: all hold, a read must wait, a trap, or the first guard that fails, with its detail. -/
inductive GuardCheck where
  | ok
  | wait
  | trap (cause : Nat) (faddr : Word)
  | fails (detail first : Nat)
deriving DecidableEq, Repr

/-- Words 0x08 to 0x37 of a descriptor of the slot compared with those of a guard: an own-slice read of the descriptor,
checked against the footprint (R188). -/
def State.checkDesc (s : State) (a : Agent) (didx first : Nat) (ws : List Word) : GuardCheck :=
  let off := (s.ctx a).sp.dtbase.toNat + 64 * didx
  match footprintCheck (s.boxes a) (s.myRole a) off 64 with
  | some (c, f) => .trap c f
  | none =>
    match s.readOwn a (off + 8) 48 false with
    | .wait => .wait
    | .poison o => .trap Cause.poison (toWord (s.ownCa a o))
    | .bytes bs => if wordsOfBytes bs = ws then .ok else .fails 0x11 first

/-- One guard against the decanting slot. -/
def State.checkGuard (s : State) (a : Agent) (g : Guard) : GuardCheck :=
  match g with
  | .desc first didx ws => s.checkDesc a didx first ws
  | .press first fmtb =>
    match s.latchedBlock (coreNo a) with
    | some b => if blockFmt b = fmtb then .ok else .fails 0x12 first
    | none => .fails 0x12 first
  | .gen first start gen =>
    if s.generation (s.asidOf (coreNo a)) start = gen then .ok else .fails 0x13 first

/-- What reading and checking the guards in tape order finds; a line that holds an uncorrectable error takes effect when it is read,
by the FIRST of its guard (R322, R328). -/
inductive GuardScan where
  | checked (r : GuardCheck)
  | badLine (first : Nat)
deriving DecidableEq, Repr

/-- The guards read and checked in tape order; `line` is the first line of the first. -/
def State.checkGuards (s : State) (a : Agent) (bad : List Nat) : Nat → List Guard → GuardScan
  | _, [] => .checked .ok
  | line, g :: gs =>
    if (upFrom line g.lines).any bad.contains then .badLine g.first
    else
      match s.checkGuard a g with
      | .ok => s.checkGuards a bad (line + g.lines) gs
      | r => .checked r

/-- The first line of command record `i`, and of the END record for the number of records. -/
def Tape.lineOf (t : Tape) (i : Nat) : Nat :=
  (t.guards.map Guard.lines).foldl (· + ·) 0 + ((t.cmds.take (i - t.base)).map TapeCmd.lines).foldl (· + ·) 0

/-- Command record `i` of a tape, where the tape holds it. -/
def Tape.cmd? (t : Tape) (i : Nat) : Option TapeCmd := if i < t.base then none else t.cmds[i - t.base]?

/-- Whether a line of command record `i`, or of the END record, holds an uncorrectable error (R328). -/
def Tape.lineBad (t : Tape) (i : Nat) : Bool :=
  let n := match t.cmd? i with
    | some c => c.lines
    | none => 1
  (upFrom (t.lineOf i) n).any t.badLines.contains

/-! ### Decanting (R320 to R323) -/

/-- A tape becomes EMPTY, and the slot that decants it takes REPLAY_FAULT with a record's index (R322). -/
def State.replayFault (s : State) (a : Agent) (k i : Nat) : State :=
  (s.onTape (agentCluster a) k fun _ => Tape.init).trap a Cause.replayFault (toWord i)

/-- DECANT ends with a status word in its destination. -/
def State.endDecant (s : State) (a : Agent) (d : BitVec 5) (v : Word) : State :=
  s.onCtx a fun c => (c.setX d v).advance

/-- A tape sealed again. -/
def Tape.resealed (t : Tape) : Tape := { t with state := .sealed, owner := none, savedFor := none }

/-- A tape passes R320: its guards are checked, and the sequencer takes its records (R321, R322). -/
def State.startDecant (s : State) (a : Agent) (d : BitVec 5) (x : Word) (pv : List Word) : State :=
  let cl := agentCluster a
  let k := cwTape x
  let t := (s.cluster cl).tape k
  match s.checkGuards a t.badLines 0 t.guards with
  | .badLine first => s.replayFault a k first
  | .checked .wait => s
  | .checked (.trap c f) => (s.onTape cl k Tape.resealed).trap a c f
  | .checked (.fails detail first) => (s.onTape cl k Tape.resealed).endDecant a d (caskStatus 0x0E detail k 0 first)
  | .checked .ok =>
    let next := if t.state = .paused then t.next else 0
    ((s.onTape cl k fun t => { t with state := .decanting, owner := some a, next := next }).onCtx a fun c =>
      { c with decantTape := k, decantDst := d, decantPv := pv }).hold a .decant

/-- The lookup of R320: the detail of a tape that may not be decanted. -/
def State.decantRefused (s : State) (a : Agent) (x : Word) : Option Nat :=
  let t := (s.cluster (agentCluster a)).tape (cwTape x)
  if t.state = .empty ∨ t.state = .recording ∨ t.tenant ≠ s.tenantOf a ∨ t.key ≠ cwKey x then some 0x10
  else if t.state = .decanting ∨ (t.state = .paused ∧ t.owner ≠ some a) then some 0x15
  else if cwNpv x ≠ t.npv then some 0x14
  else none

/-- DECANT (R320 to R322). -/
def execDecant (d b : BitVec 5) (s : State) : Host.Outcome State Fault Refusal :=
  .next (s.issue { delay := false, srcs := [srcX0 b], dsts := [.x d] } fun s => s.cask <|
    let x := s.me.x b
    s.withPatches s.cur x 8 fun pv =>
      let s := s.notRecordable s.cur
      match s.decantRefused s.cur x with
      | some detail => s.endDecant s.cur d (caskStatus 0x0E detail (cwTape x) 0 0)
      | none => s.startDecant s.cur d x pv)

/-- The operand word that holds address word `k` of a record (Table 13-6). -/
def addrIndex (word : IWord) (ops : List Word) (k : Nat) : Option Nat :=
  let n := ops.length
  let copy := fun kind =>
    match k with
    | 0 => some (n - 2)
    | 1 => some (n - 1)
    | _ => (copyRecord kind word ops).map CopyWord.ctrIdx
  match bits word.toNat 25 24, bits word.toNat 23 19 with
  | 0, 0 => copy .rack
  | 0, 1 => copy .rackT
  | 0, 2 => copy .rackM
  | 0, 3 => copy .rackzD
  | 0, 7 => some (n - 1)
  | 1, 2 => [0, 2, 3][k]?
  | 1, 3 => [0, 2, 5][k]?
  | 2, 0 => some 5
  | 2, 1 => some (n - 1)
  | 2, 2 => some (n - 1)
  | _, _ => none

/-- The operand words of a record rebuilt for a patch vector; none for a patch index beyond it (R322 step 1). -/
def TapeCmd.rebuild (c : TapeCmd) (pv : List Word) : Option (List Word) :=
  c.marks.foldl (fun (acc : Option (List Word)) m =>
    match acc, pv[m.2]?, addrIndex c.word c.ops m.1 with
    | some ops, some base, some i => some (ops.set i (base + (ops[i]?.getD 0)))
    | _, _, _ => none) (some c.ops)

/-- Bytes of the slot's slice as its own stores leave them. -/
def State.peek (s : State) (a : Agent) (off n : Nat) : List Byte :=
  (upFrom 0 n).map fun i => (s.loadByte (s.ctx a).queue [] ((s.ownLoc a off).add i) 0).1

/-- A descriptor of the slot as it stands, with a recorded BASE. -/
def State.peekDesc (s : State) (a : Agent) (didx : Nat) (base : Word) : Desc :=
  let off := (s.ctx a).sp.dtbase.toNat + 64 * didx
  let ws := (wordsOfBytes (s.peek a off 64)).set 0 base
  if descBad ws then Desc.none else descOf (s.ownCa a off) ws

/-- The length table of a region as it stands. -/
def State.peekTable (s : State) (a : Agent) (q : Region) (d : Desc) : List Nat :=
  if q.ragged then
    let (row, n) := q.rows (d.ext.headD 0)
    List.replicate row 0 ++ nat32s (s.peek a (d.ltab + 4 * row) (4 * n))
  else []

/-- The span of the global bytes of a recorded region (R317). -/
def State.regionSpan (s : State) (a : Agent) (q : Region) (base : Word) : List (Nat × Nat) :=
  let d := s.peekDesc a q.didx base
  if d.global then (globalSpan (d.runsOf (s.myRole a) (q.walk (d.ext.headD 0) (s.peekTable a q d)))).toList else []

/-- The spans of the global bytes of a copy's two operands. -/
def State.copySpans (s : State) (a : Agent) (x : CopyWord) : List (Nat × Nat) :=
  match x.bases with
  | none => []
  | some (ba, bb) =>
    let da := s.peekDesc a x.qa.didx ba
    let db := s.peekDesc a x.qb.didx bb
    let j := x.job s a da db (s.peekTable a x.qa da) (s.peekTable a x.qb db)
    let span := fun (d : Desc) (rs : List Run) => if d.global then (globalSpan rs).toList else []
    span da j.srcRuns ++ span db (j.db.runsOf j.role j.cellsB)

/-- The span of the global bytes of work records 0 to n − 1 of the Trellis that a group owns (R296, R322). -/
def State.workSpan (s : State) (a : Agent) (n : Nat) : List (Nat × Nat) :=
  let t := s.trellis (agentCluster a)
  if t.owner ≠ some (s.launchOf a) ∨ cfgCellar t.block ∨ n = 0 then [] else [(cfgWork t.block, 32 * n)]

/-- The spans of the global bytes of a TRBIN or TRUPD: its particle records, and its work records. -/
def State.binSpans (s : State) (a : Agent) (q : Region) (base : Word) : List (Nat × Nat) :=
  let c := trelCmd s a .trbin 0 0 [] q (s.peekDesc a q.didx base) [] 0
  s.regionSpan a q base ++ s.workSpan a c.rows.length

/-- The spans of the global bytes of a rebuilt record. -/
def State.recordSpans (s : State) (a : Agent) (word : IWord) (ops : List Word) : List (Nat × Nat) :=
  let copy := fun kind => match copyRecord kind word ops with
    | some x => s.copySpans a x
    | none => []
  let one := fun (span : Region → Word → List (Nat × Nat)) => match readImage ops with
    | some (q, [base]) => span q base
    | _ => []
  match bits word.toNat 25 24, bits word.toNat 23 19 with
  | 0, 0 => copy .rack
  | 0, 1 => copy .rackT
  | 0, 2 => copy .rackM
  | 0, 3 => copy .rackzD
  | 0, 7 => one (s.regionSpan a)
  | 2, 0 => if cfgCellar ops then [] else [(cfgWork ops, 32)]
  | 2, 1 => one (s.binSpans a)
  | 2, 2 => one (s.binSpans a)
  | 2, 3 => s.workSpan a (s.trellis (agentCluster a)).npart
  | _, _ => []

/-- Whether a generation guard of a tape that covers a span fails now (R322 step 2). -/
def State.genFails (s : State) (a : Agent) (t : Tape) (spans : List (Nat × Nat)) : Bool :=
  let ranges := spans.flatMap fun sp => rangesOf sp.1 sp.2
  t.guards.any fun g => match g with
    | .gen _ start gen => ranges.contains start && decide (s.generation (s.asidOf (coreNo a)) start ≠ gen)
    | _ => false

/-- A record issued by the sequencer, as its own chapter gives (R322 steps 3 and 4). -/
def State.replay (s : State) (a : Agent) (word : IWord) (ops : List Word) (i : Nat) : Option State :=
  if bits word.toNat 31 26 ≠ 0x2C then none
  else
    match bits word.toNat 25 24 with
    | 0 => s.replayRack a word ops
    | 1 => s.replayPress a word ops i
    | 2 => s.replayTrel a word ops i
    | _ => none

/-- The next record of a decanting agent's tape, or its END record (R322).  A tape restored from its remaining lines has no earlier
record: one that is read there is no record of any command (log entry 111). -/
def State.decantNext (s : State) (a : Agent) (k : Nat) : State :=
  let cl := agentCluster a
  let t := (s.cluster cl).tape k
  let c := s.ctx a
  if t.lineBad t.next then s.replayFault a k t.next
  else
    match t.cmd? t.next with
    | none => if t.next < t.base then s.replayFault a k t.next else (s.onTape cl k Tape.resealed).endDecant a c.decantDst (caskStatus 0 0 k 0 0)
    | some r =>
      match r.rebuild c.decantPv with
      | none => s.replayFault a k t.next
      | some ops =>
        if s.genFails a t (s.recordSpans a r.word ops) then
          (s.onTape cl k Tape.resealed).endDecant a c.decantDst (caskStatus 0x0E 0x13 k 0 t.next)
        else
          match s.replay a r.word ops t.next with
          | some s' => s'
          | none => s.replayFault a k t.next

/-- DECANT_RECORD_ISSUE (R322): a decanting agent whose last record no longer holds it takes the next one. -/
def execDecantRecordIssue (a : Agent) (s : State) : Host.Outcome State Fault Refusal :=
  .next (match s.tapeOf? a .decanting with
    | some k =>
      let c := (s.ctx a).ctl
      if c.hold = some .decant ∧ !c.quiesced then s.decantNext a k else s
    | none => s)

/-! ### Dropping and status (R324, R325) -/

/-- CASKDROP (R324). -/
def execCaskdrop (a : BitVec 5) (s : State) : Host.Outcome State Fault Refusal :=
  .next (s.issue { srcs := [srcX0 a] } fun s => s.cask <|
    let x := s.me.x a
    let cl := agentCluster s.cur
    let t := (s.cluster cl).tape (cwTape x)
    let mine := t.state ≠ .empty ∧ t.tenant = s.tenantOf s.cur ∧ t.key = cwKey x
    if cwReserved x then s.trap s.cur Cause.format x
    else if mine ∧ t.state ≠ .sealed then s.trap s.cur Cause.protect x
    else
      let s := s.notRecordable s.cur
      (if mine then s.onTape cl (cwTape x) fun _ => Tape.init else s).finish id)

/-- The code of a tape state (R325). -/
def tapeCode : TapeState → Nat
  | .empty => 0
  | .recording => 1
  | .sealed => 2
  | .decanting => 3
  | .paused => 4

/-- The CSTAT word of a tape for a tenant. -/
def Tape.word (t : Tape) (tenant : Nat) : Word :=
  let mine := decide (t.state ≠ .empty) && decide (t.tenant = tenant)
  toWord (tapeCode t.state + b2n mine * 8
    + (if mine then (t.base + t.cmds.length) * 2 ^ 16 + t.lines * 2 ^ 32 + t.patchSlots * 2 ^ 48 else 0))

/-- NEXT of a PAUSED tape of a tenant (R325). -/
def Tape.nextWord (t : Tape) (tenant : Nat) : Word :=
  if t.state = .paused ∧ t.tenant = tenant then toWord t.next else 0

/-- CSTAT sel 0. -/
def execCstatTape (d b : BitVec 5) (s : State) : Host.Outcome State Fault Refusal :=
  .next (s.issue { srcs := [srcX0 b], dsts := [.x d] } fun s => s.cask <|
    let t := (s.cluster (agentCluster s.cur)).tape ((s.me.x b).toNat % 8)
    (s.notRecordable s.cur).askStatus d (t.word (s.tenantOf s.cur)))

/-- CSTAT sel 1. -/
def execCstatFree (d : BitVec 5) (s : State) : Host.Outcome State Fault Refusal :=
  .next (s.issue { dsts := [.x d] } fun s => s.cask <|
    let free := (s.cluster (agentCluster s.cur)).freeLines
    (s.notRecordable s.cur).askStatus d (toWord free))

/-- CSTAT sel 2. -/
def execCstatNext (d b : BitVec 5) (s : State) : Host.Outcome State Fault Refusal :=
  .next (s.issue { srcs := [srcX0 b], dsts := [.x d] } fun s => s.cask <|
    let t := (s.cluster (agentCluster s.cur)).tape ((s.me.x b).toNat % 8)
    (s.notRecordable s.cur).askStatus d (t.nextWord (s.tenantOf s.cur)))

/-! ### Reclaiming (R329) -/

/-- CKSTAT of a tape (Table 13-13). -/
def Tape.managed (t : Tape) : Word :=
  if t.state = .empty then 0
  else toWord (tapeCode t.state + t.tenant % 256 * 2 ^ 4 + t.lines * 2 ^ 16 + t.key * 2 ^ 32)

/-- Whether a reclaim of a tape may be performed: a decanting tape's sequencer has issued its record (R329). -/
def State.reclaimReady (s : State) (cluster : Nat) : Bool :=
  let t := (s.cluster cluster).tape (wbits (s.cluster cluster).ckSel 2 0)
  match t.state, t.owner with
  | .decanting, some a => decide ((s.ctx a).ctl.hold = some .decant)
  | _, _ => true

/-- A tape reclaimed, whatever its tenant; the dispatcher remembers one that a saved group had PAUSED (R329). -/
def State.reclaimTape (s : State) (cluster k : Nat) : State :=
  let t := (s.cluster cluster).tape k
  match t.state, t.owner with
  | .recording, some a => s.abandon a k 0x02
  | .paused, _ =>
    let s := match t.savedFor with
      | some l => { s with dispatch := { s.dispatch with reclaims := (l, cluster, k) :: s.dispatch.reclaims } }
      | none => s
    s.onTape cluster k fun _ => Tape.init
  | .decanting, some a =>
    if (s.ctx a).ctl.hold = some .decant then
      (s.onTape cluster k fun _ => Tape.init).endDecant a (s.ctx a).decantDst (caskStatus 0x0E 0x10 k 0 t.next)
    else s
  | _, _ => s.onTape cluster k fun _ => Tape.init

/-- CKRECL reclaims the tape that CKSEL names (R329). -/
def State.reclaim (s : State) (cluster : Nat) : State := s.reclaimTape cluster (wbits (s.cluster cluster).ckSel 2 0)

/-- CKRECL (R329). -/
def execCkrecl (cluster : Nat) (s : State) : Host.Outcome State Fault Refusal :=
  .next (s.reclaim cluster)

end Sys2Proof.Machine
end

