-- ==== Sys2Proof/Machine/Control.lean ====
section
/-! DEFINITION. Branches, jumps, the repeat frame and the control registers (R77 to R84, R116 to R121, R345, R346). -/

namespace Sys2Proof.Machine

/-! ### Branches and jumps -/

/-- What a branch or jump needs: it may stand neither in a delay slot nor in a repeat frame (R80, R83). -/
def jumps (srcs : List (RegName × Bool)) (dsts : List RegName) : Needs :=
  { delay := false, cellarer := true, srcs := srcs, dsts := dsts }

/-- A conditional branch: the condition is judged at issue; after two delay slots the core fetches from the target, or
from A + 12 (R79, R116). -/
def State.branch (s : State) (srcs : List (RegName × Bool)) (i : BitVec 17) (cond : Ctx → Bool) : State :=
  s.issue (jumps srcs []) fun s =>
    s.onCtx s.cur fun c =>
      c.branchTo (if cond c then branchTarget c.ctl.pc (i.signExtend 56) else c.ctl.pc + 12)

/-- A branch on X[a], which is read with k = 0 (R77). -/
def State.branchX (s : State) (a : BitVec 5) (i : BitVec 17) (cond : Word → Bool) : State :=
  s.branch [srcX0 a] i fun c => cond (c.x a)

/-- B (R116, Table 3-18). -/
def execB (i : BitVec 17) (s : State) : Host.Outcome State Fault Refusal :=
  .next (s.branch [] i fun _ => true)

/-- B.EQZ (R116). -/
def execBEqz (a : BitVec 5) (i : BitVec 17) (s : State) : Host.Outcome State Fault Refusal :=
  .next (s.branchX a i fun x => decide (x = 0))

/-- B.NEZ (R116). -/
def execBNez (a : BitVec 5) (i : BitVec 17) (s : State) : Host.Outcome State Fault Refusal :=
  .next (s.branchX a i fun x => decide (x ≠ 0))

/-- B.LTZ (R116). -/
def execBLtz (a : BitVec 5) (i : BitVec 17) (s : State) : Host.Outcome State Fault Refusal :=
  .next (s.branchX a i fun x => x.slt 0)

/-- B.GEZ (R116). -/
def execBGez (a : BitVec 5) (i : BitVec 17) (s : State) : Host.Outcome State Fault Refusal :=
  .next (s.branchX a i fun x => !x.slt 0)

/-- B.GTZ (R116). -/
def execBGtz (a : BitVec 5) (i : BitVec 17) (s : State) : Host.Outcome State Fault Refusal :=
  .next (s.branchX a i fun x => (0 : Word).slt x)

/-- B.LEZ (R116). -/
def execBLez (a : BitVec 5) (i : BitVec 17) (s : State) : Host.Outcome State Fault Refusal :=
  .next (s.branchX a i fun x => !(0 : Word).slt x)

/-- B.BC (R116). -/
def execBBc (a : BitVec 5) (i : BitVec 17) (s : State) : Host.Outcome State Fault Refusal :=
  .next (s.branchX a i fun x => !x.getLsbD 0)

/-- B.BS (R116). -/
def execBBs (a : BitVec 5) (i : BitVec 17) (s : State) : Host.Outcome State Fault Refusal :=
  .next (s.branchX a i fun x => x.getLsbD 0)

/-- B.FULL tests the full/empty bit of X[a] and never blocks; a poisoned register is empty (R77, R174). -/
def execBFull (a : BitVec 5) (i : BitVec 17) (s : State) : Host.Outcome State Fault Refusal :=
  .next (s.branch [] i fun c => !c.isEmpty (.x a))

/-- B.EMPTY (R77, R174). -/
def execBEmpty (a : BitVec 5) (i : BitVec 17) (s : State) : Host.Outcome State Fault Refusal :=
  .next (s.branch [] i fun c => c.isEmpty (.x a))

/-- B.PANY (R116). -/
def execBPany (p : BitVec 3) (i : BitVec 17) (s : State) : Host.Outcome State Fault Refusal :=
  .next (s.branch [] i fun c => decide (c.p p ≠ 0))

/-- B.PNONE (R116). -/
def execBPnone (p : BitVec 3) (i : BitVec 17) (s : State) : Host.Outcome State Fault Refusal :=
  .next (s.branch [] i fun c => decide (c.p p = 0))

/-- The link of a jump at an address: A + 12 (R78). -/
def linkOf (pc : Addr) : Word := (pc + 12).setWidth 64

/-- J (R117). -/
def execJ (i : BitVec 26) (s : State) : Host.Outcome State Fault Refusal :=
  .next (s.issue (jumps [] []) fun s =>
    s.onCtx s.cur fun c => c.branchTo (branchTarget c.ctl.pc (i.signExtend 56)))

/-- JL writes A + 12 to X31 at issue (R117). -/
def execJl (i : BitVec 26) (s : State) : Host.Outcome State Fault Refusal :=
  .next (s.issue (jumps [] [.x 31]) fun s =>
    s.onCtx s.cur fun c => (c.setX 31 (linkOf c.ctl.pc)).branchTo (branchTarget c.ctl.pc (i.signExtend 56)))

/-- The target of a register jump: X[a] with bits 1:0 cleared, modulo 2^56 (R118). -/
def jumpTarget (x : Word) : Addr := (x.setWidth 56) &&& ~~~3

/-- JR (R118). -/
def execJr (a : BitVec 5) (k : BitVec 1) (s : State) : Host.Outcome State Fault Refusal :=
  .next (s.issue (jumps [srcX a k] []) fun s =>
    s.onCtx s.cur fun c => c.branchTo (jumpTarget (c.x a)))

/-- JLR: the target is the old X[a] (R118). -/
def execJlr (d a : BitVec 5) (k : BitVec 1) (s : State) : Host.Outcome State Fault Refusal :=
  .next (s.issue (jumps [srcX a k] [.x d]) fun s =>
    s.onCtx s.cur fun c => (c.setX d (linkOf c.ctl.pc)).branchTo (jumpTarget (c.x a)))

/-! ### The repeat frame -/

/-- The context past a REPF: the N words that follow are the body of M passes (R82). -/
def Ctx.startFrame (c : Ctx) (n m : BitVec 4) (x y z : BitVec 2) : Ctx :=
  let k := c.ctl.advance
  { c with ctl := { k with
      frame := some ⟨c.ctl.pc, n.toNat + 1, m.toNat + 1, x.toNat, y.toNat, z.toNat, 0, 0, []⟩ } }

/-- REPF starts a repeat frame; the EMPTY handler may not execute it (R82, R84). -/
def execRepf (n m : BitVec 4) (x y z : BitVec 2) (s : State) : Host.Outcome State Fault Refusal :=
  .next (s.issue { delay := false, cellarer := true, legal := !s.me.trap.uh } fun s =>
    s.onCtx s.cur fun c => c.startFrame n m x y z)

/-! ### Control registers (Tables 5-9 and 18-5) -/

/-- C.SLOT (Table 5-11). -/
def slotWord (c : Ctx) (n : Nat) : Word :=
  toWord (b2n c.trap.uh * 2 ^ 8 + c.sp.eprio % 8 * 2 ^ 4 + n % 8)

/-- C.ROLE of a binding (Table 1-5). -/
def roleWord (b : Binding) : Word :=
  toWord (b.nroles * 2 ^ 32 + b.srank * 2 ^ 16 + b.role)

/-- C.STAGE of a binding (Table 1-6). -/
def stageWord (b : Binding) : Word :=
  toWord (b.nstages * 2 ^ 32 + b.sroles * 2 ^ 16 + b.stage)

/-- C.LEASE at a cycle (Table 10-4): CYC counts from the grant while the press is held. -/
def leaseWord (l : Lease) (now : Nat) : Word :=
  toWord (b2n l.held * 2 ^ 63 + b2n l.req * 2 ^ 62 + b2n l.wv * 2 ^ 61 + b2n l.lv * 2 ^ 60 + l.pcls * 2 ^ 58
    + l.prio * 2 ^ 55 + l.cmds * 2 ^ 48 + (if l.held then min (now - l.cyc) 0x1FFFF else 0) * 2 ^ 31
    + l.rows * 2 ^ 10 + l.row0)

/-- C.HWID of an agent (Table 18-7). -/
def hwidWord : Agent → Word
  | .slot n _ => toWord (hwidOf n)
  | .cel k => toWord (2 ^ 15 + k)
  | .tsc c => toWord (c / 68 * 2 ^ 12 + c % 68 * 2 ^ 5 + 31)

/-- What a control register reads as on a small core; none where no table assigns the number. -/
def State.crSmall (s : State) (core n : Nat) (bank1 : Bool) (num : Nat) : Option Word :=
  let c := s.ctx (.slot core n)
  let k := s.core core
  let ofRole := fun (f : Binding → Word) => match k.binding with
    | some b => f b
    | none => 0
  match bank1, num with
  | false, 0 => some c.trap.cause
  | false, 1 => some c.trap.faddr
  | false, 2 => some c.trap.epc
  | false, 3 => some c.trap.prog
  | false, 4 => some c.trap.btgt
  | false, 5 => some c.trap.utvec
  | false, 6 => some (slotWord c n)
  | false, 7 => some (ofRole roleWord)
  | false, 8 => some (ofRole stageWord)
  | false, 9 => some c.sp.tcb
  | false, 10 => some c.sp.seed
  | false, 11 => some k.sched
  | false, 12 => some c.sp.fstat
  | false, 13 => some (leaseWord k.lease s.now)
  | false, 14 => some (toWord (s.now - max k.cycleBase (s.hostPort.coresOn.getD s.now)))
  | true, 0 => some (hwidWord (.slot core n))
  | true, 1 => some c.trap.frame
  | true, 2 => some c.trap.uepc
  | true, 3 => some c.trap.ubtgt
  | true, 4 => some c.trap.uframe
  | true, 5 => some (toWord (b2n c.sp.pl))
  | _, _ => none

/-- What a control register reads as on a cellarer core or a TSC (R345, Table 18-5). -/
def State.crBig (s : State) (a : Agent) (bank1 : Bool) (num : Nat) : Option Word :=
  let c := s.ctx a
  match bank1, num with
  | false, 0 => some c.trap.cause
  | false, 1 => some c.trap.faddr
  | false, 2 => some c.trap.epc
  | false, 4 => some c.trap.btgt
  | false, 14 => some (toWord (s.now - c.sp.cycleBase))
  | true, 0 => some (hwidWord a)
  | true, 6 => some c.sp.ktvec
  | true, 7 => some c.sp.kstat
  | true, 8 => some c.sp.kscr
  | true, m => if h : 9 ≤ m ∧ m < 14 then some (c.sp.fqw[m - 9]'(by omega)) else none
  | _, _ => none

/-- What a control register reads as; none where no table assigns the number to the agent's kind of core. -/
def State.crRead (s : State) (a : Agent) (bank1 : Bool) (num : Nat) : Option Word :=
  match a with
  | .slot core n => s.crSmall core n bank1 num
  | _ => s.crBig a bank1 num

/-- The bits of C.UTVEC that are held (Table 5-10). -/
def utvecMask : Word := 0x00FFFFFFFFFFFFFD

/-- C.SCHED written; the head of the ring becomes a candidate again when RRM is cleared (R42, R43). -/
def Core.writeSched (k : Core) (v : Word) (now : Nat) : Core :=
  let opens := k.sched.getLsbD 0 && !v.getLsbD 0
  { k with
    sched := v &&& 0x701
    ringSince := if opens then now else k.ringSince
    ringAged := if opens then false else k.ringAged }

/-- A control register of a small core written under its field access codes (R8, Tables 5-9 and 18-5); a register that is RO
throughout keeps its value. -/
def State.crWriteSmall (s : State) (core n : Nat) (bank1 : Bool) (num : Nat) (v : Word) : State :=
  match bank1, num with
  | false, 5 => s.onCtx (.slot core n) fun c => { c with trap := { c.trap with utvec := v &&& utvecMask } }
  | false, 10 => s.onCtx (.slot core n) fun c => { c with sp := { c.sp with seed := v } }
  | false, 11 => s.onCore core (·.writeSched v s.now)
  | false, 12 => s.onCtx (.slot core n) fun c => { c with sp := { c.sp with fstat := c.sp.fstat &&& ~~~v &&& 0xF } }
  | _, _ => s

/-- C.KSTAT as a write leaves it: NEST and PPL are written, and PL is read only (R8, Table 18-8). -/
def kstatWrite (old v : Word) : Word :=
  (v &&& 6) ||| (old &&& 1)

/-- A control register of a cellarer core or a TSC written: C.CAUSE, C.FADDR, C.EPC and C.BTGT are RO at USER (R345). -/
def State.crWriteBig (s : State) (a : Agent) (bank1 : Bool) (num : Nat) (v : Word) : State :=
  let sup := (s.ctx a).supervisor a
  match bank1, num with
  | false, 0 => if sup then s.onCtx a fun c => { c with trap := { c.trap with cause := v &&& 0x1FF } } else s
  | false, 1 => if sup then s.onCtx a fun c => { c with trap := { c.trap with faddr := v } } else s
  | false, 2 =>
    if sup then s.onCtx a fun c => { c with trap := { c.trap with epc := v &&& 0x00FFFFFFFFFFFFFC } } else s
  | false, 4 =>
    if sup then s.onCtx a fun c => { c with trap := { c.trap with btgt := v &&& 0x00FFFFFFFFFFFFFF } } else s
  | true, 6 => s.onCtx a fun c => { c with sp := { c.sp with ktvec := v &&& 0x00FFFFFFFFFFFFFC } }
  | true, 7 => s.onCtx a fun c => { c with sp := { c.sp with kstat := kstatWrite c.sp.kstat v } }
  | true, 8 => s.onCtx a fun c => { c with sp := { c.sp with kscr := v } }
  | true, m =>
    if h : 9 ≤ m ∧ m < 14 then
      let mask : Word := if m = 13 then 0xFFFF else BitVec.allOnes 64
      s.onCtx a fun c => { c with sp := { c.sp with fqw := c.sp.fqw.set (m - 9) (v &&& mask) (by omega) } }
    else s
  | _, _ => s

/-- A control register written under the field access codes of R8. -/
def State.crWrite (s : State) (a : Agent) (bank1 : Bool) (num : Nat) (v : Word) : State :=
  match a with
  | .slot core n => s.crWriteSmall core n bank1 num v
  | _ => s.crWriteBig a bank1 num v

/-- What a control-register word needs: an assigned number is part of its encoding, and bank 1 is privileged (R119). -/
def crNeeds (s : State) (bank1 : Bool) (num : BitVec 5) (srcs : List (RegName × Bool)) (dsts : List RegName) : Needs :=
  { cellarer := true, priv := bank1, legal := (s.crRead s.cur bank1 num.toNat).isSome, srcs := srcs, dsts := dsts }

/-- CRR of a bank (R119). -/
def State.readCr (s : State) (bank1 : Bool) (d c : BitVec 5) : State :=
  s.issue (crNeeds s bank1 c [] [.x d]) fun s =>
    s.writeX d ((s.crRead s.cur bank1 c.toNat).getD 0)

/-- CRW of a bank. -/
def State.writeCr (s : State) (bank1 : Bool) (a c : BitVec 5) (k : BitVec 1) : State :=
  s.issue (crNeeds s bank1 c [srcX a k] []) fun s =>
    (s.crWrite s.cur bank1 c.toNat (s.me.x a)).finish id

/-- CRRW of a bank: reads and then writes as one step. -/
def State.swapCr (s : State) (bank1 : Bool) (d a c : BitVec 5) (k : BitVec 1) : State :=
  s.issue (crNeeds s bank1 c [srcX a k] [.x d]) fun s =>
    let old := (s.crRead s.cur bank1 c.toNat).getD 0
    (s.crWrite s.cur bank1 c.toNat (s.me.x a)).writeX d old

/-- CRR of bank 0 (R119). -/
def execCrr (d c : BitVec 5) (s : State) : Host.Outcome State Fault Refusal :=
  .next (s.readCr false d c)

/-- CRW of bank 0 (R119). -/
def execCrw (a c : BitVec 5) (k : BitVec 1) (s : State) : Host.Outcome State Fault Refusal :=
  .next (s.writeCr false a c k)

/-- CRRW of bank 0 (R119). -/
def execCrrw (d a c : BitVec 5) (k : BitVec 1) (s : State) : Host.Outcome State Fault Refusal :=
  .next (s.swapCr false d a c k)

/-- CRR of bank 1, at SUPERVISOR (R119, R344). -/
def execCrrBank1 (d c : BitVec 5) (s : State) : Host.Outcome State Fault Refusal :=
  .next (s.readCr true d c)

/-- CRW of bank 1 (R119, R344). -/
def execCrwBank1 (a c : BitVec 5) (k : BitVec 1) (s : State) : Host.Outcome State Fault Refusal :=
  .next (s.writeCr true a c k)

/-- CRRW of bank 1 (R119, R344). -/
def execCrrwBank1 (d a c : BitVec 5) (k : BitVec 1) (s : State) : Host.Outcome State Fault Refusal :=
  .next (s.swapCr true d a c k)

end Sys2Proof.Machine
end

