-- ==== Sys2Proof/Machine/Atomic.lean ====
section
/-! DEFINITION. The operations of atomics and non-returning reductions, and their step at a place (R177, R178, R276). -/

namespace Sys2Proof.Machine

/-! ### The operations (Tables 7-5 and 7-6, R178) -/

/-- A packed word's key and payload compared: the smaller key, then the smaller payload (R178). -/
def packedLess (x y : Nat) : Bool :=
  let kx := signed 32 (x / 2 ^ 32)
  let ky := signed 32 (y / 2 ^ 32)
  decide (kx < ky) || (decide (kx = ky) && decide (x % 2 ^ 32 < y % 2 ^ 32))

/-- The floating sum of AFADD and REDFADD in RNE; it records no flag (R177). -/
def atomFadd (dbl : Bool) (old y : Nat) : Nat :=
  let f := if dbl then fp64 else fp32
  encodeF f (roundF f .rne false 0 (addV .rne (decodeF f old) (decodeF f y)).1).1

/-- The new value of a word under an atomic, from its old value, the operand and the comparand (Table 7-6). -/
def atomNew (op : AtomOp) (dbl : Bool) (old y cmp : Nat) : Nat :=
  let w := if dbl then 64 else 32
  let y := y % 2 ^ w
  match op with
  | .swap => y
  | .cas => if old = cmp % 2 ^ w then y else old
  | .add => (old + y) % 2 ^ w
  | .and => old &&& y
  | .or => old ||| y
  | .xor => old ^^^ y
  | .min => if signed w old ≤ signed w y then old else y
  | .max => if signed w old ≤ signed w y then y else old
  | .minu => min old y
  | .maxu => max old y
  | .fadd => atomFadd dbl old y
  | .minp => if packedLess y old then y else old

/-- The width in bytes of Z. -/
def atomBytes (dbl : Bool) : Nat := if dbl then 8 else 4

/-- The read and the write of an atomic at its place, in one step: the old value, and the state with the new one. -/
def State.atomicAt (s : State) (loc : Loc) (op : AtomOp) (dbl : Bool) (y cmp : Word) : Nat × State :=
  let n := atomBytes dbl
  let old := fromBytes (s.readBytes loc n)
  (old, s.storeBytes loc (toBytes n (atomNew op dbl old y.toNat cmp.toNat)))

end Sys2Proof.Machine
end

