-- ==== Sys2Proof/Machine/Queues.lean ====
section
/-! DEFINITION. The miss queue, the record view and the fault queue of a cluster, and the answers of its TSC
(R351, R352, R365 to R369). -/

namespace Sys2Proof.Machine

/-! ### The fault queue (R352) -/

/-- Whether a record goes to the TSC's view: its CODE is PAGE_FAULT, or it is of an engine that a REFUSE has parked, whatever the
cause (R352, R369; log entry 93). -/
def FaultRec.toTsc (r : FaultRec) : Bool :=
  decide (wbits r.cause 7 0 = Cause.pageFault) || decide (wbits r.cause 11 9 ≠ 0)

/-- Whether the part of the queue that a record goes to has room. -/
def Cluster.hasRoom (cl : Cluster) (r : FaultRec) : Bool :=
  if r.toTsc then decide (cl.view.length < 64) else decide (cl.kernelQueue.length < 64)

/-- A record appended to the part of the queue that it goes to. -/
def Cluster.takeRecord (cl : Cluster) (r : FaultRec) : Cluster :=
  if r.toTsc then { cl with view := cl.view ++ [r] } else { cl with kernelQueue := cl.kernelQueue ++ [r] }

/-- Whether a watch mask watches a cluster (R346). -/
def watches (fqw : Vector Word 5) (cluster : Nat) : Bool :=
  (fqw.toList[cluster / 64]?.getD 0).getLsbD (cluster % 64)

/-- The lowest watched cluster whose kernel part holds a record (R358). -/
def State.watchedRecord (s : State) (a : Agent) : Option Nat :=
  (upFrom 0 Config.clusters).find? fun c =>
    watches (s.ctx a).sp.fqw c && !(s.cluster c).kernelQueue.isEmpty

/-- An FQWAIT of a cellarer core ends when a watched cluster has a record (R358). -/
def State.answerWatcher (s : State) (a : Agent) : State :=
  match (s.ctx a).ctl.hold with
  | some (.fqwait d _) =>
    match s.watchedRecord a with
    | some c => s.onCtx a fun x => (x.setX d (toWord c)).advance
    | none => s
  | _ => s

/-- A record has entered a kernel part: the cellarer cores that wait for one go on (R358). -/
def State.answerWatchers (s : State) : State :=
  (upFrom 0 16).foldl (fun s k => s.answerWatcher (.cel k)) s

/-- Whether a record was sent before another: in an earlier cycle, or, in one cycle, by a lower core, or by a slot where the other is
of an engine (R352). -/
def SentRec.before (r o : SentRec) : Bool :=
  decide (r.at_ < o.at_)
    || (decide (r.at_ = o.at_) && (decide (r.core < o.core) || (decide (r.core = o.core) && !r.engine && o.engine)))

/-- FAULT_QUEUE_ENTRY: waiting record `k` enters its part, no record sent before it waiting for the same part.  It arrives in a later
cycle than that in which it was sent, so that those sent in one cycle are taken in their order (R352; log entry 107). -/
def execFaultQueueEntry (cluster k : Nat) (s : State) : Host.Outcome State Fault Refusal :=
  .next (
    let cl := s.cluster cluster
    match cl.pending[k]? with
    | none => s
    | some r =>
      let same := fun (e : SentRec) => e.rec_.toTsc == r.rec_.toTsc
      if s.now ≤ r.at_ ∨ (cl.pending.any fun e => same e && e.before r)
          ∨ ((cl.pending.take k).any fun e => same e && !r.before e) ∨ !cl.hasRoom r.rec_ then s
      else
        (s.onCluster cluster fun cl => { cl.takeRecord r.rec_ with pending := dropAt cl.pending k }).answerWatchers)

/-- The eight words of a fault record (Table 18-10). -/
def FaultRec.words (r : FaultRec) : List Word :=
  [r.token, r.cause, r.faddr, r.epc, r.btgt, r.prog, r.frame, r.owner]

/-- RECPOP (R368). -/
def execRecpop (cluster : Nat) (s : State) : Host.Outcome State Fault Refusal :=
  .next (s.onCluster cluster fun cl => { cl with view := cl.view.drop 1 })

/-- Whether a store to RECFWD may be acknowledged: the view is empty, or the kernel part has room (R368). -/
def State.recfwdReady (s : State) (cluster : Nat) : Bool :=
  decide ((s.cluster cluster).view = []) || decide ((s.cluster cluster).kernelQueue.length < 64)

/-- The head record moves to the kernel part; while that part is full it stays (R368). -/
def State.forwardRecord (s : State) (cluster : Nat) : State :=
  match (s.cluster cluster).view with
  | [] => s
  | r :: rest =>
    if s.recfwdReady cluster then
      (s.onCluster cluster fun cl => { cl with view := rest, kernelQueue := cl.kernelQueue ++ [r] }).answerWatchers
    else s

/-- RECFWD (R368). -/
def execRecfwd (cluster : Nat) (s : State) : Host.Outcome State Fault Refusal :=
  .next (s.forwardRecord cluster)

/-! ### Held accesses -/

/-- A slot that a miss of a page holds goes on: with an answer, its instruction will find it (R364, R369). -/
def Ctx.answerMiss (c : Ctx) (page : Nat) (refusal : Option Nat) : Ctx :=
  match c.ctl.hold with
  | some (.miss va) =>
    if va / 2 ^ 16 = page then
      { c with ctl := { c.ctl with hold := none, refusal := refusal.map fun cause => (page, cause) } }
    else c
  | some .commit =>
    match refusal with
    | some cause => { c with act := { c.act with refused := (page, cause) :: c.act.refused } }
    | none => c
  | _ => c

/-- The slots of a core that a page's miss holds are answered. -/
def State.answerSlots (s : State) (core page : Nat) (refusal : Option Nat) : State :=
  (slotsOf core).foldl (fun s a =>
    match (s.ctx a).ctl.hold with
    | some _ => s.onCtx a fun c => c.answerMiss page refusal
    | none => s) s

/-- The jobs of a core that wait for a page go on, or park with a fault record (R237, R369). -/
def State.answerJobs (s : State) (core page : Nat) (refusal : Option Nat) : State :=
  (s.core core).inflight.foldl (fun s p =>
    match p.2.parked with
    | some (0, va) =>
      if va / 2 ^ 16 = page then
        match refusal with
        | some cause => s.parkJob core p.1 p.2 cause va
        | none => s.onCore core fun k => { k with inflight := k.inflight.put p.1 { p.2 with parked := none } }
      else s
    | _ => s) s

/-- The running stream of a cluster that waits for a page goes on, or parks with a fault record (R306, R369). -/
def State.answerStream (s : State) (cluster asid page : Nat) (refusal : Option Nat) : State :=
  match (s.trellis cluster).stream with
  | none => s
  | some st =>
    match st.parked with
    | some (0, va) =>
      if va / 2 ^ 16 = page ∧ st.cmd.asid = asid then
        match refusal with
        | some cause => s.parkStream cluster st cause va
        | none => s.setStream cluster (some { st with parked := none })
      else s
    | _ => s

/-- A refusal reaches the slot whose Trellis command waits for the page at the head of the queue (R293, R369). -/
def State.answerTrellis (s : State) (cluster asid page : Nat) (refusal : Option Nat) : State :=
  match (s.trellis cluster).head, refusal with
  | some c, some cause =>
    if c.asid = asid ∧ s.trelWaits c ∧ s.trelMisses cluster c page then
      s.onCtx c.agent fun k => { k with ctl := { k.ctl with refusal := some (page, cause) } }
    else s
  | _, _ => s

/-- The dispatcher's own miss of a page is answered. -/
def State.answerDispatch (s : State) (asid page : Nat) (refusal : Option Nat) : State :=
  if s.dispatch.asked.contains (asid, page) then
    { s with dispatch := { s.dispatch with
        asked := s.dispatch.asked.filter fun p => decide (p ≠ (asid, page))
        refused := match refusal with
          | some cause => (asid, page, cause) :: s.dispatch.refused
          | none => s.dispatch.refused } }
  else s

/-- Every group whose fault entries wait for an address space tries again (R380). -/
def State.retryFaults (s : State) (asid : Nat) : State :=
  s.groups.foldl (fun s g => if g.2.asid = asid ∧ g.2.frecs ≠ [] then s.flushFaults g.1 else s) s

/-- Everything that a miss of a page of an address space holds in a cluster is answered: by a translation, or by a refusal with
a cause (R369). -/
def State.answerMiss (s : State) (cluster asid page : Nat) (refusal : Option Nat) : State :=
  let s := s.onCluster cluster fun cl =>
    { cl with missWaits := cl.missWaits.filter fun m =>
        !(decide (m.asid = asid) && decide (m.va / 2 ^ 16 = page) && decide (m.kind ≠ 3)) }
  let s := (coresOf cluster).foldl (fun s core =>
    if (s.core core).binding.isSome ∧ s.asidOf core = asid then
      (s.answerSlots core page refusal).answerJobs core page refusal
    else s) s
  let s := (s.answerStream cluster asid page refusal).answerTrellis cluster asid page refusal
  (s.answerDispatch asid page refusal).retryFaults asid

/-! ### The miss queue (R367) -/

/-- The first TAG from a number on that no open entry has; `fuel` bounds the tags passed. -/
def freeTag (used : List Nat) : Nat → Nat → Nat
  | 0, t => t
  | fuel + 1, t => if used.contains t then freeTag used fuel ((t + 1) % 2 ^ 16) else t

/-- KIND of an entry that an access joins. -/
def joinKind (kind joining : Nat) : Nat := if joining = 1 then 1 else kind

/-- MISS_POST: a waiting miss joins the open entry of its page, or is posted while the queue has room; a page that has a
translation by now needs no entry, and one whose migration has ended copied waits for MEND.  The TAG is a free number that
no open entry has (log entry 11); a HOT entry joins none and is joined by none (log entry 44). -/
def execMissPost (cluster k : Nat) (s : State) : Host.Outcome State Fault Refusal :=
  .next (
    let cl := s.cluster cluster
    match cl.missWaits[k]? with
    | none => s
    | some m =>
      let page := m.va / 2 ^ 16
      if m.kind ≠ 3 ∧ s.missHeld m.asid m.va then s
      else if m.kind ≠ 3 ∧ (bestOf m.asid m.va (cl.tlb.map fun e => (e.w0, e.w1))).isSome then
        s.answerMiss cluster m.asid page none
      else
        let joins := fun (e : Miss) =>
          decide (m.kind ≠ 3) && decide (e.kind ≠ 3) && decide (e.asid = m.asid) && decide (e.vpn = page * 2 ^ 16)
        if cl.misses.any joins then
          s.onCluster cluster fun cl =>
            { cl with
              missWaits := dropAt cl.missWaits k
              misses := cl.misses.map fun e =>
                if joins e then
                  { e with
                    count := (e.count + 1) % 2 ^ 16
                    kind := joinKind e.kind m.kind
                    askers := m.asker.toList ++ e.askers }
                else e }
        else if 256 ≤ cl.misses.length then s
        else
          let (w, s) := s.freeWord
          let tag := freeTag (cl.misses.map (·.tag)) 257 (wbits w 15 0)
          s.onCluster cluster fun cl =>
            { cl with
              missWaits := dropAt cl.missWaits k
              misses := cl.misses ++ [⟨m.kind, page * 2 ^ 16, m.asid, tag, 1, m.hwid, m.src, m.role, true,
                m.asker.toList⟩] })

/-- The head entry of the view. -/
def Cluster.missHead (cl : Cluster) : Option Miss := cl.misses.find? (·.view)

/-- MQ0 of a head entry. -/
def mq0 : Option Miss → Word
  | some m => toWord (2 ^ 63 + m.kind * 2 ^ 60 + m.vpn + m.asid)
  | none => 0

/-- MQ1 of a head entry. -/
def mq1 : Option Miss → Word
  | some m => toWord (m.tag * 2 ^ 48 + m.count * 2 ^ 32 + m.hwid * 2 ^ 16 + m.src * 2 ^ 12 + m.role)
  | none => 0

/-- The entries with the first that is in the view taken out of it. -/
def popView : List Miss → List Miss
  | [] => []
  | m :: l => if m.view then { m with view := false } :: l else m :: popView l

/-- MQPOP (R368). -/
def execMqpop (cluster : Nat) (s : State) : Host.Outcome State Fault Refusal :=
  .next (s.onCluster cluster fun cl => { cl with misses := popView cl.misses })

/-- What MQCNT reads (Table 19-3). -/
def Cluster.mqcnt (cl : Cluster) : Word :=
  toWord (b2n cl.bad * 2 ^ 63 + cl.misses.length * 2 ^ 16 + (cl.misses.filter (·.view)).length)

/-- MQCNT: a read clears BAD (R368). -/
def execMqcnt (cluster : Nat) (s : State) : Host.Outcome State Fault Refusal :=
  .next (s.onCluster cluster fun cl => { cl with bad := false })

/-! ### FILL and REFUSE (R365, R366, R369) -/

/-- The open entry of a TAG. -/
def Cluster.missOf? (cl : Cluster) (tag : Nat) : Option Miss :=
  cl.misses.find? fun m => decide (m.tag = tag)

/-- The cluster without the open entry of a TAG. -/
def Cluster.closeMiss (cl : Cluster) (tag : Nat) : Cluster :=
  { cl with misses := cl.misses.filter fun m => decide (m.tag ≠ tag) }

/-- An entry installed in a cluster TLB of 2,048 entries; which one it displaces is the hardware's choice (log entry 45). -/
def Cluster.install (cl : Cluster) (now : Nat) (w0 w1 : Word) : Cluster :=
  let others := cl.tlb.filter fun e => decide ((e.w0, e.w1) ≠ (w0, w1))
  { cl with tlb := ⟨w0, w1, 0, false⟩ :: roomIn 2048 now (fun e => (e.w0, e.w1)) others }

/-- FILL (R369): a refused entry sets BAD; another is installed, and closes the miss if it is of its ASID and covers its
page. -/
def State.fillMiss (s : State) (cluster tag : Nat) : State :=
  let cl := s.cluster cluster
  match cl.missOf? tag with
  | none => s
  | some m =>
    if entRefused cl.ent0 cl.ent1 then s.onCluster cluster fun cl => { cl with bad := true }
    else
      let s := s.onCluster cluster (·.install s.now cl.ent0 cl.ent1)
      if entCovers cl.ent0 cl.ent1 m.asid m.vpn then
        (s.onCluster cluster (·.closeMiss tag)).answerMiss cluster m.asid (m.vpn / 2 ^ 16) none
      else s

/-- FILL. -/
def execFill (cluster : Nat) (v : Word) (s : State) : Host.Outcome State Fault Refusal :=
  .next (s.fillMiss cluster (wbits v 15 0))

/-- Whether a REFUSE's cause is one that Table 19-3 allows. -/
def refuseCauseOk (cause : Nat) : Bool :=
  decide (cause = Cause.pageFault) || decide (cause = Cause.protect) || decide (cause = Cause.poison)

/-- REFUSE (R369): the miss closes, its held slots will raise the cause and its held jobs park; a HOT entry holds nothing
(R374). -/
def State.refuseMiss (s : State) (cluster tag cause : Nat) : State :=
  match (s.cluster cluster).missOf? tag with
  | none => s
  | some m =>
    if !refuseCauseOk cause then s
    else
      let s := s.onCluster cluster (·.closeMiss tag)
      if m.kind = 3 then s else s.answerMiss cluster m.asid (m.vpn / 2 ^ 16) (some cause)

/-- REFUSE. -/
def execRefuse (cluster : Nat) (v : Word) (s : State) : Host.Outcome State Fault Refusal :=
  .next (s.refuseMiss cluster (wbits v 63 48) (wbits v 7 0))

end Sys2Proof.Machine
end

