-- ==== Sys2Proof/Machine/Mapping.lean ====
section
/-! DEFINITION. Changing mappings: INVGO, zeroing of pages, mapping generations and page migration (R370 to R375). -/

namespace Sys2Proof.Machine

/-! ### Invalidation (R370) -/

/-- Whether an entry is of an address space and its page meets `n` bytes from an address. -/
def entMeets (asid va n : Nat) (e : Word × Word) : Bool :=
  decide (entAsid e.1 = asid) && decide (entBase e.1 < va + n) && decide (va < entBase e.1 + pageSize (entSize e.2))

/-- The entries that a store of an ASID to INVGO removes. -/
def State.invalidates (s : State) (asid : Nat) (e : Word × Word) : Bool :=
  if s.xlat.invn = 0 then decide (entAsid e.1 = asid) else entMeets asid s.xlat.inva.toNat (s.xlat.invn.toNat * 2 ^ 16) e

/-- Whether an access queue holds an access through an entry of those named, among some of its entries. -/
def queueUses (q : List Entry) (gone : Word × Word → Bool) : Bool :=
  q.any fun e => e.tlb.any gone

/-- The entries of a queue that no migration keeps waiting: neither held themselves nor behind a held one that they must follow
(R275, R375); `stuck` are those before that are. -/
def State.unheldOf (s : State) : List Entry → List Entry → List Entry
  | _, [] => []
  | stuck, e :: q =>
    let held := match e.what.span with
      | some (loc, _) => !e.isLoad && e.tlb.isSome && s.migrationHolds loc .store
      | none => false
    if held || stuck.any fun f => mustFollow f e || decide (e.chain = some f.id) then s.unheldOf (e :: stuck) q
    else e :: s.unheldOf stuck q

/-- Whether a job still has accesses to perform that it translated through an entry of those named: of a granule, or of a coder's
block, that it has begun. -/
def Job.uses (j : Job) (gone : Word × Word → Bool) : Bool :=
  j.pages.any fun p => j.phaseBusy p.1.1 && gone p.2

/-- Whether every job's access that was translated through the entries named has been performed (R370). -/
def State.jobsSettled (s : State) (gone : Word × Word → Bool) : Bool :=
  !(s.cores.any fun k => k.2.inflight.any fun p => p.2.uses gone)

/-- Whether every access that was translated through the entries named has been performed (R370). -/
def State.settled (s : State) (gone : Word × Word → Bool) : Bool :=
  !(s.ctxs.any fun c => queueUses c.2.queue gone) && s.jobsSettled gone

/-- Whether every such access but those that a migration keeps waiting has been performed (R375). -/
def State.settledButHeld (s : State) (gone : Word × Word → Bool) : Bool :=
  !(s.ctxs.any fun c => queueUses (s.unheldOf [] c.2.queue) gone) && s.jobsSettled gone

/-- The entries named are gone from every TLB of the device. -/
def State.dropEntries (s : State) (gone : Word × Word → Bool) : State :=
  { s with
    clusters := s.clusters.map fun c => (c.1, { c.2 with tlb := c.2.tlb.filter fun e => !gone (e.w0, e.w1) })
    cores := s.cores.map fun k => (k.1, { k.2 with utlb := k.2.utlb.filter fun e => !gone e }) }

/-- The numbers of the generations that a run of bytes of an address space meets, each once (R372). -/
def genNumbers (asid va n : Nat) : List Nat :=
  if n = 0 then []
  else (upFrom (va / 2 ^ 21) ((va + n - 1) / 2 ^ 21 + 1 - va / 2 ^ 21)).map fun r => Nat.xor (r % 2 ^ 16) asid

/-- Each generation that a run of bytes of an address space meets is raised by one, once (R372). -/
def State.raiseGens (s : State) (asid va n : Nat) : State :=
  if 2 ^ 16 ≤ (va + n - 1) / 2 ^ 21 + 1 - va / 2 ^ 21 then
    { s with xlat := { s.xlat with genAll := s.xlat.genAll + 1 } }
  else
    { s with xlat := { s.xlat with
        gens := (genNumbers asid va n).foldl (fun (t : Table Nat (BitVec 32)) k => t.put k (t.get k 0 + 1)) s.xlat.gens } }

/-- Whether a store to INVGO may be acknowledged. -/
def State.invReady (s : State) (v : Word) : Bool :=
  s.settled (s.invalidates (wbits v 15 0))

/-- INVGO, once the accesses through the entries it removes have been performed (R370, R372). -/
def State.invalidate (s : State) (v : Word) : State :=
  let asid := wbits v 15 0
  if !s.invReady v then s
  else
    let s' := s.dropEntries (s.invalidates asid)
    if s.xlat.invn = 0 then { s' with xlat := { s'.xlat with genAll := s'.xlat.genAll + 1 } }
    else s'.raiseGens asid s.xlat.inva.toNat (s.xlat.invn.toNat * 2 ^ 16)

/-- INVGO. -/
def execInvgo (v : Word) (s : State) : Host.Outcome State Fault Refusal :=
  .next (s.invalidate v)

/-! ### Zeroing (R371) -/

/-- The memory with `n` bytes from an address zero. -/
def Memory.clear (m : Memory) (a n : Nat) : Memory :=
  m.filter fun c => !(decide (a ≤ c.1) && decide (c.1 < a + n))

/-- The lines left poisoned once `n` bytes from a line on have been written whole. -/
def clearPoison (poison : List Nat) (a n : Nat) : List Nat :=
  poison.filter fun l => !(decide (a / 64 ≤ l) && decide (l < (a + n) / 64))

/-- Whether a store to PZGO raises PROTECT. -/
def State.zeroBad (s : State) (v : Word) : Bool :=
  decide (wbits v 1 0 = 3) || decide (s.xlat.pzb.toNat % pageSize (wbits v 1 0) ≠ 0)

/-- PZGO zeroes the page at PZB and clears its poison (R371). -/
def State.zeroPage (s : State) (v : Word) : State :=
  if s.zeroBad v then s
  else
    let a := s.xlat.pzb.toNat
    let n := pageSize (wbits v 1 0)
    { s with mem := s.mem.clear a n, poison := clearPoison s.poison a n }

/-- PZGO. -/
def execPzgo (v : Word) (s : State) : Host.Outcome State Fault Refusal :=
  .next (s.zeroPage v)

/-! ### Migration (R375, Table 19-5) -/

/-- Whether a store to MGO raises PROTECT: a migration is under way or awaits MEND (log entry 46), SIZE is 3, or MVA or MDST
is not aligned. -/
def State.migrateBad (s : State) (v : Word) : Bool :=
  let size := wbits v 17 16
  decide (s.xlat.mstat ≠ 0) || decide (size = 3) || decide (s.xlat.mva.toNat % pageSize size ≠ 0)
    || decide (s.xlat.mdst.toNat % pageSize size ≠ 0)

/-- The place of a page of an address space, as the cluster of the lowest index that has an entry for it maps it (log entry
47). -/
def State.mappedAt (s : State) (asid va : Nat) : Option Loc :=
  s.tlbClusters.findSome? fun c =>
    (bestOf asid va ((s.cluster c).tlb.map fun e => (e.w0, e.w1))).map fun e => s.entLoc e.1 e.2 va

/-- MGO starts a migration; without a translation of the page it is abandoned at once (R375). -/
def State.migrate (s : State) (v : Word) : State :=
  if s.migrateBad v then s
  else
    let asid := wbits v 15 0
    let va := s.xlat.mva.toNat
    match s.mappedAt asid va with
    | some src => { s with xlat := { s.xlat with mstat := 1, moving := some ⟨src, s.xlat.mdst.toNat, va, asid, wbits v 17 16, 0⟩ } }
    | none => { s with xlat := { s.xlat with mstat := 3 } }

/-- MGO. -/
def execMgo (v : Word) (s : State) : Host.Outcome State Fault Refusal :=
  .next (s.migrate v)

/-- The cells of `n` bytes from an address, moved to another. -/
def Memory.moved (m : Memory) (src dst n : Nat) : List Host.Cell :=
  (m.filter fun c => decide (src ≤ c.1) && decide (c.1 < src + n)).map fun c => (c.1 - src + dst, c.2)

/-- The lines of `n` bytes from an address that are poisoned, moved to another. -/
def movedLines (poison : List Nat) (src dst n : Nat) : List Nat :=
  (poison.filter fun l => decide (src / 64 ≤ l) && decide (l < (src + n) / 64)).map fun l => l - src / 64 + dst / 64

/-- Whole lines copied into memory of the device; a poisoned line is copied as poison (R375). -/
def State.copyLines (s : State) (src : Loc) (dst n : Nat) : State :=
  let put := fun (m : Memory) (pa : Nat) (poison : List Nat) =>
    { s with
      mem := (m.moved pa dst n).foldl (fun acc c => Memory.write acc c.1 c.2) (s.mem.clear dst n)
      poison := (movedLines poison pa dst n).foldl (fun acc l => insertNat l acc) (clearPoison s.poison dst n) }
  match src with
  | .mem pa => put s.mem pa s.poison
  | .peer d pa => put (s.peer d) pa (s.peerPoison.get d [])
  | .slice _ _ _ => s

/-- Whether a migration's source can be reached. -/
def State.reaches (s : State) : Loc → Bool
  | .peer d _ => !s.unreachable.contains d
  | _ => true

/-- The next granule of 512 bytes of the page under migration is copied (R375). -/
def State.copyGranule (s : State) (m : Moving) : State :=
  let s := s.copyLines (m.src.add (512 * m.copied)) (m.dst + 512 * m.copied) 512
  { s with xlat := { s.xlat with moving := some { m with copied := m.copied + 1 } } }

/-- MIGRATION_COPIED: the granules are copied one by one, and once all are, the page's entries are removed and its generations raised;
its misses and held stores wait for MEND (R372, R375). -/
def execMigrationCopied (s : State) : Host.Outcome State Fault Refusal :=
  .next (match s.xlat.moving with
    | none => s
    | some m =>
      let n := pageSize m.size
      let gone := entMeets m.asid m.va n
      if s.xlat.mstat ≠ 1 ∨ !s.settledButHeld gone ∨ !s.reaches m.src then s
      else if 512 * m.copied < n then s.copyGranule m
      else
        let s := (s.dropEntries gone).raiseGens m.asid m.va n
        { s with xlat := { s.xlat with mstat := 2 } })

/-- MIGRATION_ABANDON: a transfer error, or an error that the copy detects, stops it; what has been copied stays at the new place, which
nothing maps (R375). -/
def execMigrationAbandon (s : State) : Host.Outcome State Fault Refusal :=
  .next (if s.xlat.mstat = 1 then { s with xlat := { s.xlat with mstat := 3 } } else s)

/-- A place of a migrated page in its new place. -/
def Moving.move (m : Moving) (loc : Loc) : Loc :=
  if loc.inPage m.src m.size then
    match m.src, loc with
    | .mem p, .mem q => .mem (q - p + m.dst)
    | .peer _ p, .peer _ q => .mem (q - p + m.dst)
    | _, _ => loc
  else loc

/-- A held access, or a load behind one, at its page's new place. -/
def Moving.payload (m : Moving) : Payload → Payload
  | .load r loc n seen => .load r (m.move loc) n seen
  | .store loc bs nib vec => .store (m.move loc) bs nib vec
  | .atomic r loc op dbl y cmp => .atomic r (m.move loc) op dbl y cmp
  | .reduce loc op dbl y => .reduce (m.move loc) op dbl y
  | p => p

/-- The translation entry of a held access once its page has moved: that of the page's new place. -/
def Moving.entry (m : Moving) (e : Word × Word) : Word × Word :=
  (e.1, toWord (wbits e.2 63 57 * 2 ^ 57 + (m.dst + (entBase e.1 - m.va)) % 2 ^ 56 / 2 ^ 16 * 2 ^ 16 + wbits e.2 13 0))

/-- MEND ends a migration that was copied or abandoned: the held accesses go on, at the new place or at the source
(R375, Table 19-6), where a later INVGO or migration of the page finds them.  An access that was not translated, of a cellarer core or
a TSC, stays where it is. -/
def State.endMigration (s : State) : State :=
  if s.xlat.mstat ≠ 2 ∧ s.xlat.mstat ≠ 3 then s
  else
    let s' := { s with xlat := { s.xlat with mstat := 0, moving := none } }
    match s.xlat.mstat, s.xlat.moving with
    | 2, some m =>
      let turn := fun (e : Entry) =>
        if e.tlb.isNone ∨ m.payload e.what = e.what then e else { e with what := m.payload e.what, tlb := e.tlb.map m.entry }
      { s' with ctxs := s'.ctxs.map fun c => (c.1, { c.2 with queue := c.2.queue.map turn }) }
    | _, _ => s'

/-- MEND. -/
def execMend (s : State) : Host.Outcome State Fault Refusal :=
  .next s.endMigration

end Sys2Proof.Machine
end

