-- ==== Sys2Proof/Machine/VMem.lean ====
section
/-! DEFINITION. Gathers and scatters (R154 to R159). -/

namespace Sys2Proof.Machine

/-- The space of a VMEM function (Table 6-7). -/
inductive VSpace where
  | own
  | cellar
  | global
deriving DecidableEq, Repr

/-- The bytes of an element of et. -/
def elemBytes (e : BitVec 2) : Nat := 2 ^ e.toNat

/-- The elements a VMEM instruction moves. -/
def vmemCount (e : BitVec 2) : Nat := min 16 (512 / widthOf e)

/-- ea_j: the base plus the signed 32-bit index times the element's bytes, modulo 2^64 (R154). -/
def elemAddr (base : Word) (idx : VReg) (e : BitVec 2) (j : Nat) : Word :=
  base + ofInt (signed 32 (elem idx 32 j) * elemBytes e)

/-- The active elements from C.PROG on, in ascending order (R156). -/
def Ctx.vmemElems (c : Ctx) (pm : BitVec 3) (e : BitVec 2) : List Nat :=
  (upFrom 0 (vmemCount e)).filter fun j => active (c.p pm) (widthOf e) j && decide (wbits c.trap.prog 4 0 ≤ j)

/-- The checks of one element before it is accessed, and its parts; a trap has C.FADDR ea_j (R155, R156). -/
def State.elemParts (s : State) (a : Agent) (sp : VSpace) (ea : Word) (n : Nat) (kind : AccessKind) : Parts :=
  match sp with
  | .own =>
    if badOwn ea n then .trap Cause.protect ea.toNat
    else
      match footprintCheck (s.boxes a) (s.myRole a) ea.toNat n with
      | some (c, f) => .trap c f.toNat
      | none => .ok [⟨s.ownCa a ea.toNat, n, s.ownLoc a ea.toNat, .cellar, (0, 0)⟩]
  | .cellar =>
    if badCellar (s.nroles a) ea n then .trap Cause.protect ea.toNat
    else
      match footprintCheck (s.boxes a) (caRole ea.toNat) (caOff ea.toNat) n with
      | some (c, f) => .trap c f.toNat
      | none => .ok [⟨ea.toNat, n, s.caLoc a ea.toNat, .cellar, (0, 0)⟩]
  | .global =>
    if 2 ^ 56 ≤ ea.toNat then .trap Cause.protect ea.toNat
    else
      match s.partsOf a (s.asidOf (coreNo a)) ea.toNat n kind with
      | .trap c _ => .trap c ea.toNat
      | p => p

/-- The elements up to the first that is refused, misses or is held, and what stopped there. -/
def State.elemRun (s : State) (a : Agent) (sp : VSpace) (base : Word) (idx : VReg) (e : BitVec 2) (kind : AccessKind) :
    List Nat → List (Nat × List Part) × Option (Nat × Parts)
  | [] => ([], none)
  | j :: js =>
    match s.elemParts a sp (elemAddr base idx e j) (elemBytes e) kind with
    | .ok ps =>
      let r := s.elemRun a sp base idx e kind js
      ((j, ps) :: r.1, r.2)
    | p => ([], some (j, p))

/-- The strongest page kind among the elements, by which the whole instruction is ordered (R157). -/
def runKind (r : List (Nat × List Part)) : PageKind :=
  r.foldl (fun k e => strongest k (kindOf e.2)) .cellar

/-- What a VMEM instruction does with its elements: hold for a miss or a migration, wait for an earlier SO access, or go
on with the elements that pass and the trap of the first that does not. -/
def State.withElems (s : State) (sp : VSpace) (a b : BitVec 5) (pm : BitVec 3) (e : BitVec 2) (kind : AccessKind)
    (k : List (Nat × List Part) → Option (Nat × Nat × Word) → State) : State :=
  let base := s.me.x b
  let r := s.elemRun s.cur sp base (s.me.v a) e kind (s.me.vmemElems pm e)
  if runKind r.1 = .so ∧ s.soPending s.cur then s
  else
    match r.2 with
    | some (_, .miss va) => s.missOf s.cur (s.asidOf (coreNo s.cur)) va kind
    | some (_, .held) => s
    | some (j, .trap c va) => k r.1 (some (j, c, toWord va))
    | _ => k r.1 none

/-- C.PROG zero and the instruction past (R156). -/
def Ctx.vmemDone (c : Ctx) : Ctx :=
  { c with trap := { c.trap with prog := 0 } }.advance

/-! ### Gathers -/

/-- The load entries of the elements of a gather, each after the one before (R156), with a record for each element. -/
def State.gatherEntries (s : State) (d : BitVec 5) (w : Nat) (page : PageKind) :
    List (Nat × List Part) → Option Nat → List Nat → State × List Nat
  | [], _, recs => (s, recs)
  | (j, ps) :: rest, chain, recs =>
    let seen := (s.ctx s.cur).act.buffer.length
    let rec_ := s.nextId
    let s := { s with nextId := rec_ + 1 }
    let first := s.nextId
    let r := ps.foldl (fun (acc : State × Option Nat) p =>
      let id := acc.1.nextId
      (acc.1.enqueue acc.1.cur fun id =>
        ⟨id, false, false, page, p.va, .load rec_ p.loc p.n seen, acc.2, p.tlb⟩, some id)) (s, chain)
    let s := r.1.openLoad r.1.cur
      ⟨rec_, .elem d w j, (upFrom first ps.length).map fun i => (i, none), none, none, page == .so, none, none⟩
    s.gatherEntries d w page rest r.2 (recs ++ [rec_])

/-- Whether a gather marks V[d] empty: a global one, and a cellar one with a remote element (R158). -/
def State.gatherEmpties (s : State) (a : Agent) (sp : VSpace) (r : List (Nat × List Part)) : Bool :=
  match sp with
  | .own => false
  | .cellar => r.any fun e => e.2.any fun p => !s.isOwn a p.va
  | .global => true

/-- A gather: its elements are loads in ascending order, and it holds its slot until the last lands or one traps (R156,
R158). -/
def State.gather (s : State) (sp : VSpace) (d a b : BitVec 5) (pm : BitVec 3) (e : BitVec 2) : State :=
  s.issue { srcs := [srcV a, srcX0 b], dsts := [.v d] } fun s =>
    s.withElems sp a b pm e .load fun run trap =>
      let s := run.foldl (fun s r => if sp = .global then s.useParts s.cur .load r.2 else s) s
      match run, trap with
      | [], some (j, c, f) => s.trapAt s.cur c f (toWord j)
      | [], none => s.onCtx s.cur Ctx.vmemDone
      | run, trap =>
        let empties := s.gatherEmpties s.cur sp run
        let (s, recs) := s.gatherEntries d (elemBytes e) (runKind run) run none []
        let s := if empties then s.onCtx s.cur (·.makeEmpty (.v d)) else s
        s.hold s.cur (.gather d empties recs trap)

/-- VGATHER.S (Table 6-7). -/
def execVgatherS (d a b : BitVec 5) (p : BitVec 3) (e : BitVec 2) (s : State) : Host.Outcome State Fault Refusal :=
  .next (s.gather .own d a b p e)

/-- VGATHER.C. -/
def execVgatherC (d a b : BitVec 5) (p : BitVec 3) (e : BitVec 2) (s : State) : Host.Outcome State Fault Refusal :=
  .next (s.gather .cellar d a b p e)

/-- VGATHER.G; in an atomic task it reads through the buffer (R159). -/
def execVgatherG (d a b : BitVec 5) (p : BitVec 3) (e : BitVec 2) (s : State) : Host.Outcome State Fault Refusal :=
  .next (s.gather .global d a b p e)

/-! ### Scatters -/

/-- The bytes of data element `j`. -/
def Ctx.elemData (c : Ctx) (d : BitVec 5) (e : BitVec 2) (j : Nat) : List Byte :=
  toBytes (elemBytes e) (elem (c.v d) (widthOf e) j)

/-- The store entries of the parts of an element, each after the one before. -/
def State.scatterParts (s : State) (page : PageKind) : List Part → List Byte → Option Nat → State × Option Nat
  | [], _, chain => (s, chain)
  | p :: ps, bs, chain =>
    let id := s.nextId
    (s.enqueue s.cur fun id =>
      ⟨id, false, false, page, p.va, .store p.loc (bs.take p.n) none false, chain, p.tlb⟩).scatterParts page ps (bs.drop p.n)
        (some id)

/-- The store entries of the elements of a scatter, each after the one before (R156, R157), and the last of them. -/
def State.scatterEntries (s : State) (d : BitVec 5) (e : BitVec 2) (page : PageKind) :
    List (Nat × List Part) → Option Nat → State × Option Nat
  | [], chain => (s, chain)
  | (j, ps) :: rest, chain =>
    let r := s.scatterParts page ps (s.me.elemData d e j) chain
    r.1.scatterEntries d e page rest r.2

/-- A scatter has issued its elements, the last as entry `chain`: it completes, or traps at the first that is refused, and its
re-execution then stores after that entry (R156). -/
def State.scatterEnd (s : State) (chain : Option Nat) (trap : Option (Nat × Nat × Word)) : State :=
  match trap with
  | some (j, c, f) => (s.onCtx s.cur fun k => { k with scatter := chain }).trapAt s.cur c f (toWord j)
  | none => s.onCtx s.cur fun k => { k.vmemDone with scatter := none }

/-- A scatter whose data register may be stored goes on (R263); C.PROG stays as it is. -/
def State.storable (s : State) (d : BitVec 5) (k : State) : State :=
  match s.drainedCheck s.cur (.v d) with
  | some (c, f) => s.trapAt s.cur c f s.me.trap.prog
  | none => k

/-- A scatter: plain stores in ascending order, after those of the part of it that a trap cut off (R156). -/
def State.scatter (s : State) (sp : VSpace) (d a b : BitVec 5) (pm : BitVec 3) (e : BitVec 2) : State :=
  s.issue { srcs := [srcV a, srcX0 b, srcV d] } fun s =>
    s.storable d <| s.withElems sp a b pm e .store fun run trap =>
      let s := run.foldl (fun s r => if sp = .global then s.useParts s.cur .store r.2 else s) s
      let r := s.scatterEntries d e (runKind run) run s.me.scatter
      r.1.scatterEnd r.2 trap

/-- VSCATTER.S. -/
def execVscatterS (d a b : BitVec 5) (p : BitVec 3) (e : BitVec 2) (s : State) : Host.Outcome State Fault Refusal :=
  .next (s.scatter .own d a b p e)

/-- VSCATTER.C. -/
def execVscatterC (d a b : BitVec 5) (p : BitVec 3) (e : BitVec 2) (s : State) : Host.Outcome State Fault Refusal :=
  .next (s.scatter .cellar d a b p e)

/-- VSCATTER.G in an atomic task: the use of every remaining element is reserved first, then each is buffered (R48, R159);
what is reserved for elements that a trap leaves is given back. -/
def State.scatterAtomic (s : State) (d a b : BitVec 5) (pm : BitVec 3) (e : BitVec 2) : State :=
  s.issue { srcs := [srcV a, srcX0 b, srcV d] } fun s => s.storable d <|
    let js := s.me.vmemElems pm e
    let base := s.me.x b
    let use := js.length * storeUse (elemBytes e)
    if 4096 < s.me.act.used + use then
      s.trapAt s.cur Cause.retireOverflow (elemAddr base (s.me.v a) e (js.headD 0)) s.me.trap.prog
    else
      s.withElems .global a b pm e .store fun run trap =>
        let fs := run.map fun r =>
          Effect.store (elemAddr base (s.me.v a) e r.1).toNat (s.me.elemData d e r.1) none false
        (s.onCtx s.cur fun c =>
          { c with act := { c.act with
              used := c.act.used + run.length * storeUse (elemBytes e)
              buffer := c.act.buffer ++ fs } }).scatterEnd none trap

/-- VSCATTER.G. -/
def execVscatterG (d a b : BitVec 5) (p : BitVec 3) (e : BitVec 2) (s : State) : Host.Outcome State Fault Refusal :=
  .next (if s.atomic s.cur then s.scatterAtomic d a b p e else s.scatter .global d a b p e)

end Sys2Proof.Machine
end

