-- ==== Sys2Proof/Machine/Perform.lean ====
section
/-! DEFINITION. The transitions of the ordering machine that perform the entries of access queues, land loads, and end fences
and waits (R169, R174, R271 to R285). -/

namespace Sys2Proof.Machine

/-! ### Entries that may be performed (R275) -/

/-- Whether an entry's home is there: the role it touches is bound and does not move to another core, and no migration holds the page
that it was translated to (R19, R375). -/
def State.homeReady (s : State) (a : Agent) (e : Entry) : Bool :=
  match e.what with
  | .credit r _ => !s.movesAway (s.launchOf a) r
  | w =>
    match w.span with
    | some (.slice l r _, _) => (s.coreOf? l r).isSome && !s.movesAway l r
    | some (loc, _) => e.isLoad || e.tlb.isNone || !s.migrationHolds loc .store
    | none => true

/-! ### What a save holds (R19, R137, R394; log entry 106) -/

/-- Whether an entry asks for an answer, which a save waits for (R137). -/
def Entry.asks (e : Entry) : Bool := e.isLoad || e.isAtomic || e.isStatus

/-- Whether an entry of a role is one that a save of its group can hold: a decrement, a credit, or a write to another role's slice that
returns nothing. -/
def Entry.holdable (e : Entry) (own : Nat) : Bool :=
  let away := fun (loc : Loc) => match loc with
    | .slice _ r _ => decide (r ≠ own)
    | _ => false
  match e.what with
  | .decr _ _ => true
  | .credit _ _ => true
  | .store loc _ _ _ => away loc
  | .reduce loc _ _ _ => away loc
  | .empw loc => away loc
  | .fulw loc => away loc
  | _ => false

/-- The entries of a queue that ask for an answer, and those that one of them must follow (R275): a save lets them be performed. -/
def neededOf : List Entry → List Entry
  | [] => []
  | e :: q =>
    let rest := neededOf q
    if e.asks || rest.any fun f => mustFollow e f || decide (f.chain = some e.id) then e :: rest else rest

/-- Whether an entry is held at its source, since the group that it is addressed to is being saved (R19, R394). -/
def State.saveHolds (s : State) (a : Agent) (e : Entry) : Bool :=
  s.saving (s.launchOf a) && e.holdable (s.myRole a) && !(neededOf (s.ctx a).queue).contains e

/-- Whether a slot of a group still waits for an answer. -/
def State.awaitsAnswers (s : State) (launch : Nat) : Bool :=
  match s.group? launch with
  | some g => g.cores.any fun c => (slotsOf c).any fun a => (s.ctx a).queue.any Entry.asks
  | none => false

/-- The entries of a queue that order those behind them.  Held ones do not once no slot of their group awaits an answer: they are
delivered when the group resumes, before anything that could tell the difference goes on. -/
def State.ordering (s : State) (a : Agent) : List Entry :=
  let q := (s.ctx a).queue
  let launch := s.launchOf a
  if s.saving launch && !s.awaitsAnswers launch then q.filter fun e => !s.saveHolds a e else q

/-- The entry of a number in an agent's access queue, if it may be performed. -/
def State.entryReady (s : State) (a : Agent) (id : Nat) : Option Entry :=
  match entryOf? (s.ctx a).queue id with
  | some e => if performable (s.ordering a) e && s.homeReady a e && !s.saveHolds a e then some e else none
  | none => none

/-- An entry leaves its queue. -/
def State.dropFrom (s : State) (a : Agent) (id : Nat) : State :=
  s.onCtx a fun c => { c with queue := dropEntry c.queue id }

/-- The group fault record's entry for something that an agent's role did (R380).  A cellarer core and a TSC have no group: what the
spec records of a posted access leaves no trace there, a choice of the model (log entry 104). -/
def State.roleFault (s : State) (a : Agent) (cause : Nat) (address : Word) : State :=
  if isSmall a then s.groupFault (s.launchOf a) cause (s.myRole a) address else s

/-! ### Loads (R276, R174) -/

/-- Element `j` of V[d] as a gather's data land, its full/empty bit as it stands (R156). -/
def Ctx.putElem (c : Ctx) (d : BitVec 5) (w j : Nat) (bs : List Byte) : Ctx :=
  { c with regs := { c.regs with
      v := c.regs.v.set d.toNat (setElemBytes (c.v d) w j bs) (by have := d.isLt; omega) } }

/-- A gather that has no element left completes, or takes the trap of the element that stopped it (R156, R158). -/
def State.gatherEnd (s : State) (a : Agent) (d : BitVec 5) (emptied : Bool) (trap : Option (Nat × Nat × Word)) : State :=
  let s := if emptied then s.onCtx a (·.fill (.v d)) else s
  match trap with
  | some (j, cause, f) => s.trapAt a cause f (toWord j)
  | none => s.onCtx a Ctx.vmemDone

/-- A gather whose element `j` met poison: the elements after it are not read (R156, R174). -/
def State.gatherPoison (s : State) (a : Agent) (d : BitVec 5) (emptied : Bool) (recs : List Nat) (j : Nat) (f : Word) :
    State :=
  let gone := fun (e : Entry) => match e.what with
    | .load r _ _ _ => recs.contains r
    | _ => false
  let s := s.onCtx a fun c =>
    { c with
      queue := c.queue.filter fun e => !gone e
      loads := c.loads.filter fun r => !recs.contains r.id }
  s.gatherEnd a d emptied (some (j, Cause.poison, f))

/-- An element of a gather whose parts have all been performed lands (R156). -/
def State.landElem (s : State) (a : Agent) (r : LoadRec) : State :=
  match r.dst, (s.ctx a).ctl.hold with
  | .elem d w j, some (.gather _ emptied recs trap) =>
    match r.poison with
    | some f => s.gatherPoison a d emptied recs j (toWord f)
    | none =>
      let rest := recs.filter (· ≠ r.id)
      let s := s.onCtx a fun c =>
        let c := (c.putElem d w j r.bytes).closeLoad r.id
        { c with ctl := { c.ctl with hold := some (.gather d emptied rest trap) } }
      if rest = [] then s.gatherEnd a d emptied trap else s
  | _, _ => s

/-- A part of a load has its bytes, or the address of its first poisoned byte. -/
def State.partGot (s : State) (a : Agent) (rec_ part : Nat) (d : List Byte ⊕ Nat) : State :=
  let s := (s.dropFrom a part).onCtx a (·.onLoad rec_ fun r => r.got part d)
  match (s.ctx a).loadOf? rec_ with
  | some r => if r.ready then s.landElem a r else s
  | none => s

/-- The loads of a slot that keep it and issued before load record `id` (log entry 18). -/
def Ctx.owedBefore (c : Ctx) (id : Nat) : List LoadRec :=
  (c.loads.takeWhile fun r => decide (r.id ≠ id)).filter fun r => r.own.isSome

/-- A load that has been taken back: its register is as it was, full, for a load empties it without a write (R54). -/
def Ctx.takeBack (c : Ctx) (r : LoadRec) : Ctx :=
  match r.own, r.dst with
  | none, .x d => c.fill (.x d)
  | none, .v d => c.fill (.v d)
  | _, _ => c

/-- A load that keeps its slot takes its trap at its instruction: it, and the loads that issued past it, are taken back, and the slot
is where the load issued (R110, R124, R174; log entry 18). -/
def State.trapLoad (s : State) (a : Agent) (r : LoadRec) (k : Control) (cause : Nat) (faddr : Word) : State :=
  let gone := (s.ctx a).loads.dropWhile fun o => decide (o.id ≠ r.id)
  let ids := gone.map LoadRec.id
  let s := s.onCtx a fun c =>
    gone.foldl Ctx.takeBack { c with
      ctl := { k with quiesced := c.ctl.quiesced, late := c.ctl.late }
      queue := c.queue.filter fun e => match e.what.record? with
        | some i => !ids.contains i
        | none => true
      loads := c.loads.filter fun o => !ids.contains o.id }
  s.trap a cause faddr

/-- A load that keeps its slot is performed: its bytes, which land later, or its trap, once no such load before it is left.  One that
a later instruction has issued past takes no trap: it returns what it read then (log entry 18). -/
def State.ownGot (s : State) (a : Agent) (r : LoadRec) (k : Control) (part : Nat) (got : OwnGot) : State :=
  match got, r.spare with
  | .bytes bs, _ => s.partGot a r.id part (.inl bs)
  | .trap _ _, some bs => s.partGot a r.id part (.inl bs)
  | .trap cause f, none => if (s.ctx a).owedBefore r.id = [] then s.trapLoad a r k cause f else s

/-- The bytes, or the address of the first poisoned byte, that a load of a slot that runs on returns (R49, R174, R276, R413); only
a load of global memory looks in the retire buffer. -/
def State.globalRead (s : State) (a : Agent) (e : Entry) (loc : Loc) (n seen : Nat) : List Byte ⊕ Nat :=
  if s.noRoute loc then .inr e.va
  else
    let buffer := match loc with
      | .slice _ _ _ => []
      | _ => (s.ctx a).act.buffer.take seen
    match s.loadBytes (earlier (s.ctx a).queue e.id) buffer loc e.va n with
    | .inl bs => .inl bs
    | .inr i => .inr (e.va + i)

/-- Whether a load that keeps the slot and issued before load record `id` may still trap, so that what cannot be taken back waits. -/
def Ctx.trapAhead (c : Ctx) (id : Nat) : Bool := (c.owedBefore id).any c.mayTrap

/-- PERFORM_LOAD: a load, a FEW, a read of TEXT or a status read is performed at its home (R122, R276, R284, R406). -/
def execPerformLoad (a : Agent) (e : Nat) (s : State) : Host.Outcome State Fault Refusal :=
  .next (match s.entryReady a e with
    | none => s
    | some x =>
      match x.what.record?.bind (s.ctx a).loadOf?, x.what with
      | some r, .load _ loc n seen =>
        match r.own, s.ownRead a x with
        | some k, some got => s.ownGot a r k e got
        | _, _ => s.partGot a r.id e (s.globalRead a x loc n seen)
      | some r, .status _ w => s.partGot a r.id e (.inl (wordToBytes w))
      | some r, .ldf _ _ =>
        match r.own, s.ownRead a x with
        | some k, some got => s.ownGot a r k e got
        | none, some (.bytes bs) => s.partGot a r.id e (.inl bs)
        | _, _ => s.dropFrom a e
      | some r, .few _ _ =>
        match s.ownRead a x with
        | some (.bytes bs) => s.partGot a r.id e (.inl bs)
        | _ => s
      | some r, .tree _ (.slice _ _ off) =>
        if (s.ctx a).trapAhead r.id then s
        else
          let (v, s) := s.loadTree a off
          s.partGot a r.id e (.inl (wordToBytes v))
      | _, _ => s)

/-- LOAD_REPLY_LAND: the data of load record `e`, all of whose parts have been performed, fill its register or leave it
empty and poisoned (R54, R169, R174); a load that keeps its slot lands after those before it, and any other after those of them that
may still trap (log entry 18). -/
def execLoadReplyLand (a : Agent) (e : Nat) (s : State) : Host.Outcome State Fault Refusal :=
  .next (match (s.ctx a).loadOf? e with
    | some r =>
      if !r.ready ∨ (s.ctx a).trapAhead e ∨ (r.own.isSome ∧ (s.ctx a).owedBefore e ≠ []) then s
      else
        match r.dst with
        | .elem _ _ _ => s
        | _ => s.onCtx a fun c => (c.land r).closeLoad e
    | none => s)

/-! ### Stores, atomics and reductions -/

/-- An operand enters a combining operation: the injecting core's n-th of its PSET and TAG joins operation n (R285, R407). -/
def State.injectOperand (s : State) (a : Agent) (ctl value : Word) : State :=
  let core := coreNo a
  let launch := s.launchOf a
  let role := s.myRole a
  let pset := wbits ctl 9 8
  let tag := wbits ctl 55 48
  let stage := match s.binding a with | some b => b.stage | none => 0
  let group := match pset with
    | 0 => 0
    | 1 => stage
    | 2 => role / 16
    | _ => role / 1024
  let n := (s.core core).injected.get (pset, tag) 0
  let s := s.onCore core fun k => { k with injected := k.injected.put (pset, tag) (n + 1) }
  let is := fun (o : TreeOp) => decide (o.launch = launch) && decide (o.pset = pset) && decide (o.group = group)
    && decide (o.tag = tag) && decide (o.n = n)
  let x : TreeOperand := ⟨role, s.nextId, ctl, value⟩
  let s := { s with nextId := s.nextId + 1 }
  if s.tree.any is then
    { s with tree := s.tree.map fun o => if is o then { o with operands := o.operands ++ [x] } else o }
  else { s with tree := s.tree ++ [⟨launch, pset, group, tag, n, [x], none⟩] }

/-- A store of bytes, or of a nibble, performed at its home; one to a peer without a route is dropped (R170, R413). -/
def State.storeAt (s : State) (a : Agent) (loc : Loc) (va : Nat) (bs : List Byte) (nib : Option Bool) (vec : Bool) : State :=
  if s.noRoute loc then s.roleFault a Cause.poison (toWord va)
  else
    match nib with
    | none => if vec then (s.storeBytes loc bs).clearLine loc bs.length else s.storeBytes loc bs
    | some h => s.storeNibble loc h (bs.headD 0)

/-- A slice word made empty or full at its home (R122, R284). -/
def State.markAt (s : State) (loc : Loc) (full : Bool) : State :=
  match loc with
  | .slice l r off =>
    match s.coreOf? l r with
    | some c => s.onCore c (·.setFull off full)
    | none => s
  | _ => s

/-- A returning atomic reads and writes its word in one step; one that finds its word poisoned, or no route to it, writes nothing
(R174, R276, R413). -/
def State.atomicGot (s : State) (e : Entry) (loc : Loc) (op : AtomOp) (dbl : Bool) (y cmp : Word) :
    (List Byte ⊕ Nat) × State :=
  if s.noRoute loc then (.inr e.va, s)
  else
    match s.poisonAt loc (atomBytes dbl) with
    | some i => (.inr (e.va + i), s)
    | none =>
      let (old, s) := s.atomicAt loc op dbl y cmp
      (.inl (toBytes (atomBytes dbl) old), s)

/-- PERFORM_ATOMIC: a returning atomic fills X[d] with the old value; one of a slot that runs on leaves it empty and poisoned where
it finds poison.  One that keeps its slot is performed once no such load before it can trap any more, and takes its trap at its
instruction (R174, R276; log entry 18). -/
def execPerformAtomic (a : Agent) (e : Nat) (s : State) : Host.Outcome State Fault Refusal :=
  .next (match s.entryReady a e with
    | none => s
    | some x =>
      match x.what with
      | .atomic i loc op dbl y cmp =>
        match (s.ctx a).loadOf? i with
        | none => (s.atomicGot x loc op dbl y cmp).2.dropFrom a e
        | some r =>
          match r.own with
          | none =>
            let (got, s) := s.atomicGot x loc op dbl y cmp
            let s := s.partGot a i e got
            match (s.ctx a).loadOf? i with
            | some l => s.onCtx a fun c => (c.land l).closeLoad i
            | none => s
          | some k =>
            if (s.ctx a).trapAhead i then s
            else
              match s.atomicGot x loc op dbl y cmp with
              | (.inl bs, s) => s.partGot a i e (.inl bs)
              | (.inr f, s) => s.ownGot a r k e (.trap Cause.poison (toWord f))
      | _ => s)

/-- An operand as a reduction packet carries it: an integer operand of `w` bits modulo 2^(w+8), any other as its `w` bits (R107,
R411). -/
def carried (op : AtomOp) (dbl : Bool) (y : Word) : BitVec 72 :=
  let w := 8 * atomBytes dbl
  if op = .add then BitVec.ofNat 72 (wrap (w + 8) (signed w y.toNat)) else BitVec.ofNat 72 (bits y.toNat (w - 1) 0)

/-- The number of this device in the domain (R410). -/
def State.device (s : State) : Nat := wbits s.board.domain 7 0

/-- A non-returning reduction, of access-queue entry `e`, performed at its home, or on its way to a peer as a packet; poison at
the home, or a peer without a route, drops it with an entry (R174, R411, R413). -/
def State.reduceAt (s : State) (a : Agent) (e : Nat) (loc : Loc) (va : Nat) (op : AtomOp) (dbl : Bool) (y : Word) : State :=
  match loc with
  | .peer d pa =>
    if s.noRoute loc then s.roleFault a Cause.poison (toWord va)
    else
      let n := s.packetSeq.get d 0
      { s with
        packetSeq := s.packetSeq.put d (n + 1)
        packets := s.packets ++ [⟨d, pa, op, dbl, carried op dbl y, 1#256 <<< s.device,
          [⟨s.device, n, e, s.launchOf a, s.myRole a, va⟩], false⟩] }
  | _ =>
    match s.poisonAt loc (atomBytes dbl) with
    | some i => s.roleFault a Cause.poison (toWord (va + i))
    | none => (s.atomicAt loc op dbl y 0).2

/-- Whether a packet carries the reduction of an access-queue entry. -/
def State.inPacket (s : State) (e : Nat) : Bool :=
  s.packets.any fun p => p.from_.any fun c => decide (c.dev = s.device) && decide (c.entry = e)

/-- A decrement is performed at its counter's home; one whose join address names a role that the group has not is dropped
with an entry (R39, R41; log entry 48). -/
def State.decrementAt (s : State) (a : Agent) (loc : Loc) (va n : Nat) : State :=
  match loc with
  | .slice l r off =>
    if s.nroles a ≤ r then s.roleFault a Cause.protect (toWord va)
    else
      match s.coreOf? l r with
      | some home => s.decrement home off n
      | none => s
  | _ => s

/-- Credits reach the sender's core; a sum above 65,535 leaves 65,535 and an entry that names the sender, whose address the spec does
not give (R226; log entry 11). -/
def State.creditAt (s : State) (a : Agent) (r n : Nat) : State :=
  match s.coreOf? (s.launchOf a) r with
  | none => s
  | some home =>
    let k := s.myRole a % 64
    let sum := (s.core home).mcred.get k 0 + n
    let s := s.onCore home fun c => { c with mcred := c.mcred.put k (min sum 65535) }
    let s := if 65535 < sum then
        let (w, s) := s.freeWord
        s.groupFault (s.launchOf a) Cause.protect r w
      else s
    s.wake home .credits

/-- What an entry that returns nothing does at its home as it is performed (R276, R284, R285). -/
def State.postedEffect (s : State) (a : Agent) (e : Entry) : State :=
  match e.what with
  | .store loc bs nib vec => s.storeAt a loc e.va bs nib vec
  | .empw loc => s.markAt loc false
  | .fulw loc => s.markAt loc true
  | .inject ctl v => s.injectOperand a ctl v
  | .reduce loc op dbl y => s.reduceAt a e.id loc e.va op dbl y
  | .decr loc n => s.decrementAt a loc e.va n
  | .credit r n => s.creditAt a r n
  | _ => s

/-- PERFORM_STORE: a store, EMPW, FULW or an injection is performed at its home (R54, R276, R284, R285). -/
def execPerformStore (a : Agent) (e : Nat) (s : State) : Host.Outcome State Fault Refusal :=
  .next (match s.entryReady a e with
    | none => s
    | some x =>
      match x.what with
      | .store _ _ _ _ => (s.postedEffect a x).dropFrom a e
      | .empw _ => (s.postedEffect a x).dropFrom a e
      | .fulw _ => (s.postedEffect a x).dropFrom a e
      | .inject _ _ => (s.postedEffect a x).dropFrom a e
      | _ => s)

/-- PERFORM_REDUCTION; one to a peer leaves as a packet, and its entry stays until the peer has performed it (R177, R276,
R411). -/
def execPerformReduction (a : Agent) (e : Nat) (s : State) : Host.Outcome State Fault Refusal :=
  .next (match s.entryReady a e with
    | none => s
    | some x =>
      match x.what with
      | .reduce loc op dbl y =>
        if s.inPacket e then s
        else
          let s := s.reduceAt a e loc x.va op dbl y
          if s.inPacket e then s else s.dropFrom a e
      | _ => s)

/-! ### Messages, updates and engine entries (R280, R281) -/

/-- A message enters the mesh (R280). -/
def State.toMesh (s : State) (launch dst : Nat) (m : Msg) : State :=
  { s with nextId := s.nextId + 1, mesh := s.mesh ++ [⟨s.nextId, launch, dst, m, none⟩] }

/-- The agent of a core whose access queue holds an entry. -/
def State.holderOf (s : State) (core id : Nat) : Option Agent :=
  (slotsOf core).find? fun a => (entryOf? (s.ctx a).queue id).isSome

/-- Whether a message of a send queue may leave as far as its slot's entries go; one of a committed buffer may (R275, R283). -/
def State.messageReady (s : State) (core id : Nat) : Bool :=
  match s.holderOf core id with
  | some a => (s.entryReady a id).isSome
  | none => true

/-- The entry of a message that has left goes from its access queue. -/
def State.dropMessage (s : State) (core id : Nat) : State :=
  match s.holderOf core id with
  | some a => s.dropFrom a id
  | none => s

/-- PERFORM_MESSAGE: the head of a core's send queue leaves for the mesh, unless a message waits at a full mailbox of its
receiver; in a save, where the mesh holds every message of the group, it leaves whatever waits (R19, R35, R131, R137, R280; log
entry 37). -/
def execPerformMessage (core : Nat) (s : State) : Host.Outcome State Fault Refusal :=
  .next (match (s.core core).sendQueue with
    | [] => s
    | (id, dst, m) :: rest =>
      let launch := s.launchOf (.slot core 0)
      if !s.messageReady core id ∨ (!s.saving launch ∧ s.stalledBy s.mesh launch dst) then s
      else
        (((s.dropMessage core id).onCore core fun k => { k with sendQueue := rest }).toMesh launch dst m).wake core .send)

/-- DECREMENT_STEP: a decrement is performed at the counter's home, or dropped (R39, R41). -/
def execDecrementStep (a : Agent) (e : Nat) (s : State) : Host.Outcome State Fault Refusal :=
  .next (match entryOf? (s.ctx a).queue e with
    | some x =>
      match x.what with
      | .decr (.slice _ r _) _ =>
        if s.nroles a ≤ r ∨ (s.entryReady a e).isSome then (s.postedEffect a x).dropFrom a e else s
      | _ => s
    | none => s)

/-- READY_RING_PUSH: the push that waits longest enters the ring (R40). -/
def execReadyRingPush (core : Nat) (s : State) : Host.Outcome State Fault Refusal :=
  .next (match (s.core core).ringInput with
    | [] => s
    | t :: rest =>
      if 256 ≤ (s.core core).ring.length then s
      else
        (s.onCore core fun k =>
          { k with
            ringInput := rest
            ring := k.ring ++ [t]
            ringSince := if k.ring = [] then s.now else k.ringSince
            ringAged := if k.ring = [] then false else k.ringAged }).wake core .ring)

/-- CREDIT_RETURN: credits reach the sender's core (R226). -/
def execCreditReturn (a : Agent) (e : Nat) (s : State) : Host.Outcome State Fault Refusal :=
  .next (match s.entryReady a e with
    | some x =>
      match x.what with
      | .credit r _ => if (s.coreOf? (s.launchOf a) r).isSome then (s.postedEffect a x).dropFrom a e else s
      | _ => s
    | none => s)

/-- Whether an engine entry is the first of its engine among a core's that have issued (R218, R252). -/
def State.firstOfEngine (s : State) (core id : Nat) (c : EngCmd) : Bool :=
  (slotsOf core).all fun a => (s.ctx a).queue.all fun e =>
    match e.what, c with
    | .engine (.rack _), .rack _ => decide (id ≤ e.id)
    | .engine (.press _), .press _ => decide (id ≤ e.id)
    | .engine (.trel _), .trel _ => decide (id ≤ e.id)
    | _, _ => true

/-- Whether a Trellis command may arrive: after the cycle of its issue, in ascending order of the cores within a cycle, and after
every command of a lower core that issued in the same cycle and may arrive too (R293, R310; log entry 60). -/
def State.trelTurn (s : State) (core : Nat) (t : TrelCmd) : Bool :=
  let cl := clusterOf core
  decide (t.issuedAt < s.now)
    && (match (s.cluster cl).trellis.last with
      | some (at_, k) => decide (at_ < s.now) || decide (k ≤ core)
      | none => true)
    && (coresOf cl).all fun k => decide (core ≤ k) || (slotsOf k).all fun b => (s.ctx b).queue.all fun e =>
      match e.what with
      | .engine (.trel o) => decide (o.issuedAt ≠ t.issuedAt) || (s.entryReady b e.id).isNone
      | _ => true

/-- Whether an engine entry may be placed in its queue now. -/
def State.placeable (s : State) (core id : Nat) (c : EngCmd) : Bool :=
  s.firstOfEngine core id c && match c with
    | .trel t => s.trelTurn core t
    | _ => true

/-- A command enters its engine's queue (R218, R249, R252, R293). -/
def State.placeCommand (s : State) (core : Nat) (c : EngCmd) : State :=
  match c with
  | .rack j => s.onCore core fun k => { k with rackQueue := k.rackQueue ++ [j] }
  | .press p => s.onCore core fun k => { k with pressQueue := k.pressQueue ++ [p] }.rerequest
  | .trel t => s.onTrellis (clusterOf core) fun x => { x with queue := x.queue ++ [t], last := some (s.now, core) }

/-- PERFORM_ENGINE_ENTRY (R281). -/
def execPerformEngineEntry (a : Agent) (e : Nat) (s : State) : Host.Outcome State Fault Refusal :=
  .next (match s.entryReady a e with
    | some ⟨_, _, _, _, _, .engine c, _, _⟩ =>
      if s.placeable (coreNo a) e c then (s.placeCommand (coreNo a) c).dropFrom a e else s
    | _ => s)

/-! ### Fences and waits (R279, R282) -/

/-- FENCE_DONE (R279); a slot that a pre-emption has halted keeps its fence, which is executed again (R185). -/
def execFenceDone (a : Agent) (s : State) : Host.Outcome State Fault Refusal :=
  .next (match (s.ctx a).ctl.hold with
    | some (.fence loadsOnly scope sp g before) =>
      if !(s.ctx a).ctl.quiesced ∧ fenceDone (s.ctx a).queue loadsOnly scope sp g (s.myRole a) before then s.advance a
      else s
    | _ => s)

/-- WAIT_DONE (R282); a slot that a pre-emption has halted keeps its wait, which is executed again (R230). -/
def execWaitDone (a : Agent) (s : State) : Host.Outcome State Fault Refusal :=
  .next (match (s.ctx a).ctl.hold with
    | some (.waitc off target) => if !(s.ctx a).ctl.quiesced ∧ s.reached a off target then s.issued a else s
    | some (.jobs ids) =>
      if (s.ctx a).ctl.quiesced ∨ (s.copiesOf (coreNo a)).any fun j => ids.contains j.id then s else s.issued a
    | _ => s)

/-! ### The racking engine's steps (R218, R220, R235) -/

/-- JOB_START: the head of the racking queue enters the in-flight set (R218). -/
def execJobStart (core : Nat) (s : State) : Host.Outcome State Fault Refusal :=
  .next (match (s.core core).rackQueue, (s.core core).freeEntry with
    | j :: rest, some idx =>
      if j.kind = .dictld ∨ s.saving j.launch then s
      else ((s.onCore core fun k => { k with rackQueue := rest }).startJob core idx j).wake core .racking
    | _, _ => s)

/-- Whether a job of a core is held, since a role that it touches moves to another core (R19). -/
def State.jobWaits (s : State) (core job : Nat) : Bool :=
  match (s.core core).jobOf? job with
  | some (_, j) => s.jobHeld j
  | none => false

/-- GRANULE_BYTE of a racking job, or of a press command's row reads (R281). -/
def execGranuleByte (press : Bool) (unit job g b m : Nat) (s : State) : Host.Outcome State Fault Refusal :=
  .next (if press then s.pressRead unit job g b else if s.jobWaits unit job then s else s.granuleByte unit job g b m)

/-- COUNT (R220, R281). -/
def execCount (core job m : Nat) (s : State) : Host.Outcome State Fault Refusal :=
  .next (if s.jobWaits core job then s else s.countGranule core job m)

/-- The 256 dictionary entries of 2 KiB of a slice (R235). -/
def Core.dictAt (k : Core) (off : Nat) : Table Nat Word :=
  (upFrom 0 256).map fun i => (i, k.sliceWord (off + 8 * i))

/-- The DICTLD that a core performs next: the head of its queue, or, while its group is being saved, the first that is queued
(R235, R389). -/
def State.nextDictld (s : State) (core : Nat) : Option Job :=
  match (s.core core).rackQueue with
  | [] => none
  | j :: rest =>
    if j.kind = .dictld then some j
    else if s.saving j.launch then rest.find? fun x => decide (x.kind = .dictld)
    else none

/-- DICTLD_PERFORM: with no RACKZ in flight, the dictionary is loaded; poison in the 2 KiB is raised at the instruction, whose
record is taken back (R174, R235, R315). -/
def execDictldPerform (core : Nat) (s : State) : Host.Outcome State Fault Refusal :=
  .next (match s.nextDictld core with
    | none => s
    | some j =>
      if (s.core core).inflight.any (fun p => p.2.kind.isCoder) then s
      else
        let a := Agent.slot core j.slot
        let waits := decide ((s.ctx a).ctl.hold = some (.command j.id))
        let s := (s.onCore core fun k =>
          { k with rackQueue := k.rackQueue.filter fun x => decide (x.id ≠ j.id) }).wake core .racking
        match (s.core core).slicePoison j.dictAt 2048 with
        | some p => if waits then (s.unrecord a).trap a Cause.poison (toWord (j.role * 2 ^ 18 + p)) else s
        | none =>
          let s := s.onCore core fun k => { k with dict := k.dictAt j.dictAt, dictGen := k.dictGen + 1 }
          if waits then s.issued a else s)

end Sys2Proof.Machine
end

