-- ==== Sys2Proof/Machine/Task.lean ====
section
/-! DEFINITION. The task instructions (R126 to R136). -/

namespace Sys2Proof.Machine

/-- YIELD: the slot competes in admission rounds and goes on after the YIELD (R129). -/
def execYield (s : State) : Host.Outcome State Fault Refusal :=
  .next (s.issue { } fun s =>
    s.finish fun c =>
      { c with
        ctl := { c.ctl with status := .yielded }
        act := { c.act with yieldedAt := s.now, aged := false } })

/-- RETIRE (R130). -/
def execRetire (s : State) : Host.Outcome State Fault Refusal :=
  .next (s.issue { delay := false } fun s => s.retire s.cur false)

/-- DONE (R58, R130). -/
def execDone (s : State) : Host.Outcome State Fault Refusal :=
  .next (s.issue { delay := false } fun s => s.retire s.cur true)

/-! ### SEND (R131) -/

/-- The message of a SEND with its payload. -/
def sendMsg (src : Nat) (ctl : Word) (payload : List Byte) : Msg :=
  ⟨0, wbits ctl 13 8, src, 0, wbits ctl 5 0, payload⟩

/-- A message enters the core's send queue, and its entry the slot's access queue, as a release (R131, R132). -/
def State.postMessage (s : State) (a : Agent) (dst : Nat) (m : Msg) : State :=
  let id := s.nextId
  (s.enqueue a fun id => ⟨id, false, true, .cellar, 0, .message dst m, none, none⟩).onCore (coreNo a) fun k =>
    { k with sendQueue := k.sendQueue ++ [(id, dst, m)] }

/-- Whether an effect is a message. -/
def Effect.isMessage : Effect → Bool
  | .message _ _ => true
  | _ => false

/-- Whether messages of sealed buffers wait for room in the send queue (R51). -/
def Core.msgsWait (k : Core) : Bool :=
  k.sealed.any fun b => b.rest.any Effect.isMessage

/-- Whether the send queue takes a message that issues now: it holds four, and those of sealed buffers come first (R51,
R131). -/
def Core.sendRoom (k : Core) : Bool :=
  !k.msgsWait && decide (k.sendQueue.length < 4)

/-- SEND: the designator, the control word, privilege, the payload's place and its footprint are checked in that order; an
atomic task buffers the message (R126, R131). -/
def execSend (d a b : BitVec 5) (k m : BitVec 1) (s : State) : Host.Outcome State Fault Refusal :=
  .next (s.issue { srcs := [srcX0 d, srcX a k, srcX b m] } fun s =>
    let des := s.me.x a
    let ctl := s.me.x b
    let off := s.me.x d
    let len := wbits ctl 13 8
    match s.resolve s.cur des with
    | none => s.trap s.cur Cause.protect des
    | some dst =>
      let check := firstFailure
        [failIf (decide (wbits ctl 63 14 ≠ 0) || decide (wbits ctl 7 6 ≠ 0) || decide (60 < len)) Cause.protect ctl,
         failIf (decide (wbits ctl 5 0 = 63) && !s.me.supervisor s.cur) Cause.priv 0,
         failIf (decide (0 < len) && badOwn off len) Cause.protect off,
         if len = 0 then none else footprintCheck (s.boxes s.cur) (s.myRole s.cur) off.toNat len]
      match check with
      | some (cause, f) => s.trap s.cur cause f
      | none =>
        if !s.atomic s.cur && !(s.core (coreNo s.cur)).sendRoom then s.stall s.cur .send
        else
          let go := fun (bs : List Byte) =>
            let msg := sendMsg (s.myRole s.cur) ctl bs
            if s.atomic s.cur then s.buffer s.cur 72 des [.message dst msg] fun s => s.finish id
            else (s.postMessage s.cur dst msg).finish id
          if len = 0 then go [] else s.withOwn s.cur off.toNat len go)

/-- RSLV (R127). -/
def execRslv (d a : BitVec 5) (k : BitVec 1) (s : State) : Host.Outcome State Fault Refusal :=
  .next (s.issue { srcs := [srcX a k], dsts := [.x d] } fun s =>
    match s.resolve s.cur (s.me.x a) with
    | some r => s.writeX d (toWord r)
    | none => s.trap s.cur Cause.protect (s.me.x a))

/-! ### SPAWN and DECR (R133, R134) -/

/-- SPAWN: TCB.JOIN is written and the codelet pushed, at once.  A join address of a role that the group has not is C.FADDR (R21);
for the other refusals R133 names no C.FADDR, and it is a free value (log entry 29). -/
def execSpawn (a b : BitVec 5) (k m : BitVec 1) (s : State) : Host.Outcome State Fault Refusal :=
  .next (s.issue { srcs := [srcX a k, srcX b m] } fun s =>
    let t := s.me.x a
    let j := s.me.x b
    let core := coreNo s.cur
    if t.toNat % 64 ≠ 0 ∨ 0x3FE80 < t.toNat ∨ (b ≠ 0 ∧ 2 ^ 30 ≤ j.toNat) then
      let (w, s) := s.freeWord
      s.trap s.cur Cause.protect w
    else if b ≠ 0 ∧ s.nroles s.cur ≤ caRole j.toNat then s.trap s.cur Cause.protect j
    else
      let off := t.toNat + 8
      match footprintCheck (s.boxes s.cur) (s.myRole s.cur) off 8 with
      | some (cause, f) => s.trap s.cur cause f
      | none =>
        if (s.core core).ringInput ≠ [] ∨ 256 ≤ (s.core core).ring.length then s.stall s.cur .ring
        else if !s.wordReady s.cur off false then s
        else
          let join := if b = 0 then 0 else toWord (2 ^ 63 + wbits j 29 0)
          ((s.onCore core (·.sliceStore off (wordToBytes join))).pushReady core (t.toNat / 64)).finish id)

/-- DECR: a posted decrement of a dependence counter, a release (R134). -/
def execDecr (a b : BitVec 5) (k m : BitVec 1) (s : State) : Host.Outcome State Fault Refusal :=
  .next (s.issue { srcs := [srcX a k, srcX b m] } fun s =>
    let ca := s.me.x a
    let n := if b = 0 then 1 else (s.me.x b).toNat
    let off := caOff ca.toNat / 8 * 8
    let check := firstFailure
      [failIf (decide (2 ^ 30 ≤ ca.toNat) || decide (s.nroles s.cur ≤ caRole ca.toNat)
          || decide (Config.sliceTop ≤ caOff ca.toNat)) Cause.protect ca,
       failIf (decide (n = 0)) Cause.protect (s.me.x b),
       footprintCheck (s.boxes s.cur) (caRole ca.toNat) off 8]
    match check with
    | some (cause, f) => s.trap s.cur cause f
    | none =>
      (s.enqueue s.cur fun id =>
        ⟨id, false, true, .cellar, ca.toNat / 8 * 8, .decr (s.wordLoc s.cur ca) n, none, none⟩).finish id)

/-! ### HTSET and HTGET (R135) -/

/-- Whether a selector is refused: reserved bits, or a SEL that is not below `groups` (Table 5-17). -/
def selectorBad (w : Word) (groups : Nat) : Bool :=
  decide (wbits w 63 11 ≠ 0) || decide (wbits w 7 6 ≠ 0) || decide (groups ≤ wbits w 10 8)

/-- The bits of X[b] that a field group uses (Table 5-18). -/
def groupMask (sel : Nat) : Word :=
  match sel with
  | 0 => 1
  | 1 => 1
  | 2 => 7
  | 3 => 0x00FFFFFFFFFFFFFC
  | 4 => 0x3FFC0
  | _ => 0x1F3FFC0

/-- Whether the value of an HTSET is refused. -/
def htValueBad (sel : Nat) (v : Word) : Bool :=
  decide (v &&& ~~~groupMask sel ≠ 0)
    || (decide (sel = 4) && decide (0x3FE80 < v.toNat))
    || (decide (sel = 5) && (decide (8 < wbits v 23 20)
      || (v.getLsbD 24 && mailboxBad (wbits v 17 6) (wbits v 23 20))))

/-- A field group written (Table 5-18); the PRIO of channel 63 stays 7 (R33). -/
def Handler.setGroup (h : Handler) (ch sel : Nat) (v : Word) : Handler :=
  match sel with
  | 0 => { h with en := v.getLsbD 0 }
  | 1 => { h with pend := v.getLsbD 0 }
  | 2 => { h with prio := if ch = 63 then h.prio else wbits v 2 0 }
  | 3 => { h with haddr := wbits v 55 2 }
  | 4 => { h with tcbp := wbits v 17 6 }
  | _ => { h with mbase := wbits v 17 6, mlog := wbits v 23 20, mv := v.getLsbD 24 }

/-- Whether a message has arrived on a channel of a core in this cycle. -/
def State.arrivedNow (s : State) (core ch : Nat) : Bool :=
  match (s.core core).mailLast.find? ch with
  | some (at_, _) => decide (at_ = s.now)
  | none => false

/-- HTSET: the selector, then privilege, then the value (R135).  A message that arrives in the cycle in which PEND is cleared arrives
after: PEND is what it has left (R138). -/
def execHtset (a b : BitVec 5) (k m : BitVec 1) (s : State) : Host.Outcome State Fault Refusal :=
  .next (s.issue { srcs := [srcX a k, srcX b m] } fun s =>
    let sel := s.me.x a
    let v := s.me.x b
    let ch := wbits sel 5 0
    let g := wbits sel 10 8
    let core := coreNo s.cur
    if selectorBad sel 6 then s.trap s.cur Cause.format sel
    else if ch = 63 ∧ !s.me.supervisor s.cur then s.trap s.cur Cause.priv 0
    else if htValueBad g v then s.trap s.cur Cause.format v
    else
      let s := if g = 5 then s.resetMailbox core ch else s
      let before := decide (g = 1) && !v.getLsbD 0 && s.arrivedNow core ch
      (s.onHandler core ch fun h => if before then h else h.setGroup ch g v).finish id)

/-- HTGET: a whole word of an entry (R135); the PRIO of channel 63 reads 7 (R33). -/
def execHtget (d a : BitVec 5) (k : BitVec 1) (s : State) : Host.Outcome State Fault Refusal :=
  .next (s.issue { srcs := [srcX a k], dsts := [.x d] } fun s =>
    let sel := s.me.x a
    let ch := wbits sel 5 0
    if selectorBad sel 2 then s.trap s.cur Cause.format sel
    else
      let h := (s.core (coreNo s.cur)).handler ch
      s.writeX d (if wbits sel 10 8 = 0 then h.ctlWord else h.bufWord))

/-! ### PUMPQ (R136) -/

/-- PUMPQ: the answer word is emptied as it issues, and the query sent (R54, R63). -/
def execPumpq (a : BitVec 5) (k : BitVec 1) (s : State) : Host.Outcome State Fault Refusal :=
  .next (s.issue { srcs := [srcX a k] } fun s =>
    let x := s.me.x a
    let core := coreNo s.cur
    let off := x.toNat / 8 * 8
    let pump := match s.group? (s.launchOf s.cur) with
      | some g => g.pump.isSome
      | none => false
    if s.atomic s.cur then s.trap s.cur Cause.mode 0
    else if Config.sliceTop ≤ x.toNat ∨ !pump then s.trap s.cur Cause.protect x
    else
      match footprintCheck (s.boxes s.cur) (s.myRole s.cur) off 8 with
      | some (cause, f) => s.trap s.cur cause f
      | none =>
        if 16 ≤ (s.core core).pumpOut then s.stall s.cur .pump
        else if !s.wordReady s.cur off false then s
        else
          let s := s.onCore core fun k => { k.setFull off false with pumpOut := k.pumpOut + 1 }
          let q : Query := ⟨core, s.myRole s.cur, off⟩
          (s.onGroup (s.launchOf s.cur) fun g =>
            { g with pump := g.pump.map fun p => { p with queries := p.queries ++ [q] } }).finish id)

end Sys2Proof.Machine
end

