-- ==== Sys2Proof/Machine/Admit.lean ====
section
/-! DEFINITION. Admission rounds, ageing, delivery of messages, pump answers, and the end of a role (R28, R35, R42 to R46,
R58 to R63). -/

namespace Sys2Proof.Machine

/-! ### Candidates (R42 to R45) -/

/-- A candidate with its effective priority, the cycle since which it is one, and its rank among those of one cycle. -/
structure Bid where
  cand : Cand
  prio : Nat
  since : Nat
  rank : Nat
deriving DecidableEq, Repr

/-- An effective priority: raised by one, to at most 7, once the wait has aged (R44). -/
def raised (prio : Nat) (aged : Bool) : Nat := min 7 (prio + b2n aged)

/-- The word at an offset of a TCB in a core's slice (Table 2-3). -/
def Core.tcbWord (k : Core) (tcb off : Nat) : Word := k.sliceWord (tcb + off)

/-- Whether a role admits activations: it has not executed DONE, and its group neither ends nor is being saved (R58, R387). -/
def State.admits (s : State) (core : Nat) : Bool :=
  match (s.core core).binding with
  | some b => b.admits && !b.ended && (match s.group? b.launch with
    | some g => decide (g.phase = .run)
    | none => false)
  | none => false

/-- Whether YIELDED slots of a core may be resumed, which an admission round does: its group runs (R43, R45, R387). -/
def State.resumes (s : State) (core : Nat) : Bool :=
  match (s.core core).binding with
  | some b => match s.group? b.launch with
    | some g => decide (g.phase = .run)
    | none => false
  | none => false

/-- The candidates of a core (R43). -/
def State.bids (s : State) (core : Nat) : List Bid :=
  let k := s.core core
  let chans := if s.admits core then
      ((upFrom 0 64).filter fun c => (k.handler c).ready).map fun c =>
        let h := k.handler c
        ⟨.chan c, raised h.prio h.aged, h.since, c⟩
    else []
  let slots := if s.resumes core then
      ((upFrom 0 8).filter fun n => decide ((s.ctx (.slot core n)).ctl.status = .yielded)
          && !(s.ctx (.slot core n)).ctl.quiesced).map fun n =>
        let c := s.ctx (.slot core n)
        ⟨.slot n, raised c.sp.eprio c.act.aged, c.act.yieldedAt, 64 + n⟩
    else []
  let ring := if s.admits core && !k.sched.getLsbD 0 then
      match k.ring with
      | t :: _ => [⟨.ring, raised (wbits (k.tcbWord (t * 64) 0) 62 60) k.ringAged, k.ringSince, 72⟩]
      | [] => []
    else []
  chans ++ slots ++ ring

/-- Whether a candidate is unmasked (R43). -/
def Core.unmasks (k : Core) (b : Bid) : Bool :=
  decide (wbits k.sched 10 8 ≤ b.prio) || decide (b.cand = .chan 63)

/-- The TCB of a candidate that starts an activation. -/
def Core.tcbOf (k : Core) : Cand → Nat
  | .chan c => (k.handler c).tcbp * 64
  | .ring => k.ring.headD 0 * 64
  | .slot _ => 0

/-- The lowest FREE slot of a core. -/
def State.freeSlot (s : State) (core : Nat) : Option Nat :=
  (upFrom 0 8).find? fun n => decide ((s.ctx (.slot core n)).ctl.status = .free)

/-- The bytes of a core's retire buffer that are reserved (R48, R52). -/
def State.reserved (s : State) (core : Nat) : Nat :=
  4096 * (((upFrom 0 8).filter fun n =>
    let c := s.ctx (.slot core n)
    decide (c.ctl.status ≠ .free) && c.act.ctl.getLsbD 63).length + (s.core core).sealed.length)

/-- Whether a candidate can be admitted in this round: a YIELDED slot always, for it needs no FREE slot (R45). -/
def State.canAdmit (s : State) (core : Nat) (b : Bid) : Bool :=
  match b.cand with
  | .slot _ => true
  | c =>
    (s.freeSlot core).isSome
      && (!((s.core core).tcbWord ((s.core core).tcbOf c) 0).getLsbD 63 || decide (s.reserved core + 4096 ≤ 16384))

/-- Whether a candidate is taken before another (R45). -/
def Bid.before (a b : Bid) : Bool :=
  decide (b.prio < a.prio)
    || (decide (a.prio = b.prio) && (decide (a.since < b.since) || (decide (a.since = b.since) && decide (a.rank < b.rank))))

/-- The candidate that is taken before every other. -/
def firstBid : List Bid → Option Bid
  | [] => none
  | b :: l =>
    match firstBid l with
    | some o => if o.before b then some o else some b
    | none => some b

/-- The candidate that an admission round takes (R45). -/
def State.winner (s : State) (core : Nat) : Option Bid :=
  if s.failing core then none
  else firstBid (((s.bids core).filter (s.core core).unmasks).filter (s.canAdmit core))

/-! ### Admission (R28, R36) -/

/-- The register files at the start of an activation (Table 2-1). -/
def Regs.start (x1 x2 x3 x4 : Word) : Regs :=
  { Regs.reset with
    x := ((((Vector.replicate 32 (0 : Word)).set 1 x1).set 2 x2).set 3 x3).set 4 x4 }

/-- The drained row of a notice in V24 to V31 (R262). -/
def Regs.withRow (r : Regs) (row : List VReg) : Regs :=
  { r with v := Vector.ofFn fun i : Fin 32 => if 24 ≤ i.val then row[i.val - 24]?.getD 0 else 0 }

/-- What an admission starts: where, from what source, and with what. -/
structure Start where
  id : Nat
  pc : Addr
  tcb : Nat
  x2 : Word
  source : Nat
  named : Bool
  drain : Option Nat
  row : Option (List VReg)
  fstat : Word
  eprio : Nat
deriving DecidableEq, Repr

/-- A context as an admission sets it (R28, R30, R121, R342). -/
def Ctx.started (c : Ctx) (k : Core) (a : Start) : Ctx :=
  let regs := Regs.start (toWord a.tcb) a.x2 (toWord a.source) (k.tcbWord a.tcb 0x10)
  { c with
    ctl := { Control.reset .running with pc := a.pc }
    regs := match a.row with
      | some vs => regs.withRow vs
      | none => regs
    trap := { c.trap with prog := 0, utvec := 0, uh := false }
    sp := { c.sp with
      fstat := a.fstat, tcb := toWord a.tcb, dtbase := 0, eprio := a.eprio, pl := decide (a.source = 63) }
    act := { Activation.none with
      id := a.id
      source := a.source
      named := a.named
      join := k.tcbWord a.tcb 8
      ctl := k.tcbWord a.tcb 0
      boxes := (upFrom 0 8).map fun i => k.tcbWord a.tcb (0x40 + 8 * i)
      drain := a.drain }
    tiles := Vector.replicate 8 ⟨0, 0⟩
    rackFault := 0
    pressFault := 0
    trelFault := 0
    cask := .none }

/-- FLAGS of a drain notice at a mailbox offset (Table 10-11). -/
def Core.noticeFlags (k : Core) (off : Nat) : Word := toWord (wbits (k.sliceWord off) 26 23)

/-- The row of a drain notice that an activation names: its drain-buffer entry.  The entry of a notice that an aborted activation
named has been freed (R262), and the spec gives no value for the row of the fresh activation of R53: it is a free value (log
entry 101). -/
def State.noticeRow (s : State) (k : Core) (drain : Option Nat) : Option (List VReg) × State :=
  match drain with
  | some e => (some (k.drain.get e []), s)
  | none =>
    (some ((upFrom 0 8).map fun i =>
      BitVec.ofNat 512 ((upFrom 0 8).foldl (fun v j => v * 2 ^ 64 + (Config.freeWord (s.fresh + 8 * i + j)).toNat) 0)),
      { s with fresh := s.fresh + 64 })

/-- A channel's activation (R28, R36, R262). -/
def State.admitChannel (s : State) (core n ch eprio : Nat) : State :=
  let k := s.core core
  let h := k.handler ch
  let named := h.mv && decide (0 < h.count)
  let off := h.slotOf h.head
  let notice := named && decide (ch = 0) && decide ((k.mailAt ch h.head).kind = 2)
  let drain := if notice then k.drainAt.find? h.head else none
  let (row, s) := if notice then s.noticeRow k drain else (none, s)
  let (id, s) := s.newId
  let st : Start :=
    ⟨id, BitVec.ofNat 56 (h.haddr * 4), h.tcbp * 64, if named then toWord off else BitVec.allOnes 64, ch, named, drain,
      row, if notice then k.noticeFlags off else 0, eprio⟩
  let s := s.onCtx (.slot core n) fun c => c.started k st
  let s := s.onHandler core ch fun h => { h with run := true, pend := false }
  match drain with
  | some _ => s.onCore core fun k => { k with drainAt := k.drainAt.erase h.head }
  | none => s

/-- A codelet's activation; the next entry of the ring becomes its head (R28, R40). -/
def State.admitCodelet (s : State) (core n eprio : Nat) : State :=
  let k := s.core core
  let tcb := k.tcbOf .ring
  let (id, s) := s.newId
  let st : Start :=
    ⟨id, BitVec.ofNat 56 (wbits (k.tcbWord tcb 0) 55 2 * 4), tcb, BitVec.allOnes 64, 64, false, none, none, 0, eprio⟩
  let s := s.onCtx (.slot core n) fun c => c.started k st
  (s.onCore core fun k => { k with ring := k.ring.drop 1, ringHead := (k.ringHead + 1) % 256, ringSince := s.now, ringAged := false }).wake core .ring

/-- ADMISSION: one round of a core (R45). -/
def execAdmission (core : Nat) (s : State) : Host.Outcome State Fault Refusal :=
  .next (match s.winner core with
    | none => s
    | some b =>
      match b.cand, s.freeSlot core with
      | .slot n, _ => s.onCtx (.slot core n) fun c => { c with ctl := { c.ctl with status := .running } }
      | .chan ch, some n => s.admitChannel core n ch b.prio
      | .ring, some n => s.admitCodelet core n b.prio
      | _, none => s)

/-- CANDIDATE_AGING: a candidate that has waited more than 4,096 cycles is raised, once (R44). -/
def execCandidateAging (core : Nat) (cand : Cand) (s : State) : Host.Outcome State Fault Refusal :=
  .next (match (s.bids core).find? fun b => decide (b.cand = cand) with
    | none => s
    | some b =>
      if s.now ≤ b.since + 4096 then s
      else
        match cand with
        | .chan c => s.onCore core fun k => { k with handlers := k.handlers.put c { k.handler c with aged := true } }
        | .slot n => s.onCtx (.slot core n) fun c => { c with act := { c.act with aged := true } }
        | .ring => s.onCore core fun k => { k with ringAged := true })

/-! ### Messages (R34, R35, R59, R262) -/

/-- Whether a message of the mesh is at the head of its channel: none before it from its role to its role and channel (R35,
R271). -/
def State.atHead (s : State) (m : MeshMsg) : Bool :=
  (s.mesh.takeWhile fun o => decide (o.id ≠ m.id)).all fun o =>
    !(decide (o.launch = m.launch) && decide (o.dst = m.dst) && decide (o.msg.src = m.msg.src)
      && decide (o.msg.channel = m.msg.channel))

/-- A message leaves the mesh. -/
def State.takeMsg (s : State) (id : Nat) : State :=
  { s with mesh := s.mesh.filter fun o => decide (o.id ≠ id) }

/-- The drain-buffer entry of a notice that is discarded is freed (R262). -/
def State.discardDrain (s : State) (core : Nat) (drain : Option Nat) : State :=
  match drain with
  | some e => s.onCore core fun k => { k with drain := k.drain.erase e }
  | none => s

/-- Whether the mailbox of a message has taken, in this cycle, one of a higher SRC: messages that arrive in one cycle are taken in
ascending SRC (R35). -/
def Core.afterHigher (k : Core) (m : Msg) (now : Nat) : Bool :=
  match k.mailLast.find? m.channel with
  | some (at_, src) => decide (at_ = now) && decide (m.src < src)
  | none => false

/-- A message arrives at its role (R35, R59). -/
def State.arrive (s : State) (core : Nat) (m : MeshMsg) : State :=
  let k := s.core core
  let h := k.handler m.msg.channel
  if (match k.binding with | some b => b.ended | none => false) then
    ((s.takeMsg m.id).discardDrain core m.drain).afterDone m.launch m.dst m.msg
  else if !h.mv then
    ((s.takeMsg m.id).discardDrain core m.drain).messageFault m.launch Cause.protect m.dst m.msg
  else if 2 ^ h.mlog ≤ h.count ∨ k.afterHigher m.msg s.now then s
  else
    let s := (s.takeMsg m.id).onCore core fun k =>
      let k := { k.sliceStore (h.slotOf h.tail) m.msg.image with
        mailLast := k.mailLast.put m.msg.channel (s.now, m.msg.src) }
      match m.drain with
      | some e => { k with drainAt := k.drainAt.put h.tail e }
      | none => k
    s.onHandler core m.msg.channel fun h => { h with tail := (h.tail + 1) % 512, pend := true }

/-- MAILBOX: the message of a number, at the head of its channel, is written into its mailbox or discarded; it waits while
the mailbox is full, behind a message that waits at a full mailbox of its receiver, and while the role is being saved or moves to
another core (R19, R35, R280; log entry 37). -/
def execMailbox (msg : Nat) (s : State) : Host.Outcome State Fault Refusal :=
  .next (match s.mesh.find? fun m => decide (m.id = msg) with
    | none => s
    | some m =>
      match s.coreOf? m.launch m.dst with
      | none => s
      | some core =>
        if s.atHead m ∧ !s.saving m.launch ∧ !s.movesAway m.launch m.dst
            ∧ !s.stalledBy (s.mesh.takeWhile fun o => decide (o.id ≠ m.id)) m.launch m.dst then
          s.arrive core m
        else s)

/-! ### The pump (R61 to R63) -/

/-- The bits that numbers below an extent take. -/
def extentBits (e : Nat) : Nat := if e ≤ 1 then 0 else (e - 1).log2 + 1

/-- The coordinates of a Morton code: its bits dealt to x, y and z in turn, skipping a dimension whose bits are used up;
`fuel` bounds the rounds, `p` is the place of the next bit. -/
def mortonCoords : Nat → Nat → Nat → Nat × Nat × Nat → Nat → Nat × Nat × Nat → Nat × Nat × Nat
  | 0, _, _, _, _, acc => acc
  | fuel + 1, code, bit, (bx, by_, bz), p, (x, y, z) =>
    let (x, p) := if bit < bx then (x + bits code p p * 2 ^ bit, p + 1) else (x, p)
    let (y, p) := if bit < by_ then (y + bits code p p * 2 ^ bit, p + 1) else (y, p)
    let (z, p) := if bit < bz then (z + bits code p p * 2 ^ bit, p + 1) else (z, p)
    mortonCoords fuel code (bit + 1) (bx, by_, bz) p (x, y, z)

/-- The first code from one on whose coordinates lie within the grid, and its coordinates; `fuel` bounds the codes passed. -/
def mortonFrom (p : Pump) : Nat → Nat → Option (Nat × (Nat × Nat × Nat))
  | 0, _ => none
  | fuel + 1, c =>
    let (x, y, z) := mortonCoords 16 c 0 (extentBits p.nx, extentBits p.ny, extentBits p.nz) 0 (0, 0, 0)
    if x < p.nx ∧ y < p.ny ∧ z < p.nz then some (c, (x, y, z)) else mortonFrom p fuel (c + 1)

/-- The coordinates of the next answer and the pump after it; none once the grid is exhausted (R61). -/
def Pump.next (p : Pump) : Option ((Nat × Nat × Nat) × Pump) :=
  if p.nx * p.ny * p.nz ≤ p.seq then none
  else
    let n := p.seq
    let go := { p with seq := n + 1 }
    match p.order with
    | 0 => some ((n % p.nx, n / p.nx % p.ny, n / (p.nx * p.ny)), go)
    | 1 =>
      let r := n / p.nx
      some ((if r % 2 = 0 then n % p.nx else p.nx - 1 - n % p.nx, r % p.ny, r / p.ny), go)
    | _ =>
      match mortonFrom p (2 ^ (extentBits p.nx + extentBits p.ny + extentBits p.nz) - p.code) p.code with
      | some (c, xyz) => some (xyz, { go with code := c + 1 })
      | none => none

/-- The answer word (Table 2-10, R62). -/
def Pump.answer (p : Pump) : Word × Pump :=
  match p.next with
  | some ((x, y, z), p') => (toWord (p.seq % 2 ^ 16 * 2 ^ 48 + z * 2 ^ 32 + y * 2 ^ 16 + x), p')
  | none => (BitVec.allOnes 64, p)

/-- Whether a query of a role may arrive now: queries that arrive in one cycle are taken in ascending role number (R63). -/
def Pump.mayTake (p : Pump) (now role : Nat) : Bool :=
  match p.last with
  | some (at_, r) => !(decide (at_ = now) && decide (role < r))
  | none => true

/-- PUMP_ANSWER: query `k` of those on their way arrives and is answered: its word is written and filled in one step (R63,
R284; log entry 50). -/
def execPumpAnswer (launch k : Nat) (s : State) : Host.Outcome State Fault Refusal :=
  .next (match s.group? launch with
    | none => s
    | some g =>
      match g.pump with
      | none => s
      | some p =>
        match p.queries[k]? with
        | none => s
        | some q =>
          match s.coreOf? launch q.role with
          | none => s
          | some core =>
            if !p.mayTake s.now q.role then s
            else
              let (w, p') := p.answer
              let s := s.onGroup launch fun g =>
                { g with pump := some { p' with queries := dropAt p.queries k, last := some (s.now, q.role) } }
              (s.onCore core fun c =>
                { c.sliceStore q.off (wordToBytes w) with pumpOut := c.pumpOut - 1 }).wake core .pump)

/-! ### The end of a role (R58, R60, R250) -/

/-- A cluster's barrier counter falls by one; at zero it reports to the dispatcher (R60). -/
def State.barrierDown (s : State) (cluster launch : Nat) : State :=
  let n := (s.cluster cluster).barrier.get launch 0 - 1
  let s := s.onCluster cluster fun cl => { cl with barrier := cl.barrier.put launch n }
  if n = 0 then s.onGroup launch fun g => { g with reported := insertNat cluster g.reported } else s

/-- ROLE_DONE: every activation of a role that executed DONE has ended; the role is marked done, its cluster's counter falls,
and UNLEASE is queued for it (R58, R250). -/
def execRoleDone (core : Nat) (s : State) : Host.Outcome State Fault Refusal :=
  .next (match (s.core core).binding with
    | none => s
    | some b =>
      if !b.ended || b.done || (slotsOf core).any fun a => decide ((s.ctx a).ctl.status ≠ .free) then s
      else
        let s := s.onCore core fun k => { k with binding := some { b with done := true } }
        let s := s.onGroup b.launch fun g => { g with doneRoles := insertNat b.role g.doneRoles }
        (s.barrierDown (clusterOf core) b.launch).queueUnlease core)

end Sys2Proof.Machine
end

