-- ==== Sys2Proof/Machine/Commit.lean ====
section
/-! DEFINITION. The commit of an atomic task's sealed buffer, and the way of its messages and racking commands into their
queues (R51, R52, R175, R239, R283). -/

namespace Sys2Proof.Machine

/-! ### Translating again (R175) -/

/-- What translating a buffered effect for its commit answers: its parts, the refusal that leaves it out, the address that
misses, or a page that a migration holds. -/
inductive Fate where
  | go (ps : List Part)
  | refused (cause : Nat)
  | miss (va : Nat)
  | held
deriving DecidableEq, Repr

/-- Translate for a commit, with the refusals that answered its misses (R175). -/
def State.commitXlate (s : State) (core slot va : Nat) : Xlate :=
  match s.translate (some core) (clusterOf core) (s.asidOf core) va .store with
  | .miss =>
    match (s.ctx (.slot core slot)).act.refused.find? fun r => decide (r.1 = va / 2 ^ 16) with
    | some r => .trap r.2
    | none => .miss
  | r => r

/-- The fate of the bytes of an effect, run by run. -/
def State.runFate (s : State) (core slot : Nat) : List (Nat × Nat) → List Part → Fate
  | [], acc => .go (joinParts acc.reverse)
  | (va, n) :: rs, acc =>
    match s.commitXlate core slot va with
    | .hit loc page ent => s.runFate core slot rs (⟨va, n, loc, page, ent⟩ :: acc)
    | .trap c => .refused c
    | .miss => .miss va
    | .held => .held

/-- The global bytes that an effect writes: its address and their number. -/
def Effect.bytes : Effect → Option (Nat × Nat)
  | .store va bs _ _ => some (va, bs.length)
  | .reduce va _ dbl _ => some (va, atomBytes dbl)
  | .message _ _ => none
  | .rack _ => none

/-- The fate of an effect: a message, or a racking command, needs no translation for its commit (R239). -/
def State.fateOf (s : State) (core slot : Nat) (f : Effect) : Fate :=
  match f.bytes with
  | some (va, n) => s.runFate core slot (runsOf va n) []
  | none => .go []

/-- Whether every effect has a translation or a refusal (R283). -/
def Fate.settled : Fate → Bool
  | .go _ => true
  | .refused _ => true
  | _ => false

/-- The misses of a commit are posted (R175, R367). -/
def State.postFates (s : State) (a : Agent) (fates : List Fate) : State :=
  fates.foldl (fun s f => match f with
    | .miss va => s.askMiss (clusterOf (coreNo a)) { s.missFor a va .store with asker := some (s.ctx a).act.id }
    | _ => s) s

/-! ### Performing (R51, R283) -/

/-- A buffered store or reduction performed at its home. -/
def State.storeRuns (s : State) (a : Agent) (nib : Option Bool) (vec : Bool) : List Part → List Byte → State
  | [], _ => s
  | p :: ps, bs => (s.storeAt a p.loc p.va (bs.take p.n) nib vec).storeRuns a nib vec ps (bs.drop p.n)

/-- A message of a committed buffer enters its core's send queue, under a number that no access queue holds: no entry of a slot
keeps it waiting any more (R283). -/
def State.queueCommitted (s : State) (core dst : Nat) (m : Msg) : State :=
  { s with nextId := s.nextId + 1 }.onCore core fun k => { k with sendQueue := k.sendQueue ++ [(s.nextId, dst, m)] }

/-- A committed message: into its mesh channel, as COMMIT places it (R283), when no earlier message of its core waits; else into
the send queue while that has room; else it stays in the sealed buffer (R51, R280). -/
def State.commitMessage (s : State) (core dst : Nat) (m : Msg) (rest : List Effect) : State × List Effect :=
  let k := s.core core
  if k.msgsWait ∨ rest.any Effect.isMessage then (s, rest ++ [.message dst m])
  else if k.sendQueue = [] then (s.toMesh (s.launchOf (.slot core 0)) dst m, rest)
  else if k.sendQueue.length < 4 then (s.queueCommitted core dst m, rest)
  else (s, rest ++ [.message dst m])

/-- A committed racking command, which issues now: into the racking queue when it has room and no earlier one of its core
waits; else it stays in the sealed buffer (R51, R239). -/
def State.commitRack (s : State) (core : Nat) (j : Job) (rest : List Effect) : State × List Effect :=
  let j := { j with id := s.nextId }
  let s := { s with nextId := s.nextId + 1 }
  if s.rackRoom core ∧ s.unplaced core EngCmd.isRack = [] ∧ !rest.any Effect.isRack then
    (s.onCore core fun k => { k with rackQueue := k.rackQueue ++ [j] }, rest)
  else (s, rest ++ [.rack j])

/-- One effect of a commit: performed, placed, kept waiting, or left out with an entry that names its address (R175, R283). -/
def State.commitEffect (s : State) (a : Agent) (f : Effect) (fate : Fate) (rest : List Effect) : State × List Effect :=
  match fate, f with
  | .refused cause, .store va _ _ _ => (s.roleFault a cause (toWord va), rest)
  | .refused cause, .reduce va _ _ _ => (s.roleFault a cause (toWord va), rest)
  | .go ps, .store _ bs nib vec => ((s.useParts a .store ps).storeRuns a nib vec ps bs, rest)
  | .go ps, .reduce va op dbl y =>
    match ps with
    | p :: _ =>
      let s := s.useParts a .store ps
      ({ s with nextId := s.nextId + 1 }.reduceAt a s.nextId p.loc va op dbl y, rest)
    | [] => (s, rest)
  | _, .message dst m => s.commitMessage (coreNo a) dst m rest
  | _, .rack j => s.commitRack (coreNo a) j rest
  | _, _ => (s, rest)

/-- The effects of a buffer in program order; the ones left are those that wait for room. -/
def State.commitAll (s : State) (a : Agent) (fs : List (Effect × Fate)) : State × List Effect :=
  fs.foldl (fun acc p => acc.1.commitEffect a p.1 p.2 acc.2) (s, [])

/-- Whether a sealed buffer may be committed as far as its activation's earlier accesses go (R283). -/
def Ctx.commitReady (c : Ctx) : Bool :=
  decide (c.ctl.hold = some .commit) && c.act.sealed
    && c.queue.all fun e => !(decide (c.act.id < e.id) && e.inDevice)

/-- Whether an access of the slot that has not been performed, of an earlier activation, touches a byte that an effect is performed at:
it comes first (R171). -/
def Ctx.touches (c : Ctx) (f : Fate) : Bool :=
  match f with
  | .go ps => c.queue.any fun e => match e.what.span with
    | some sp => ps.any fun p => meets sp (p.loc, p.n)
    | none => false
  | _ => false

/-- What waits of a sealed buffer keeps the core's reservation (R52). -/
def State.keepSealed (s : State) (core slot : Nat) (rest : List Effect) : State :=
  if rest = [] then s else s.onCore core fun k => { k with sealed := k.sealed ++ [⟨slot, rest⟩] }

/-! ### Sealed effects that wait (R51) -/

/-- The effects of a core's sealed buffers in order. -/
def Core.waitingEffects (k : Core) : List Effect := k.sealed.flatMap (·.rest)

/-- Effect `n` leaves the sealed buffers; an emptied one frees its reservation (R52). -/
def dropSealed : List SealedBuf → Nat → List SealedBuf
  | [], _ => []
  | b :: bs, n =>
    if n < b.rest.length then
      match dropAt b.rest n with
      | [] => bs
      | r => { b with rest := r } :: bs
    else b :: dropSealed bs (n - b.rest.length)

/-- Effect `n` of a core's sealed buffers enters its queue, if it is the first of its kind there and there is room; once no message
of a sealed buffer waits any more, a SEND that waits may find room (R51, R131). -/
def State.enqueueSealed (s : State) (core n : Nat) : State :=
  let k := s.core core
  let before := k.waitingEffects.take n
  let gone := fun (s : State) => s.onCore core fun k => { k with sealed := dropSealed k.sealed n }
  match k.waitingEffects[n]? with
  | some (.message dst m) =>
    if before.any Effect.isMessage ∨ 4 ≤ k.sendQueue.length then s
    else ((gone s).queueCommitted core dst m).wake core .send
  | some (.rack j) =>
    if before.any Effect.isRack ∨ 2 ≤ k.rackQueue.length ∨ s.unplaced core EngCmd.isRack ≠ [] then s
    else (gone s).onCore core fun k => { k with rackQueue := k.rackQueue ++ [j] }
  | _ => s

/-- SEALED_EFFECT_ENQUEUE (R51). -/
def execSealedEffectEnqueue (core k : Nat) (s : State) : Host.Outcome State Fault Refusal :=
  .next (s.enqueueSealed core k)

end Sys2Proof.Machine
end

