-- ==== Sys2Proof/Machine/Kill.lean ====
section
/-! DEFINITION. The end of a group: its completion, its completion word, and a kill (R241, R286, R384, R387, R388, R405). -/

namespace Sys2Proof.Machine

/-! ### Completion words (R379, R380, R384) -/

/-- A launch queue (Table 20-2). -/
def State.queue (s : State) (q : Nat) : LaunchQueue := s.dispatch.queues.get q LaunchQueue.init

/-- A launch queue changed. -/
def State.onQueue (s : State) (q : Nat) (f : LaunchQueue → LaunchQueue) : State :=
  { s with dispatch := { s.dispatch with queues := s.dispatch.queues.put q (f (s.queue q)) } }

/-- A queue enters QUEUE_ERROR with a reason, and its QERR bit is set (R379). -/
def State.queueError (s : State) (q reason : Nat) : State :=
  let s := s.onQueue q fun u => { u with stat := 2, reason := reason }
  { s with dispatch := { s.dispatch with qerr := s.dispatch.qerr ||| (1#256 <<< q) } }

/-- The MSI-X vector of a queue is raised (R420). -/
def State.raiseMsix (s : State) (q : Nat) : State :=
  { s with hostPort := { s.hostPort with msix := s.hostPort.msix ++ [q] } }

/-- The completion word of a group (R380). -/
def Group.completionWord (g : Group) (launch : Nat) : Word :=
  toWord (launch % 2 ^ 32 * 2 ^ 32 + min g.faults 0xFFFF * 2 ^ 16 + g.status % 256)

/-- The completion word of a group that has ended is written, after the entries of its fault record; it waits for a miss, and
one whose store fails is dropped and puts the queue in QUEUE_ERROR.  The MSI-X vector follows (R384, R420). -/
def State.complete (s : State) (launch : Nat) : State :=
  let s := s.flushFaults launch
  match s.group? launch with
  | none => s
  | some g =>
    if g.frecs ≠ [] then s
    else
      let va := (g.word 3).toNat
      let gone := fun (s : State) => ({ s with groups := s.groups.erase launch }).raiseMsix g.queue
      match s.dispRun g.partition g.asid va 8 .store with
      | some (.inl miss) => s.dispMiss g.partition g.asid miss .store
      | some (.inr _) => gone ((s.forgetRefusals g.asid va 8).queueError g.queue 5)
      | none => gone (s.dispStore g.partition g.asid va (wordToBytes (g.completionWord launch)))

/-! ### Freeing what a group holds (R295, R384, R385, R388) -/

/-- A core that no role holds; what outlives a binding is its micro-TLB, its place and its cycle count. -/
def Core.freed (k : Core) : Core :=
  { Core.init 0 with
    service := k.service, utlb := k.utlb, lastSlot := k.lastSlot, lastIssue := k.lastIssue, cycleBase := k.cycleBase }

/-- Cores freed by a ladder that a waiting launch started are held for that launch (R383). -/
def State.holdFor (s : State) (g : Group) : State :=
  match g.forQueue with
  | some q =>
    { s with dispatch := { s.dispatch with
        reserved := s.dispatch.reserved.put q (s.dispatch.reserved.get q [] ++ g.cores) } }
  | none => s

/-- The press of a core is free of its lease. -/
def State.dropLease (s : State) (core : Nat) : State :=
  if (s.core core).lease.held then s.endLease core true else s

/-- The cores and the pump of a group, and its cluster units, are freed (R295, R384, R388). -/
def State.freeCores (s : State) (launch : Nat) : State :=
  match s.group? launch with
  | none => s
  | some g =>
    let s := g.cores.foldl State.dropLease s
    let s := g.clusters.foldl (fun s c => s.onCluster c fun cl =>
      { cl with trellis := cl.trellis.leave launch, barrier := cl.barrier.erase launch }) s
    let s := g.cores.foldl (fun s c => s.onCore c Core.freed) (s.holdFor g)
    let s := { s with
      mesh := s.mesh.filter fun m => decide (m.launch ≠ launch)
      tree := s.tree.filter fun o => decide (o.launch ≠ launch) }
    s.onGroup launch fun g => { g with cores := [], pump := none }

/-- The tapes that wait PAUSED for a saved group return to SEALED (R327). -/
def Cluster.releaseTapes (cl : Cluster) (launch : Nat) : Cluster :=
  { cl with
    tapes := cl.tapes.map fun t =>
      if t.2.savedFor = some launch then (t.1, { t.2 with state := .sealed, owner := none, savedFor := none }) else t }

/-- The reclaims of tapes of a saved group are forgotten. -/
def State.forgetReclaims (s : State) (launch : Nat) : State :=
  { s with dispatch := { s.dispatch with reclaims := s.dispatch.reclaims.filter fun r => decide (r.1 ≠ launch) } }

/-- What a group keeps in its clusters while it is saved is released: its Trellises, and its PAUSED tapes (R309, R327,
R388). -/
def State.releaseSaved (s : State) (launch : Nat) : State :=
  { s.forgetReclaims launch with clusters := s.clusters.map fun c =>
      (c.1, { c.2.releaseTapes launch with trellis := c.2.trellis.leave launch }) }

/-- A group whose cores are free ends with a status: its completion word is written, or waits (R384). -/
def State.endGroup (s : State) (launch status : Nat) : State :=
  ((s.freeCores launch).onGroup launch fun g => { g with phase := .ending, status := status }).complete launch

/-! ### GROUP_COMPLETION (R60, R384) -/

/-- Whether nothing of a core's work is left: its access queues, its engine jobs, and what waits to enter an engine (R384). -/
def State.coreDrained (s : State) (core : Nat) : Bool :=
  let k := s.core core
  (slotsOf core).all (fun a => (s.ctx a).queue.isEmpty)
    && k.rackQueue.isEmpty && k.inflight.isEmpty && k.vecQueue.isEmpty && k.sendQueue.isEmpty && k.sealed.isEmpty
    && s.pressIdle core

/-- Whether a group's work has drained: its cores, its commands in Trellises, and its messages in the mesh. -/
def State.drained (s : State) (launch : Nat) (g : Group) : Bool :=
  g.cores.all s.coreDrained
    && g.clusters.all (fun c =>
      let t := (s.cluster c).trellis
      (t.queue.all fun x => decide (x.launch ≠ launch))
        && (match t.stream with
          | some st => decide (st.cmd.launch ≠ launch)
          | none => true))
    && s.mesh.all fun m => decide (m.launch ≠ launch)

/-- GROUP_COMPLETION: a complete group whose work has drained ends, in SAVING too, for saving a completed group is forbidden
(Table 20-9); one that has ended writes its completion word when it can (R384). -/
def execGroupCompletion (launch : Nat) (s : State) : Host.Outcome State Fault Refusal :=
  .next (match s.group? launch with
    | none => s
    | some g =>
      match g.phase with
      | .ending => if g.cores = [] then s.complete launch else s
      | .run => if g.complete ∧ s.drained launch g then s.endGroup launch (if g.afterDone then 0x12 else 0) else s
      | .soft => if g.complete ∧ s.drained launch g then s.endGroup launch (if g.afterDone then 0x12 else 0) else s
      | .saving => if g.complete ∧ s.drained launch g then s.endGroup launch (if g.afterDone then 0x12 else 0) else s
      | .saved => s)

/-! ### KILL (R286, R405) -/

/-- Every byte of a granule of a copy, or of a block of a coder, in the order in which the engine needs them. -/
def State.runGranule (s : State) (core : Nat) (j : Job) (g : Nat) : State :=
  if j.kind.isCopy then
    (upFrom 0 j.receivers).foldl (fun s m =>
      (granuleBytes j.cellsA.length j.da.width g).foldl (fun s b => s.granuleByte core j.id g b m) s) s
  else
    let reads := (upFrom 0 580).foldl (fun s i => s.granuleByte core j.id g i 0) s
    (upFrom 0 580).foldl (fun s i => s.granuleByte core j.id g (coderWrite + i) 0) reads

/-- The granules of a job that are done are counted at every receiver, in order. -/
def State.countDone (s : State) (core : Nat) (j : Job) : State :=
  (upFrom 0 j.receivers).foldl (fun s m => (upFrom 0 j.granules).foldl (fun s _ => s.countGranule core j.id m) s) s

/-- The granules of a job that have begun to be written are performed in full and counted, at every receiver; the others are not
performed (R241). -/
def State.finishGranules (s : State) (core : Nat) (j : Job) : State :=
  let begun := (upFrom 0 j.granules).filter fun g =>
    (upFrom 0 j.receivers).any (fun m => decide (j.writtenAt g m ≠ [])) || decide ((j.block g).written ≠ [])
  (begun.foldl (fun s g => s.runGranule core j g) s).countDone core j

/-- A racking command that a kill finds on its way to its queue: it is placed, and stops having performed none, some or all of its
granules (R241, R286). -/
def State.killJob (s : State) (core : Nat) (j : Job) : State :=
  match (s.core core).freeEntry with
  | none => s
  | some idx =>
    let (w, s) := s.freeWord
    let s := s.startJob core idx j
    let s := (upFrom (j.start / 512) (w.toNat % (j.granules + 1))).foldl (fun s g => s.runGranule core j g) s
    (s.countDone core j).onCore core fun k => { k with inflight := k.inflight.erase idx }

/-- What an entry of a killed context does when it is performed: at its home, where a racking command behind it finds it.  What only
the group's own messages, handler tables and operations hold ends with it; a press command is discarded and a Trellis command stops
(R269, R286, R309). -/
def State.killEffect (s : State) (a : Agent) (e : Entry) : State :=
  match e.what with
  | .atomic _ loc op dbl y cmp => (s.atomicGot e loc op dbl y cmp).2
  | .engine (.rack j) => s.killJob (coreNo a) j
  | .inject _ _ => s
  | .credit _ _ => s
  | _ => s.postedEffect a e

/-- The entries of a killed context in order: a load is discarded, any other is performed or dropped as a whole, as a free choice,
and one that must follow a dropped one, or that may not be performed, is dropped (R275, R286, R405).  A reduction that has left as a
packet is performed by it, and nothing that must follow it is. -/
def State.killEntries (s : State) (a : Agent) (dropped : List Entry) : List Entry → State
  | [] => s
  | e :: es =>
    if s.inPacket e.id then s.killEntries a (e :: dropped) es
    else
      let (keep, s) := s.freeBit
      let behind := dropped.any fun f => mustFollow f e || decide (e.chain = some f.id)
      if behind || (!e.isLoad && (!keep || !s.homeReady a e)) then s.killEntries a (e :: dropped) es
      else (s.killEffect a e).killEntries a dropped es

/-- A started press command completes, which the rest of the cluster and the group fault record can show; queued ones are discarded
(R269). -/
def State.killPress (s : State) (core : Nat) : State :=
  ((s.finishPress core).dropLease core).onCore core fun k =>
    { k with pressQueue := [], lease := Lease.none, latched := none }

/-- Whether a slot waits for the commit of its sealed buffer. -/
def Ctx.committing (c : Ctx) : Bool := decide (c.ctl.hold = some .commit) && c.act.sealed

/-- The contexts of a core are removed but for those whose sealed buffer is still to be committed (R51, R286). -/
def State.killSlots (s : State) (core : Nat) (cause : Nat) : State :=
  (upFrom 0 8).foldl (fun s n =>
    let a := Agent.slot core n
    let s := s.killEntries a [] (s.ctx a).queue
    let s := s.onCtx a fun c => { c with queue := [], loads := [] }
    if (s.ctx a).ctl.status = .free ∨ (s.ctx a).committing then s else s.endActivation core n (.requeue cause)) s

/-- What a core of a killed or quarantined context stops: its slots, its engine jobs at granule boundaries, its press commands
(R241, R269, R286). -/
def State.stopCore (s : State) (core cause : Nat) : State :=
  let s := (s.core core).inflight.foldl (fun s p => s.finishGranules core p.2) s
  let s := (s.killPress core).killSlots core cause
  s.onCore core fun k =>
    { k with rackQueue := [], inflight := [], vecQueue := [], sendQueue := [], ringInput := [] }

/-- The Trellises of some clusters drop a group's commands and stop its stream, whose end messages are not sent (R309). -/
def State.dropTrellis (s : State) (clusters : List Nat) (launch : Nat) : State :=
  clusters.foldl (fun s c => s.onTrellis c (·.drop launch)) s

/-- A killed group whose sealed buffers have committed ends with status 0x16 (R51, R387). -/
def State.finishKill (s : State) (launch : Nat) : State :=
  match s.group? launch with
  | some g =>
    if g.phase = .ending ∧ g.cores ≠ [] ∧ g.cores.all (fun c => (slotsOf c).all fun a => decide ((s.ctx a).ctl.status = .free)) then
      s.endGroup launch Cause.kill
    else s
  | none => s

/-- A group is killed (R387, R388); a saved one without being resumed. -/
def State.kill (s : State) (launch : Nat) : State :=
  match s.group? launch with
  | none => s
  | some g =>
    if g.phase = .ending then s
    else
      let s := s.onGroup launch fun g => { g with phase := .ending, status := Cause.kill }
      if g.cores = [] then (s.releaseSaved launch).complete launch
      else ((g.cores.foldl (fun s c => s.stopCore c Cause.kill) s).dropTrellis g.clusters launch).finishKill launch

/-- The kill timer of the ladder: TKILL, or TGRACE + 1 where it is not greater than TGRACE (Table 20-1). -/
def Dispatch.killAfter (d : Dispatch) : Nat := max d.tkill.toNat (d.tgrace.toNat + 1)

/-! ### COMMIT (R283) -/

/-- COMMIT: a sealed buffer is committed in one step, and its activation ends; in a killed group it ends as aborted, and the
last one ends the group (R51, R52, R175).  R51 has the buffer of a killed group committed in full, and R241 and R286 let a kill stop a
job before its first granule: that its racking commands perform none is the model's choice (log entry 124). -/
def State.commit (s : State) (core slot : Nat) : State :=
  let a := Agent.slot core slot
  let fates := (s.ctx a).act.buffer.map (s.fateOf core slot)
  if !(s.ctx a).commitReady then s
  else if !fates.all Fate.settled then s.postFates a fates
  else if fates.any (s.ctx a).touches then s
  else
    let launch := s.launchOf a
    let (s, rest) := s.commitAll a ((s.ctx a).act.buffer.zip fates)
    let killed : Bool := match s.group? launch with
      | some g => decide (g.phase = .ending)
      | none => true
    if killed then (s.endActivation core slot (.requeue Cause.kill)).finishKill launch
    else (s.endActivation core slot .retire).keepSealed core slot rest

/-- COMMIT (R283). -/
def execCommit (a : Agent) (s : State) : Host.Outcome State Fault Refusal :=
  .next (match a with
    | .slot n k => s.commit n k
    | _ => s)

end Sys2Proof.Machine
end

