-- ==== Sys2Proof/Machine/Launch.lean ====
section
/-! DEFINITION. Launch queues, launch records and group images, the binding and start of a group, slices, and the soft request
of the ladder (R15 to R17, R377 to R387). -/

namespace Sys2Proof.Machine

/-! ### QCFG (Table 20-1) -/

/-- QCFG of a queue. -/
def State.qcfg (s : State) (q : Nat) : Word := s.dispatch.qcfg.get q 0

/-- EN of a queue. -/
def State.qEnabled (s : State) (q : Nat) : Bool := (s.qcfg q).getLsbD 63

/-- PRIO of a queue. -/
def State.qPrio (s : State) (q : Nat) : Nat := wbits (s.qcfg q) 34 32

/-- ASID of a queue. -/
def State.qAsid (s : State) (q : Nat) : Nat := wbits (s.qcfg q) 31 16

/-- TENANT of a queue. -/
def State.qTenant (s : State) (q : Nat) : Nat := wbits (s.qcfg q) 7 0

/-- The partition whose cellarer core last wrote a queue's QCFG (R399). -/
def State.qPartition (s : State) (q : Nat) : Nat := s.dispatch.qpart.get q 0

/-- Whether containment has frozen a queue (R404). -/
def State.qFrozen (s : State) (q : Nat) : Bool := s.dispatch.frozen.contains (s.qPartition q)

/-! ### Doorbells and fetching (R378, R379) -/

/-- Whether a size of a ring is accepted. -/
def ringSizeOk (n : Nat) : Bool := (upFrom 12 13).any fun k => decide (n = 2 ^ k)

/-- The distance of QWIDX after QRIDX. -/
def LaunchQueue.waiting (u : LaunchQueue) (upTo : Nat) : Nat :=
  (upTo + 2 * u.size.toNat - u.ridx.toNat % (2 * u.size.toNat)) % (2 * u.size.toNat)

/-- What validating a doorbell finds: the reason of the first failure, an address that misses, or that all is well (R379). -/
def State.ringCheck (s : State) (q : Nat) : Option (Nat ⊕ Nat) :=
  let u := s.queue q
  if !ringSizeOk u.size.toNat then some (.inr 1)
  else if u.base.toNat % 4096 ≠ 0 ∨ 2 ^ 56 ≤ u.base.toNat then some (.inr 2)
  else
    match s.dispRun (s.qPartition q) (s.qAsid q) u.base.toNat u.size.toNat .load with
    | some (.inr _) => some (.inr 3)
    | some (.inl miss) => some (.inl miss)
    | none =>
      if u.widx.toNat % 64 ≠ 0 ∨ 2 * u.size.toNat ≤ u.widx.toNat ∨ u.size.toNat < u.waiting u.widx.toNat then some (.inr 4)
      else none

/-- A doorbell: ignored in QUEUE_ERROR and with EN = 0, recorded while its queue is frozen or a page misses, else validated
(R379, R404). -/
def State.doorbell (s : State) (q : Nat) : State :=
  let u := s.queue q
  if !s.qEnabled q ∨ u.stat = 2 then s.onQueue q fun u => { u with ring := false }
  else if s.qFrozen q then s.onQueue q fun u => { u with ring := true }
  else
    let forget := fun (s : State) => s.forgetRefusals (s.qAsid q) u.base.toNat u.size.toNat
    match s.ringCheck q with
    | some (.inl miss) =>
      (s.onQueue q fun u => { u with ring := true }).dispMiss (s.qPartition q) (s.qAsid q) miss .load
    | some (.inr reason) => (forget (s.onQueue q fun u => { u with ring := false })).queueError q reason
    | none => s.onQueue q fun u => { u with ring := false, stat := 1, valid := u.widx.toNat }

/-- DOORBELL (R379). -/
def execDoorbell (q : Nat) (s : State) : Host.Outcome State Fault Refusal :=
  .next (if q < 256 then s.doorbell q else s)

/-- QRESET sets QRIDX := 0 and QSTAT := IDLE, and clears the queue's QERR bit (Table 20-2). -/
def State.resetQueue (s : State) (q : Nat) : State :=
  let s := s.onQueue q fun u => { u with ridx := 0, stat := 0, reason := 0, valid := 0 }
  { s with dispatch := { s.dispatch with qerr := s.dispatch.qerr &&& ~~~(1#256 <<< q) } }

/-- QRESET (R378). -/
def execQreset (q : Nat) (s : State) : Host.Outcome State Fault Refusal :=
  .next (if q < 256 then s.resetQueue q else s)

/-! ### Cores for a binding (R10, R16, R383, R399) -/

/-- The cores that are free for a queue's launch, or for a resumption (`none`): enabled, of a cluster in service in the
partition, bound to no role, and held for no other launch. -/
def State.freeFor (s : State) (part : Nat) (q : Option Nat) (core : Nat) : Bool :=
  let c := clusterOf core
  decide (c < Config.clusters) && decide ((s.core core).service = .enabled) && (s.core core).binding.isNone
    && decide (s.partOfCluster c = part) && !s.parts.spare.contains c && !s.parts.quar.contains c
    && s.dispatch.reserved.all fun r => decide (some r.1 = q) || !r.2.contains core

/-- The die of a core. -/
def dieOf (core : Nat) : Nat := clusterOf core / Config.clustersPerDie

/-- The pumps of a die that groups hold (Table 1-3). -/
def State.pumpsOf (s : State) (die : Nat) : Nat :=
  (s.groups.filter fun g => g.2.pump.isSome && (match g.2.cores with
    | c :: _ => decide (dieOf c = die)
    | [] => false)).length

/-- Whether a die has a pump free. -/
def State.pumpFree (s : State) (die : Nat) : Bool := decide (s.pumpsOf die < 64)

/-- Whether the cores of a binding, by role, obey R16. -/
def bindingOk (cores : List Nat) : Bool :=
  let at_ := fun r => cores[r]?.getD 0
  (upFrom 0 cores.length).all fun r => (upFrom 0 r).all fun q =>
    decide (at_ q ≠ at_ r) && (decide (q / 16 = r / 16) == decide (clusterOf (at_ q) = clusterOf (at_ r)))
      && (decide (q / 1024 = r / 1024) == decide (dieOf (at_ q) = dieOf (at_ r)))

/-- The numbers of free cores of the clusters of a die. -/
def State.freeCounts (s : State) (part : Nat) (q : Option Nat) (die : Nat) : List Nat :=
  (upFrom (die * Config.clustersPerDie) Config.clustersPerDie).map fun c =>
    ((coresOf c).filter (s.freeFor part q)).length

/-- Whether a die has room for `n` roles, 16 to a cluster. -/
def State.dieFits (s : State) (part : Nat) (q : Option Nat) (n die : Nat) : Bool :=
  let counts := s.freeCounts part q die
  decide (n / 16 ≤ (counts.filter fun k => decide (16 ≤ k)).length)
    && (decide (n % 16 = 0) || decide (n / 16 + 1 ≤ (counts.filter fun k => decide (n % 16 ≤ k)).length))

/-- Whether dies can be found for the parts of a group, each on a die of its own. -/
def diesFit (ok : Nat → Nat → Bool) : List Nat → List Nat → Bool
  | [], _ => true
  | n :: ns, dies => dies.any fun d => ok n d && diesFit ok ns (dies.filter (· ≠ d))

/-- Whether enough cores, and a pump if one is wanted, are free for a binding (R16, R383). -/
def State.fits (s : State) (part : Nat) (q : Option Nat) (nroles : Nat) (pv : Bool) : Bool :=
  let sizes := (upFrom 0 ((nroles + 1023) / 1024)).map fun m => min 1024 (nroles - 1024 * m)
  match sizes with
  | [] => true
  | n :: ns =>
    (upFrom 0 4).any fun d =>
      s.dieFits part q n d && (!pv || s.pumpFree d)
        && diesFit (fun n d => s.dieFits part q n d) ns ((upFrom 0 4).filter (· ≠ d))

/-- Whether given cores can be a binding of `nroles` roles. -/
def State.bindable (s : State) (part : Nat) (q : Option Nat) (nroles : Nat) (pv : Bool) (cores : List Nat) : Bool :=
  decide (cores.length = nroles) && cores.all (s.freeFor part q) && bindingOk cores
    && (!pv || s.pumpFree (dieOf (cores.headD 0)))

/-! ### Group images (R381, R382) -/

/-- A section of an image (Table 20-4). -/
structure Section where
  kind : Nat
  first : Nat
  last : Nat
  off : Nat
  a : Word
  b : Word
deriving DecidableEq, Repr

/-- A group image. -/
structure Image where
  nroles : Nat
  nstages : Nat
  pump : Option Pump
  stages : List Nat
  sections : List Section
deriving DecidableEq, Repr

/-- What reading an image finds: an address that misses, a refusal with the run that failed, or the image. -/
inductive ImageRead where
  | wait (va : Nat)
  | refuse (status va n : Nat)
  | ok (img : Image)
deriving DecidableEq, Repr

/-- Bytes of an image read through the queue's translation (R382). -/
def State.withImage (s : State) (part asid va n : Nat) (k : List Byte → ImageRead) : ImageRead :=
  match s.dispRun part asid va n .load with
  | some (.inl miss) => .wait miss
  | some (.inr _) => .refuse Cause.pageFault va n
  | none => k (s.dispRead part asid va n)

/-- The bytes that a save area needs (R391). -/
def saveBytes (nroles : Nat) : Nat := 0x1000 + 0x70000 * nroles + 0x180000 * ((nroles + 15) / 16)

/-- Whether the header of an image, or SLEN, is refused; ORDER and the extents are refused with PV = 0 too (Table 20-4, R382). -/
def headerBad (w : List Word) (slen : Nat) : Bool :=
  let nroles := wbits (blk w 1) 12 0
  let nstages := wbits (blk w 1) 20 16
  decide (blk w 0 ≠ 1) || decide (wbits (blk w 1) 63 21 ≠ 0) || decide (wbits (blk w 1) 15 13 ≠ 0)
    || decide (nroles = 0) || decide (4096 < nroles) || decide (nstages = 0) || decide (16 < nstages)
    || decide (wbits (blk w 2) 62 50 ≠ 0) || decide (wbits (blk w 5) 63 16 ≠ 0) || decide (blk w 6 ≠ 0) || decide (blk w 7 ≠ 0)
    || decide (wbits (blk w 2) 49 48 = 3) || decide (wbits (blk w 2) 47 32 = 0) || decide (wbits (blk w 2) 31 16 = 0)
    || decide (wbits (blk w 2) 15 0 = 0)
    || decide (slen < saveBytes nroles)

/-- The pump that a header asks for. -/
def headerPump (w : List Word) : Option Pump :=
  let x := blk w 2
  if x.getLsbD 63 then some ⟨wbits x 15 0, wbits x 31 16, wbits x 47 32, wbits x 49 48, 0, 0, [], none⟩ else none

/-- Whether stages break R15: one beyond NSTAGES, or a declared stage without a role. -/
def stagesBad (nstages : Nat) (stages : List Nat) : Bool :=
  stages.any (fun t => decide (nstages ≤ t)) || !(upFrom 0 nstages).all stages.contains

/-- A section entry. -/
def sectionOf (w : List Word) : Section :=
  ⟨wbits (blk w 1) 63 62, wbits (blk w 1) 43 32, wbits (blk w 1) 59 48, wbits (blk w 1) 17 0, blk w 0, blk w 2⟩

/-- Whether a section entry is refused (R382). -/
def sectionBad (nroles : Nat) (w : List Word) : Bool :=
  let x := sectionOf w
  decide (2 ≤ x.kind) || decide (x.last < x.first) || decide (nroles ≤ x.last)
    || decide (wbits (blk w 1) 61 60 ≠ 0) || decide (wbits (blk w 1) 47 44 ≠ 0) || decide (wbits (blk w 1) 31 18 ≠ 0)
    || decide (blk w 3 ≠ 0)
    || (decide (x.kind = 0) && decide (Config.sliceTop < x.off + x.b.toNat))
    || (decide (x.kind = 1)
      && (decide (63 ≤ x.off) || decide (wbits x.a 57 56 ≠ 0) || decide (wbits x.a 1 0 ≠ 0)
        || decide (wbits x.b 34 25 ≠ 0) || decide (wbits x.b 15 9 ≠ 0) || decide (8 < wbits x.b 39 36)
        || (x.b.getLsbD 35 && mailboxBad (wbits x.b 51 40) (wbits x.b 39 36))))

/-- The words of bytes in pieces of four. -/
def fours : List Word → List (List Word)
  | a :: b :: c :: d :: rest => [a, b, c, d] :: fours rest
  | _ => []

/-- The first section whose data cannot be read. -/
def State.dataCheck (s : State) (part asid : Nat) : List Section → ImageRead → ImageRead
  | [], r => r
  | x :: xs, r =>
    if x.kind = 0 then s.withImage part asid x.a.toNat x.b.toNat fun _ => s.dataCheck part asid xs r
    else s.dataCheck part asid xs r

/-- The image of a launch record, read and checked (R381, R382). -/
def State.imageOf (s : State) (part asid : Nat) (record : List Word) : ImageRead :=
  s.withImage part asid (blk record 0).toNat 64 fun hd =>
    let w := wordsOfBytes hd
    if headerBad w (blk record 2).toNat then .refuse Cause.format 0 0
    else
      let nroles := wbits (blk w 1) 12 0
      let nstages := wbits (blk w 1) 20 16
      s.withImage part asid (blk w 3).toNat nroles fun st =>
        let stages := st.map BitVec.toNat
        if stagesBad nstages stages then .refuse Cause.format 0 0
        else
          s.withImage part asid (blk w 4).toNat (32 * wbits (blk w 5) 15 0) fun tab =>
            let entries := fours (wordsOfBytes tab)
            if entries.any (sectionBad nroles) then .refuse Cause.format 0 0
            else
              let sections := entries.map sectionOf
              s.dataCheck part asid sections (.ok ⟨nroles, nstages, headerPump w, stages, sections⟩)

/-! ### Slices and debt (R385, R386) -/

/-- A group's slice starts: its length and what is left of its tenant's debt (R386). -/
def State.startSlice (s : State) (launch : Nat) : State :=
  match s.group? launch with
  | none => s
  | some g =>
    let full := (s.dispatch.slice.get g.tenant 1250000).toNat
    let debt := (s.dispatch.debt.get g.tenant 0).toNat
    let n := max (full - debt) (full / 4)
    let s := { s with dispatch := { s.dispatch with debt := s.dispatch.debt.put g.tenant (toWord (debt - (full - n))) } }
    s.onGroup launch fun g => { g with sliceAt := s.now, sliceLen := n }

/-! ### The soft request (R53, R387) -/

/-- A group in RUN enters SOFT: admissions stop, and its unsealed atomic activations are aborted with TCB.CAUSE := 0
(Table 20-5). -/
def State.soften (s : State) (launch : Nat) (forQueue : Option Nat) : State :=
  match s.group? launch with
  | none => s
  | some g =>
    if g.phase ≠ .run then s
    else
      let s := s.onGroup launch fun g => { g with phase := .soft, softAt := s.now, forQueue := forQueue }
      g.cores.foldl (fun s core => (upFrom 0 8).foldl (fun s n =>
        let c := s.ctx (.slot core n)
        if c.ctl.status ≠ .free ∧ c.act.ctl.getLsbD 63 ∧ !c.act.sealed then s.endActivation core n (.requeue 0) else s) s) s

/-- PREQ: the ladder starts for a group in RUN; any other is ignored (R387). -/
def execPreq (v : Word) (s : State) : Host.Outcome State Fault Refusal :=
  .next (s.soften (wbits v 31 0) none)

/-! ### Waiting launches (R383, R385) -/

/-- The record that a queue's next launch is. -/
def State.headRecord (s : State) (q : Nat) : Option (List Word) := (s.queue q).records.head?

/-- The image of a queue's next launch. -/
def State.headImage (s : State) (q : Nat) : Option ImageRead :=
  (s.headRecord q).map fun r => s.imageOf (s.qPartition q) (s.qAsid q) r

/-- Whether the dispatcher may take a queue's launches: its partition is not frozen, and it has an ASID, for ASID 0 is never given to
a group (R363, R404; log entry 116). -/
def State.qOpen (s : State) (q : Nat) : Bool := !s.qFrozen q && decide (s.qAsid q ≠ 0)

/-- Whether a queue's next launch waits for cores. -/
def State.waitsForCores (s : State) (q : Nat) : Bool :=
  s.qOpen q && match s.headImage q with
    | some (.ok img) => !s.fits (s.qPartition q) (some q) img.nroles img.pump.isSome
    | _ => false

/-- Whether a ladder is under way for a queue's next launch. -/
def State.ladderFor (s : State) (q : Nat) : Bool :=
  s.groups.any fun g => decide (g.2.forQueue = some q) && (decide (g.2.phase = .soft) || decide (g.2.phase = .saving))

/-- Whether a queue's next launch would find cores with those of a group free. -/
def State.fitsWithout (s : State) (q : Nat) (g : Group) : Bool :=
  match s.headImage q with
  | some (.ok img) =>
    let s := g.cores.foldl (fun s c => s.onCore c fun k => { k with binding := none }) s
    s.fits (s.qPartition q) (some q) img.nroles img.pump.isSome
  | _ => false

/-- The running groups that hold the cores a waiting launch needs: those whose cores let it start, or, where those of no one group do,
every group of its partition (R385; log entry 52). -/
def State.holders (s : State) (q : Nat) : List (Nat × Group) :=
  let all := s.groups.filter fun g =>
    decide (g.2.phase = .run) && decide (g.2.partition = s.qPartition q) && decide (g.2.cores ≠ [])
  let alone := all.filter fun g => s.fitsWithout q g.2
  if alone = [] then all else alone

/-- The group that a waiting launch pre-empts: of those that hold the cores it needs the lowest PRIO, and among equals the earliest
slice (R385). -/
def State.victim (s : State) (q : Nat) : Option (Nat × Group) :=
  (s.holders q).foldl
    (fun (best : Option (Nat × Group)) g =>
      match best with
      | none => some g
      | some b => if g.2.prio < b.2.prio ∨ (g.2.prio = b.2.prio ∧ g.2.sliceAt < b.2.sliceAt) then some g else some b) none

/-- A waiting launch of higher PRIO than its victim's starts the ladder at once (R385). -/
def State.press (s : State) (q : Nat) : State :=
  if s.waitsForCores q ∧ !s.ladderFor q then
    match s.victim q with
    | some (l, g) => if g.prio < s.qPrio q then s.soften l (some q) else s
    | none => s
  else s

/-- Every queue's next launch looks for cores, the highest PRIO first. -/
def State.pressAll (s : State) : State :=
  (upFrom 0 8).foldl (fun s p => (s.dispatch.queues.map Prod.fst).foldl (fun s q =>
    if s.qPrio q = 7 - p then s.press q else s) s) s

/-- LAUNCH_RECORD_FETCH: an ACTIVE queue fetches its next record, up to the write index last validated (R379). -/
def execLaunchRecordFetch (q : Nat) (s : State) : Host.Outcome State Fault Refusal :=
  .next (
    let u := s.queue q
    if u.stat ≠ 1 ∨ !s.qEnabled q ∨ s.qFrozen q ∨ u.ridx.toNat = u.valid then s
    else
      let va := u.base.toNat + u.ridx.toNat % u.size.toNat
      match s.dispRun (s.qPartition q) (s.qAsid q) va 64 .load with
      | some (.inl miss) => s.dispMiss (s.qPartition q) (s.qAsid q) miss .load
      | some (.inr _) => (s.forgetRefusals (s.qAsid q) va 64).queueError q 3
      | none =>
        let record := wordsOfBytes (s.dispRead (s.qPartition q) (s.qAsid q) va 64)
        (s.onQueue q fun u =>
          { u with
            records := u.records ++ [record]
            ridx := toWord ((u.ridx.toNat + 64) % (2 * u.size.toNat)) }).press q)

/-- SLICE_END: a slice that has run out starts the ladder if a launch of at least the group's PRIO waits for cores and the group is the
one that it pre-empts; else a new slice starts (R385). -/
def execSliceEnd (launch : Nat) (s : State) : Host.Outcome State Fault Refusal :=
  .next (match s.group? launch with
    | none => s
    | some g =>
      if g.phase ≠ .run ∨ s.now < g.sliceAt + g.sliceLen then s
      else
        let asks := (s.dispatch.queues.map Prod.fst).filter fun q =>
          decide (g.prio ≤ s.qPrio q) && s.waitsForCores q && !s.ladderFor q && decide ((s.victim q).map Prod.fst = some launch)
        match asks with
        | q :: _ => s.soften launch (some q)
        | [] => s.startSlice launch)

/-! ### Starting a group (R383) -/

/-- The rank of a queue in the dispatcher's order: PRIO, then tenants and queues round-robin. -/
def State.queueRank (s : State) (q : Nat) : Nat :=
  let p := s.qPrio q
  let t := s.qTenant q
  ((7 - p) * 256 + (t + 255 - s.dispatch.lastTenant.get p 255) % 256) * 256
    + (q + 255 - s.dispatch.lastQueue.get (p, t) 255) % 256

/-- Whether a queue's next launch can be taken: it is refused, or finds cores. -/
def State.takeable (s : State) (q : Nat) : Bool :=
  s.qOpen q && match s.headImage q with
    | some (.ok img) => s.fits (s.qPartition q) (some q) img.nroles img.pump.isSome
    | some (.refuse _ _ _) => true
    | _ => false

/-- Whether a queue is the next that the dispatcher serves. -/
def State.served (s : State) (q : Nat) : Bool :=
  (s.dispatch.queues.map Prod.fst).all fun o => decide (s.queueRank q ≤ s.queueRank o) || !s.takeable o

/-- The binding of a role of an image (R17). -/
def Image.binding (img : Image) (launch asid r : Nat) : Binding :=
  let stage := img.stages[r]?.getD 0
  ⟨launch, r, stage, ((img.stages.take r).filter (· = stage)).length, (img.stages.filter (· = stage)).length, img.nroles,
    img.nstages, asid, false, false, true⟩

/-- A core as a launch binds it, with zero slice and registers (R100, R225, R235, R244, R345, R383 steps 2 and 3). -/
def State.bindCore (s : State) (core : Nat) (b : Binding) : State :=
  let s := (slotsOf core).foldl (fun s a => s.onCtx a fun _ => Ctx.reset .free) s
  s.onCore core fun k => { k.freed with binding := some b }

/-- The sections of an image applied to a role's core (R383 step 4). -/
def State.applySection (s : State) (part asid : Nat) (x : Section) (core : Nat) : State :=
  if x.kind = 0 then
    let bs := s.dispRead part asid x.a.toNat x.b.toNat
    s.onCore core (·.sliceStore x.off bs)
  else
    let h := { handlerOf x.a x.b with head := 0, tail := 0, since := s.now }
    s.onCore core fun k => { k with handlers := k.handlers.put x.off h }

/-- The next launch of a queue is taken: its record leaves, its launch number is assigned (R383). -/
def State.takeLaunch (s : State) (q : Nat) : Nat × State :=
  let launch := (s.dispatch.lastLaunch + 1) % 2 ^ 32
  let p := s.qPrio q
  let t := s.qTenant q
  let s := s.onQueue q fun u => { u with records := u.records.drop 1 }
  (launch,
   { s with dispatch := { s.dispatch with
       lastLaunch := launch
       lastTenant := s.dispatch.lastTenant.put p t
       lastQueue := s.dispatch.lastQueue.put (p, t) q
       reserved := s.dispatch.reserved.erase q } })

/-- A group of a queue before its start. -/
def State.newGroup (s : State) (q : Nat) (record : List Word) : Group :=
  ⟨q, s.qTenant q, s.qAsid q, s.qPrio q, s.qPartition q, record, [], 1, [], [], [], none, .run, s.now, 0, 0, 0, 0, false, 0,
    none, [], []⟩

/-- The barrier counters of a group's clusters: the roles bound there that are not done (R60). -/
def State.setBarriers (s : State) (launch : Nat) : State :=
  match s.group? launch with
  | none => s
  | some g =>
    g.clusters.foldl (fun s c =>
      let n := ((upFrom 0 g.cores.length).filter fun r =>
        decide (clusterOf (g.cores[r]?.getD 0) = c) && !g.doneRoles.contains r).length
      let s := s.onCluster c fun cl => { cl with barrier := cl.barrier.put launch n }
      if n = 0 then s.onGroup launch fun g => { g with reported := insertNat c g.reported } else s) s

/-- A group is bound to cores and started (R383). -/
def State.startGroup (s : State) (q : Nat) (record : List Word) (img : Image) (cores : List Nat) : State :=
  let g := s.newGroup q record
  let (launch, s) := s.takeLaunch q
  let g := { g with stages := img.stages, nstages := img.nstages, cores := cores, pump := img.pump }
  let s := { s with groups := s.groups.put launch g }
  let roles := upFrom 0 cores.length
  let s := roles.foldl (fun s r => s.bindCore (cores[r]?.getD 0) (img.binding launch g.asid r)) s
  let s := img.sections.foldl (fun s x =>
    (upFrom x.first (x.last + 1 - x.first)).foldl (fun s r => s.applySection g.partition g.asid x (cores[r]?.getD 0)) s) s
  ((s.setBarriers launch).startSlice launch).pressAll

/-- A launch is refused: nothing is bound, and its completion word is written (R382; log entry 53). -/
def State.refuseLaunch (s : State) (q : Nat) (record : List Word) (status va n : Nat) : State :=
  let g := s.newGroup q record
  let (launch, s) := (s.forgetRefusals g.asid va n).takeLaunch q
  let g := { g with phase := .ending, status := status }
  ({ s with groups := s.groups.put launch g }.complete launch).pressAll

/-- LAUNCH_START: the next launch of queue `q`, when the dispatcher serves it, is refused, or bound to the cores given, by
role, and started (R382, R383); a page of its image that misses is asked for, and one that waits for cores starts the ladder of
a group of lower PRIO at once (R385). -/
def execLaunchStart (q : Nat) (cores : List Nat) (s : State) : Host.Outcome State Fault Refusal :=
  .next (match s.headRecord q with
    | none => s
    | some record =>
      if !s.qOpen q then s
      else
        match s.imageOf (s.qPartition q) (s.qAsid q) record with
        | .wait miss => s.dispMiss (s.qPartition q) (s.qAsid q) miss .load
        | .refuse status va n => if s.served q then s.refuseLaunch q record status va n else s
        | .ok img =>
          if s.served q ∧ s.bindable (s.qPartition q) (some q) img.nroles img.pump.isSome cores then
            s.startGroup q record img cores
          else s.press q)

end Sys2Proof.Machine
end

