-- ==== Sys2Proof/Machine/Tile.lean ====
section
/-! DEFINITION. The tile instructions (R160 to R165). -/

namespace Sys2Proof.Machine

/-! ### Shape words and views (R160, Table 6-8) -/

/-- The rows of a shape word. -/
def tRows (w : Word) : Nat := wbits w 3 0 + 1
/-- The columns of a shape word. -/
def tCols (w : Word) : Nat := wbits w 7 4 + 1
/-- KIND of a shape word: 0 FP32, 1 INT32. -/
def tKind (w : Word) : Nat := wbits w 9 8
/-- SAVE of a shape word. -/
def tSave (w : Word) : Nat := wbits w 33 16

/-- The view a context has of a tile. -/
def Ctx.view (c : Ctx) (t : BitVec 3) : TileView :=
  c.tiles[t.toNat]'(by have := t.isLt; omega)

/-- The view changed. -/
def Ctx.setView (c : Ctx) (t : BitVec 3) (v : TileView) : Ctx :=
  { c with tiles := c.tiles.set t.toNat v (by have := t.isLt; omega) }

/-- A tile of a core. -/
def Core.tile (k : Core) (t : Nat) : Tile := k.tiles.get t Tile.zero

/-- A tile changed. -/
def Core.onTile (k : Core) (t : Nat) (f : Tile → Tile) : Core :=
  { k with tiles := k.tiles.put t (f (k.tile t)) }

/-- Element (r, c) of a tile. -/
def Tile.at (t : Tile) (r c : Nat) : BitVec 32 := t.cells.getD ((r % 16) * 16 + c % 16) 0

/-- The cells of a tile from a function of row and column. -/
def cellsOf (f : Nat → Nat → BitVec 32) : Vector (BitVec 32) 256 :=
  Vector.ofFn fun i => f (i.val / 16) (i.val % 16)

/-! ### Saves and restores (R161, R165) -/

/-- The runs of bytes a save writes: the header and the elements of each row, by offset. -/
def saveRuns (shape : Word) (t : Tile) : List (Nat × List Byte) :=
  (tSave shape, wordToBytes shape ++ List.replicate 56 0) ::
    (upFrom 0 (tRows shape)).map fun r =>
      (tSave shape + 64 + 64 * r, ((upFrom 0 (tCols shape)).map fun c => toBytes 4 (t.at r c).toNat).flatten)

/-- The contents of a tile that another slot takes: written as own-slice stores of the slot that loses it, when dirty; its
view becomes OUT (Table 6-10). -/
def State.loseTile (s : State) (core t : Nat) (taker : Nat) : State :=
  let tile := (s.core core).tile t
  match tile.owner with
  | none => s
  | some o =>
    if o = taker then s
    else
      let a := Agent.slot core o
      let v := (s.ctx a).view (BitVec.ofNat 3 t)
      let s := if tile.dirty then
          (saveRuns v.shape tile).foldl (fun s r =>
            s.enqueue a fun id =>
              ⟨id, false, false, .cellar, s.ownCa a r.1, .store (s.ownLoc a r.1) r.2 none false, none, none⟩) s
        else s
      let s := s.onCtx a fun c => c.setView (BitVec.ofNat 3 t) { v with state := 2 }
      s.onCore core fun k => k.onTile t fun x => { x with owner := none, dirty := false }

/-- A restore's rows read from the save area: it waits, meets poison, or has the rows. -/
def State.restoreRows (s : State) (a : Agent) (shape : Word) : List Nat → List (List Byte) → Got ⊕ List (List Byte)
  | [], acc => .inr acc.reverse
  | r :: rs, acc =>
    match s.readOwn a (tSave shape + 64 + 64 * r) (4 * tCols shape) false with
    | .bytes bs => s.restoreRows a shape rs (bs :: acc)
    | g => .inl g

/-- The element at a row and column of restored rows. -/
def rowElem (rows : List (List Byte)) (r c : Nat) : BitVec 32 :=
  BitVec.ofNat 32 (fromBytes (((rows.getD r []).drop (4 * c)).take 4))

/-- What keeps the issuing slot from taking a tile that it names: rows that it must wait for, or that are poisoned. -/
def State.bringStop (s : State) (t : BitVec 3) : Option Got :=
  let v := s.me.view t
  if v.state = 1 then none
  else
    match s.restoreRows s.cur v.shape (upFrom 0 (tRows v.shape)) [] with
    | .inl g => some g
    | .inr _ => none

/-- The issuing slot takes a tile: its contents are restored when its view is OUT (Table 6-10). -/
def State.bring (s : State) (t : BitVec 3) : State :=
  let v := s.me.view t
  let core := coreNo s.cur
  if v.state = 1 then s
  else
    match s.restoreRows s.cur v.shape (upFrom 0 (tRows v.shape)) [] with
    | .inl _ => s
    | .inr rows =>
      let s := s.loseTile core t.toNat (slotNo s.cur)
      let s := s.onCore core fun c =>
        c.onTile t.toNat fun _ => ⟨some (slotNo s.cur), false, cellsOf (rowElem rows)⟩
      s.onCtx s.cur fun c => c.setView t { v with state := 1 }

/-- The first of several tiles that cannot be taken, and why. -/
def State.bringFails (s : State) : List (BitVec 3) → Option (BitVec 3 × Got)
  | [] => none
  | t :: ts =>
    match s.bringStop t with
    | some g => some (t, g)
    | none => s.bringFails ts

/-- Tiles brought resident one after the other, once each of them can be; a poisoned restore leaves its tile resident for no slot and
has no other effect (R165).  C.FADDR is the cellar address of the first poisoned byte: R165 says only 'the address' (log entry
100). -/
def State.bringAll (s : State) (ts : List (BitVec 3)) (k : State → State) : State :=
  match s.bringFails ts with
  | some (t, .poison off) =>
    (s.loseTile (coreNo s.cur) t.toNat (slotNo s.cur)).trap s.cur Cause.poison (toWord (s.ownCa s.cur off))
  | some _ => s
  | none => k (ts.foldl State.bring s)

/-- The first tile whose view is UNCONF: TILE_UNCONF with its number (R165).  Where several are, R165 does not say which: the model
takes the first of d, a, b, the order in which it brings them (log entry 102). -/
def State.unconf (s : State) (ts : List (BitVec 3)) : Option Failure :=
  match ts.find? fun t => decide ((s.me.view t).state = 0) with
  | some t => some (Cause.tileUnconf, toWord t.toNat)
  | none => none

/-- A TILE instruction that uses tiles: UNCONF and its own checks, its place in the queue, the tiles, then its effect. -/
def State.tileOp (s : State) (n : Needs) (ts : List (BitVec 3)) (check : State → Option Failure) (k : State → State) :
    State :=
  s.issue n fun s =>
    match firstFailure [s.unconf ts, if (s.unconf ts).isSome then none else check s] with
    | some (cause, f) => s.trap s.cur cause f
    | none =>
      if 2 ≤ (s.core (coreNo s.cur)).vecQueue.length then s.stall s.cur .vector
      else s.bringAll ts fun s => s.vecEnter k

/-- The state with a tile's cells replaced and DIRTY set. -/
def State.writeTile (s : State) (t : BitVec 3) (f : Tile → Vector (BitVec 32) 256) : State :=
  s.onCore (coreNo s.cur) fun k => k.onTile t.toNat fun x => { x with cells := f x, dirty := true }

/-- A tile of the issuing core. -/
def State.tileOf (s : State) (t : BitVec 3) : Tile := (s.core (coreNo s.cur)).tile t.toNat

/-! ### The instructions (Table 6-9) -/

/-- The checks of a shape word, in order; C.FADDR is the word (R163). -/
def State.shapeBad (s : State) (w : Word) : Option Failure :=
  firstFailure
    [failIf (decide (wbits w 63 34 ≠ 0) || decide (wbits w 15 10 ≠ 0) || decide (1 < tKind w)) Cause.format w,
     failIf (decide (tSave w % 64 ≠ 0) || decide (Config.sliceTop < tSave w + 1088)) Cause.protect w,
     failIf (firstOutside (s.boxes s.cur) (tSave w) 1088).isSome Cause.footprint w]

/-- TSHAPE takes the tile without a restore and zeroes it (R163). -/
def execTshape (d : BitVec 3) (a : BitVec 5) (k : BitVec 1) (s : State) : Host.Outcome State Fault Refusal :=
  .next (s.issue { srcs := [srcX a k] } fun s =>
    let w := s.me.x a
    match s.shapeBad w with
    | some (cause, f) => s.trap s.cur cause f
    | none =>
      s.vecEnter fun s =>
        let core := coreNo s.cur
        let s := s.loseTile core d.toNat (slotNo s.cur)
        let s := s.onCore core fun c =>
          c.onTile d.toNat fun _ => ⟨some (slotNo s.cur), true, Vector.replicate 256 0⟩
        s.finish fun c => c.setView d ⟨1, w⟩)

/-- TREL: the view becomes UNCONF, and a tile resident for the slot is dropped. -/
def execTrel (d : BitVec 3) (s : State) : Host.Outcome State Fault Refusal :=
  .next (s.issue { } fun s => s.vecEnter fun s =>
    let core := coreNo s.cur
    let s := if (s.tileOf d).owner = some (slotNo s.cur) then
        s.onCore core fun c => c.onTile d.toNat fun x => { x with owner := none, dirty := false }
      else s
    s.finish fun c => c.setView d ⟨0, 0⟩)

/-- TZERO. -/
def execTzero (d : BitVec 3) (s : State) : Host.Outcome State Fault Refusal :=
  .next (s.tileOp { } [d] (fun _ => none) fun s => (s.writeTile d fun _ => Vector.replicate 256 0).finish id)

/-- An index operand that is not below a bound raises PROTECT with the index (R162). -/
def indexCheck (x : Word) (bound : Nat) : Option Failure :=
  failIf (decide (bound ≤ x.toNat)) Cause.protect x

/-- 32-bit element `i` of a V register. -/
def lane32 (v : VReg) (i : Nat) : BitVec 32 := BitVec.ofNat 32 (elem v 32 i)

/-- TWROW: a row from the first COLS elements of V[a]. -/
def execTwrow (d : BitVec 3) (a b : BitVec 5) (k m : BitVec 1) (s : State) : Host.Outcome State Fault Refusal :=
  .next (s.tileOp { srcs := [(.v a, decide (k = 1)), srcX b m] } [d]
    (fun s => indexCheck (s.me.x b) (tRows (s.me.view d).shape)) fun s =>
      let row := (s.me.x b).toNat
      let cols := tCols (s.me.view d).shape
      let v := s.me.v a
      (s.writeTile d fun t => cellsOf fun r c => if r = row ∧ c < cols then lane32 v c else t.at r c).finish id)

/-- TRDROW: a row into the first COLS elements of V[d], the others zero. -/
def execTrdrow (d : BitVec 5) (a : BitVec 3) (b : BitVec 5) (m : BitVec 1) (s : State) :
    Host.Outcome State Fault Refusal :=
  .next (s.tileOp { srcs := [srcX b m], dsts := [.v d] } [a]
    (fun s => indexCheck (s.me.x b) (tRows (s.me.view a).shape)) fun s =>
      let row := (s.me.x b).toNat
      let cols := tCols (s.me.view a).shape
      let t := s.tileOf a
      s.finish fun c => c.setV d (BitVec.ofNat 512 (packElems 32
        (fun i => if i < cols then (t.at row i).toNat else 0) 16)))

/-- TWCOL: a column from the first ROWS elements of V[a]. -/
def execTwcol (d : BitVec 3) (a b : BitVec 5) (k m : BitVec 1) (s : State) : Host.Outcome State Fault Refusal :=
  .next (s.tileOp { srcs := [(.v a, decide (k = 1)), srcX b m] } [d]
    (fun s => indexCheck (s.me.x b) (tCols (s.me.view d).shape)) fun s =>
      let col := (s.me.x b).toNat
      let rows := tRows (s.me.view d).shape
      let v := s.me.v a
      (s.writeTile d fun t => cellsOf fun r c => if c = col ∧ r < rows then lane32 v r else t.at r c).finish id)

/-- TRDCOL: a column into the first ROWS elements of V[d], the others zero. -/
def execTrdcol (d : BitVec 5) (a : BitVec 3) (b : BitVec 5) (m : BitVec 1) (s : State) :
    Host.Outcome State Fault Refusal :=
  .next (s.tileOp { srcs := [srcX b m], dsts := [.v d] } [a]
    (fun s => indexCheck (s.me.x b) (tCols (s.me.view a).shape)) fun s =>
      let col := (s.me.x b).toNat
      let rows := tRows (s.me.view a).shape
      let t := s.tileOf a
      s.finish fun c => c.setV d (BitVec.ofNat 512 (packElems 32
        (fun i => if i < rows then (t.at i col).toNat else 0) 16)))

/-! ### TMAC (R164) -/

/-- An FP32 sum rounded in RNE, with its flags. -/
def add32 (x y : FVal) : FVal × Flags :=
  let a := addV .rne x y
  let r := roundF fp32 .rne false 0 a.1
  (r.1, a.2 ||| r.2)

/-- One level of the tree over K: adjacent values added, an odd last value passing up. -/
def macLevel : List FVal → List FVal × Flags
  | x :: y :: rest =>
    let r := add32 x y
    let t := macLevel rest
    (r.1 :: t.1, r.2 ||| t.2)
  | l => (l, 0)

/-- The tree over at most 2^fuel products. -/
def macTree : Nat → List FVal → FVal × Flags
  | 0, l => (l.headD (.fin false 0 0), 0)
  | fuel + 1, l =>
    let r := macLevel l
    let t := macTree fuel r.1
    (t.1, r.2 ||| t.2)

/-- One FP32 element: the exact products through the tree, then one add into the element. -/
def macFp (d : BitVec 32) (prods : List (BitVec 32 × BitVec 32)) : BitVec 32 × Flags :=
  let ps := prods.map fun p => mulV (decodeF fp32 p.1.toNat) (decodeF fp32 p.2.toNat)
  let fl := ps.foldl (fun acc p => acc ||| p.2) (0 : Flags)
  let t := macTree 4 (ps.map Prod.fst)
  let r := add32 (decodeF fp32 d.toNat) t.1
  (BitVec.ofNat 32 (encodeF fp32 r.1), fl ||| t.2 ||| r.2)

/-- One INT32 element, modulo 2^32. -/
def macInt (d : BitVec 32) (prods : List (BitVec 32 × BitVec 32)) : BitVec 32 :=
  prods.foldl (fun acc p => acc + p.1 * p.2) d

/-- The shapes TMAC requires: M × K, K × N and M × N of one KIND; else FORMAT with T[d]'s shape word. -/
def macShapes (sd sa sb : Word) : Option Failure :=
  failIf (!(decide (tKind sd = tKind sa) && decide (tKind sd = tKind sb) && decide (tRows sd = tRows sa)
    && decide (tCols sd = tCols sb) && decide (tCols sa = tRows sb))) Cause.format sd

/-- TMAC: T[d] gains the product of T[a] and T[b]; FP32 flags are ORed into C.FSTAT. -/
def execTmac (d a b : BitVec 3) (s : State) : Host.Outcome State Fault Refusal :=
  .next (s.tileOp { } [d, a, b]
    (fun s => macShapes (s.me.view d).shape (s.me.view a).shape (s.me.view b).shape) fun s =>
      let sd := (s.me.view d).shape
      let kk := tCols (s.me.view a).shape
      let ta := s.tileOf a
      let tb := s.tileOf b
      let td := s.tileOf d
      let prods := fun r c => (upFrom 0 kk).map fun k => (ta.at r k, tb.at k c)
      let inside := fun r c => decide (r < tRows sd) && decide (c < tCols sd)
      let val := fun r c => if tKind sd = 0 then macFp (td.at r c) (prods r c) else (macInt (td.at r c) (prods r c), 0)
      let fl := (upFrom 0 (tRows sd)).foldl (fun acc r =>
        (upFrom 0 (tCols sd)).foldl (fun acc c => acc ||| (val r c).2) acc) (0 : Flags)
      (s.writeTile d fun _ => cellsOf fun r c => if inside r c then (val r c).1 else td.at r c).finish (·.orFlags fl))

/-- TSTAT: zero for UNCONF, else the shape word with bits 63, 62 and 61. -/
def execTstat (d : BitVec 5) (a : BitVec 3) (s : State) : Host.Outcome State Fault Refusal :=
  .next (s.issue { dsts := [.x d] } fun s => s.vecEnter fun s =>
    let v := s.me.view a
    let t := s.tileOf a
    let w : Word :=
      if v.state = 0 then 0
      else toWord (2 ^ 63 + (if v.state = 1 then 2 ^ 62 + b2n t.dirty * 2 ^ 61 else 0) + v.shape.toNat % 2 ^ 61)
    s.writeX d w)

end Sys2Proof.Machine
end

