-- ==== Sys2Proof/Machine/Save.lean ====
section
/-! DEFINITION. The ladder's saves and the save area (R137, R240, R269, R309, R327, R387, R389 to R392). -/

namespace Sys2Proof.Machine

/-! ### Entering SAVING (Table 20-5) -/

/-- The cores of a group with their roles. -/
def Group.roles (g : Group) : List (Nat × Nat) := (upFrom 0 g.cores.length).zip g.cores

/-- Whether every slot of a group is FREE. -/
def State.allFree (s : State) (g : Group) : Bool :=
  g.cores.all fun c => (slotsOf c).all fun a => decide ((s.ctx a).ctl.status = .free)

/-- TASK_LEVEL_SAVE: a group in SOFT whose slots are all FREE is saved without slot records (R387, R389). -/
def execTaskLevelSave (launch : Nat) (s : State) : Host.Outcome State Fault Refusal :=
  .next (match s.group? launch with
    | some g =>
      if g.phase = .soft ∧ !g.complete ∧ s.allFree g then s.onGroup launch fun g => { g with phase := .saving, step := 1 }
      else s
    | none => s)

/-- Whether an agent's sequencer is issuing a record that keeps it until a command is performed or starts (R235, R293). -/
def State.issuing (s : State) (a : Agent) : Bool :=
  (s.tapeOf? a .decanting).isSome && match (s.ctx a).ctl.hold with
    | some (.command _) => true
    | _ => false

/-- A slot is halted at an instruction boundary: a recording is abandoned with detail 0x06, and a decanting tape is PAUSED, once the
record that its sequencer issues has issued (R137, Table 13-9, R327).  A wait that has not completed has not issued (R230). -/
def State.quiesce (s : State) (a : Agent) : State :=
  let s := match s.tapeOf? a .recording with
    | some k => s.abandon a k 0x06
    | none => s
  let s := match s.tapeOf? a .decanting with
    | some _ =>
      if s.issuing a then s
      else (s.onCluster (agentCluster a) (·.pauseTape a)).onCtx a fun c => { c with ctl := { c.ctl with hold := some .decant } }
    | none => s
  s.onCtx a fun c => { c with ctl := { c.ctl with quiesced := true } }

/-- GRACE_TIMER_EXPIRY: TGRACE after the soft request, every slot that holds an activation is halted and a full save begins
(R387). -/
def execGraceTimerExpiry (launch : Nat) (s : State) : Host.Outcome State Fault Refusal :=
  .next (match s.group? launch with
    | some g =>
      if g.phase = .soft ∧ !g.complete ∧ g.softAt + s.dispatch.tgrace.toNat ≤ s.now then
        let s := g.cores.foldl (fun s c => (slotsOf c).foldl (fun s a =>
          if (s.ctx a).ctl.status = .free then s else s.quiesce a) s) s
        s.onGroup launch fun g => { g with phase := .saving, step := 2 }
      else s
    | none => s)

/-! ### What a save waits for (R137, R240, R269, R286, R389) -/

/-- Whether a job lets a save proceed: no RACKZ, and every granule that has begun is counted (R240). -/
def Job.atRest (j : Job) : Bool :=
  j.kind.isCopy && j.doomed.isNone && (upFrom 0 j.receivers).all fun m => decide (j.countedAt m = j.begun)

/-- Whether an agent's sequencer waits for a command that stands in the queue behind a stream of its own group, which the save has
stopped (R309; log entry 123). -/
def State.behindStream (s : State) (a : Agent) : Bool :=
  let t := s.trellis (agentCluster a)
  (match t.stream with
    | some st => decide (st.cmd.launch = s.launchOf a)
    | none => false)
    && match (s.ctx a).ctl.hold with
      | some (.command id) => t.queue.any fun c => decide (c.id = id)
      | _ => false

/-- Whether a core lets a save proceed: nothing posted by its slots but what is held, nothing awaited, no tape decanting but one whose
record waits behind a stopped stream, its engines at rest, no DICTLD queued, no buffer to commit, every operation it has injected into
delivered, and an executed DONE acted on. -/
def State.coreAtRest (s : State) (core : Nat) : Bool :=
  let k := s.core core
  (slotsOf core).all (fun a => (s.ctx a).queue.all (s.saveHolds a) && (s.ctx a).loads.isEmpty && !(s.ctx a).committing
      && ((s.tapeOf? a .decanting).isNone || s.behindStream a))
    && decide (k.pumpOut = 0) && k.vecQueue.isEmpty && k.sealed.isEmpty && k.sendQueue.isEmpty && s.pressIdle core
    && k.inflight.all (fun p => p.2.atRest) && (k.rackQueue.all fun j => decide (j.kind ≠ .dictld))
    && decide (k.treeOpen = k.text.length)
    && (match k.binding with
      | some b => !b.ended || b.done
      | none => true)

/-- Whether a group can be saved. -/
def State.saveReady (s : State) (g : Group) : Bool :=
  decide (g.phase = .saving) && !g.complete && g.cores.all s.coreAtRest

/-! ### Steps 2 and 4 of R389: streams and tiles -/

/-- The TRPAIRS of a role that its cluster runs, or that the resume routine has issued and that is still queued, as the resume routine
issues it again: a stream stops at a message boundary, with SKIPM := m and the end messages that it has sent (R309).  The other queued
commands of the group issue anew with their instructions. -/
def State.pairsOf (s : State) (cluster launch role : Nat) : List TrelCmd :=
  let mine := fun (c : TrelCmd) => decide (c.launch = launch) && decide (c.role = role)
  let t := s.trellis cluster
  (match t.stream with
    | some st =>
      if mine st.cmd then
        [{ st.cmd with
          ctrl := toWord (max st.formed (wbits st.cmd.ctrl 63 32) * 2 ^ 32 + wbits st.cmd.ctrl 31 0), ends := st.ends }]
      else []
    | none => [])
  ++ t.queue.filter fun c =>
    mine c && decide (c.kind = .trpairs) && decide ((s.ctx (.slot c.core c.slot)).ctl.hold ≠ some (.command c.id))

/-- A sequencer whose record waits behind a stopped stream is stopped before that record, which it issues again after the resumption: the
command leaves the queue, and its tape is PAUSED with NEXT as it stands (R327; log entry 123). -/
def State.stopSequencer (s : State) (a : Agent) : State :=
  match (s.ctx a).ctl.hold with
  | some (.command id) =>
    if (s.tapeOf? a .decanting).isSome ∧ s.behindStream a then
      ((s.onTrellis (agentCluster a) fun t => { t with queue := t.queue.filter fun c => decide (c.id ≠ id) }).onCluster
        (agentCluster a) (·.pauseTape a)).onCtx a fun c => { c with ctl := { c.ctl with hold := some .decant } }
    else s
  | _ => s

/-- The resident tiles of a core leave it, dirty ones to their slots' areas (R165, R389). -/
def State.saveTiles (s : State) (core : Nat) : State :=
  (upFrom 0 8).foldl (fun s t =>
    let tile := (s.core core).tile t
    match tile.owner with
    | none => s
    | some o =>
      let a := Agent.slot core o
      let v := (s.ctx a).view (BitVec.ofNat 3 t)
      let s := if tile.dirty then
          (saveRuns v.shape tile).foldl (fun s r => s.onCore core fun k => k.sliceStore r.1 r.2) s
        else s
      let s := s.onCtx a fun c => c.setView (BitVec.ofNat 3 t) { v with state := 2 }
      s.onCore core fun k => k.onTile t fun x => { x with owner := none, dirty := false }) s

/-- What a group at rest does before its areas are written: its sequencers stop and its tiles are saved (R327, R389). -/
def State.beforeSave (s : State) (g : Group) : State :=
  g.cores.foldl State.saveTiles (g.cores.foldl (fun s c => (slotsOf c).foldl State.stopSequencer s) s)

/-! ### The save area (R390 to R392) -/

/-- Bytes at an offset of the save area. -/
abbrev Piece := Nat × List Byte

/-- Words from an offset on. -/
def words (off : Nat) (ws : List Word) : Piece := (off, ws.flatMap wordToBytes)

/-- Numbers of a width in bytes from an offset on. -/
def nums (n off : Nat) (xs : List Nat) : Piece := (off, xs.flatMap (toBytes n))

/-- Pieces at an offset. -/
def shift (off : Nat) (ps : List Piece) : List Piece := ps.map fun p => (off + p.1, p.2)

/-- The blocks of a dirty bitmap, in ascending order. -/
def dirtyBlocks (d : BitVec 256) : List Nat := (upFrom 0 256).filter d.getLsbD

/-- The block stream: each dirty block as two coder blocks of 512 bytes, without the dictionary (R390). -/
def blockStream (k : Core) : List Byte :=
  (dirtyBlocks k.dirty).flatMap fun b =>
    encodeBlock [] (k.slice.readN (1024 * b) 512) ++ encodeBlock [] (k.slice.readN (1024 * b + 512) 512)

/-- The parameter words of a job record, at most 8. -/
def Job.record (j : Job) (queued : Bool) : List Piece :=
  [words 0 [toWord (j.word.toNat + j.slot * 2 ^ 32 + b2n queued * 2 ^ 40), toWord (512 * j.doneGranules)],
   words 0x10 (j.params.take 8), words 0x80 j.qa.words, words 0x2C0 j.qb.words]

/-- The jobs in flight of a core, in queue order. -/
def Core.flightOrder (k : Core) : List Job :=
  k.inflight.foldl (fun acc p =>
    (acc.takeWhile fun j => decide (j.id < p.2.id)) ++ p.2 :: (acc.dropWhile fun j => decide (j.id < p.2.id))) []

/-- The unfinished jobs of a core in queue order, and whether each was still queued. -/
def Core.unfinished (k : Core) : List (Job × Bool) :=
  (k.flightOrder.map fun j => (j, false)) ++ k.rackQueue.map fun j => (j, true)

/-- Where a halted slot goes on: a PARKED one at C.EPC with its recorded redirect and frame, any other at its PC (R137,
R361). -/
def Ctx.savedPc (c : Ctx) : Word := if c.ctl.status = .parked then c.trap.epc else c.ctl.pc.setWidth 64

/-- Whether a halted slot has a redirect pending. -/
def Ctx.delayed (c : Ctx) : Bool :=
  if c.ctl.status = .parked then decide (wbits c.trap.btgt 1 0 ≠ 0) else c.ctl.redirect.isSome

/-- The frame in flight of a halted slot. -/
def Ctx.savedFrame (c : Ctx) : Word := if c.ctl.status = .parked then c.trap.frame else frameWord c.ctl.frame

/-- C.EPC and C.BTGT of a halted slot: a slot halted between delay slots is saved as a trap there would record it (R81), and one halted
in a decant with the address of its DECANT (R327). -/
def Ctx.savedReturn (c : Ctx) : Word × Word :=
  if c.ctl.status ≠ .parked ∧ (c.ctl.redirect.isSome ∨ c.ctl.hold = some .decant) then
    (c.ctl.pc.setWidth 64, btgtOf c.ctl.redirect)
  else (c.trap.epc, c.trap.btgt)

/-- The slot record of a halted slot; that of a FREE one is all zero (Table 20-8). -/
def Ctx.slotPieces (c : Ctx) : List Piece :=
  if c.ctl.status = .free then []
  else
    let st := if c.ctl.status = .yielded then 2 else 1
    let r := c.regs
    [words 0
      [toWord (st + b2n c.trap.uh * 2 ^ 8 + c.sp.eprio * 2 ^ 16 + b2n c.sp.pl * 2 ^ 24), c.savedPc,
       c.savedReturn.1, c.savedReturn.2, c.trap.prog, c.trap.frame, c.trap.cause, c.trap.faddr,
       c.trap.utvec, c.trap.uepc, c.trap.ubtgt, c.trap.uframe, c.sp.seed, c.sp.fstat, c.sp.tcb, c.sp.dtbase,
       toWord (c.act.source + b2n c.act.named * 2 ^ 8 + b2n c.act.forgotten * 2 ^ 9), c.act.join, c.act.ctl, c.savedFrame],
     words 0xA0 (c.act.boxes.take 8),
     words 0xE0
      [toWord ((upFrom 0 8).foldl (fun n t => n + (c.view (BitVec.ofNat 3 t)).state * 4 ^ t) 0), c.rackFault, c.pressFault,
       c.trelFault],
     words 0x100 r.x.toList, words 0x200 r.p.toList, nums 4 0x240 (r.fmt.toList.map BitVec.toNat),
     words 0x280 [(~~~r.vEmpty) ++ (~~~r.xEmpty), r.vPoison ++ r.xPoison],
     words 0x290 (c.tiles.toList.map TileView.shape),
     nums 64 0x300 (r.v.toList.map BitVec.toNat), words 0xB00 (r.q.toList.flatMap Region.words)]

/-- The CTL word of a channel as a save holds it: zero for an entry that nothing has written, which R33 makes read PRIO 7 on channel 63
(R395; log entry 139). -/
def Core.savedCtl (k : Core) (ch : Nat) : Word :=
  if (k.handlers.get ch Handler.zero).ctlWord = 0 then 0 else (k.handler ch).ctlWord

/-- The role area of a core (Table 20-7); a task-level save writes no slot record (R389). -/
def State.rolePieces (s : State) (core : Nat) (full : Bool) : List Piece :=
  let k := s.core core
  let stream := blockStream k
  let jobs := k.unfinished
  let ring := (upFrom 0 256).map fun p =>
    k.ring[(p + 256 - k.ringHead % 256) % 256]?.getD 0 % 2 ^ 12
  let mask := k.drain.foldl (fun n e => n ||| (1#16 <<< e.1)) 0#16
  [words 0 [toWord stream.length],
   words 0x100
    [k.sched, leaseWord k.lease s.now, k.dictGen, toWord (k.ringHead % 256 + k.ring.length * 2 ^ 8), mask.setWidth 64,
     toWord jobs.length, toWord (b2n k.latched.isSome)],
   nums 2 0x200 ((upFrom 0 64).map fun i => k.mcred.get i 0),
   words 0x280 ((k.latched.getD []).take 8),
   (0x2C0, toBytes 32 k.dirty.toNat),
   nums 2 0x400 ring,
   words 0x800 ((upFrom 0 64).flatMap fun c => [k.savedCtl c, (k.handler c).bufWord]),
   words 0x1000 ((upFrom 0 256).map fun i => k.dict.get i 0),
   (0x28000, stream)]
    ++ k.drain.map (fun e => (0x2000 + 512 * e.1, (e.2.take 8).flatMap fun v => toBytes 64 v.toNat))
    ++ (((upFrom 0 jobs.length).zip jobs).flatMap fun p => shift (0x4000 + 0x500 * p.1) (p.2.1.record p.2.2))
    ++ (if full then (upFrom 0 8).flatMap fun n => shift (0x8000 + 0x3000 * n) (s.ctx (.slot core n)).slotPieces else [])

/-- The value, the guard byte and OVF of an element of a row; one lost to an error is a NaN, or has OVF set (R401). -/
def AccRow.saved (r : AccRow) (n : Nat) : Word × Byte × Bool :=
  let v := r.cells.getD n 0
  if r.bad.getLsbD n then (if r.anchored then (0, 0, true) else (toWord (canonNaN fp64), 0, false))
  else (v.extractLsb' 0 64, if r.anchored then v.extractLsb' 64 8 else 0, r.anchored && r.ovf.getLsbD n)

/-- The record of a tagged row (R392). -/
def AccRow.pieces (row : Nat) (r : AccRow) : List Piece :=
  let cols := (upFrom 0 128).map r.saved
  let anchor := if r.anchored then wrap 11 r.anchor else 0
  let ovf := (upFrom 0 128).foldl (fun n i => n + (if (r.saved i).2.2 then 2 ^ i else 0)) 0
  [words 0 [toWord (row * 2 ^ 16 + b2n r.anchored * 2 ^ 11 + anchor)], (0x10, toBytes 16 ovf),
   (0x40, cols.map fun x => x.2.1), words 0x100 (cols.map Prod.fst)]

/-- Word 0x00 of a tape record (Table 13-7). -/
def tapeWord (kind first ncont nword body : Nat) : Word :=
  toWord (kind * 2 ^ 60 + first % 2 ^ 12 * 2 ^ 48 + ncont * 2 ^ 40 + nword * 2 ^ 32 + body)

/-- The words of a guard record, with the continuation of a descriptor guard (R319). -/
def Guard.words : Guard → List Word
  | .desc first didx ws =>
    [tapeWord 2 first 1 0 didx, blk ws 0, blk ws 1, blk ws 2, blk ws 3, blk ws 4, blk ws 5, 0]
  | .press first fmtb => [tapeWord 3 first 0 0 0, toWord (fmtb.toNat * 2 ^ 32), 0, 0]
  | .gen first start g => [tapeWord 4 first 0 0 0, toWord start, toWord g.toNat, 0]

/-- The words of a command record with its continuations. -/
def TapeCmd.words (c : TapeCmd) : List Word :=
  let n := c.ops.length
  let cont := contLines n
  [tapeWord 0 0 cont n c.word.toNat, toWord (c.marks.foldl (fun w m => w + (0x80 + m.2 % 16) * 2 ^ (8 * m.1)) 0)]
    ++ (c.ops ++ List.replicate (4 * cont + 2 - n) 0)

/-- What a save holds of a PAUSED tape: its guards, and its records from NEXT on (R327, R392). -/
def Tape.remaining (t : Tape) : Tape := { t with cmds := t.cmds.drop (t.next - t.base), base := max t.base t.next }

/-- The words of a tape's lines (R319); END counts every record of the tape. -/
def Tape.words (t : Tape) : List Word :=
  t.guards.flatMap Guard.words ++ t.cmds.flatMap TapeCmd.words
    ++ [tapeWord 5 0 0 0 (t.base + t.cmds.length), toWord t.npv, 0, 0]

/-- The rows of a press that are tagged with a group, in ascending order. -/
def Press.tagged (p : Press) (launch : Nat) : List Nat :=
  (upFrom 0 1024).filter fun r => decide ((p.row r).tag = some launch)

/-- The tapes of a cluster that contexts of a group have PAUSED. -/
def State.pausedTapes (s : State) (launch cluster : Nat) : List Nat :=
  (upFrom 0 8).filter fun k =>
    let t := (s.cluster cluster).tape k
    decide (t.state = .paused) && (match t.owner with
      | some a => decide (s.launchOf a = launch)
      | none => false)

/-- The pieces of PAUSED tapes from an offset on: LINES counts the lines that the save holds (R392). -/
def tapePieces (cl : Cluster) : Nat → List Nat → List Piece
  | _, [] => []
  | off, k :: ks =>
    let t := (cl.tape k).remaining
    [words (0x100 + 16 * k) [toWord (t.key * 2 ^ 32 + t.lines * 2 ^ 16 + t.next), toWord off], words off t.words]
      ++ tapePieces cl (off + 32 * t.lines) ks

/-- A cluster area (R392); the latched block is that of the Trellis that the group owns. -/
def State.clusterPieces (s : State) (launch cluster : Nat) : List Piece :=
  let cl := s.cluster cluster
  let t := cl.trellis.drop launch
  let rows := cl.press.tagged launch
  words 0 [t.word launch] :: (if t.owner = some launch then [words 0x40 (t.block.take 8)] else [])
    ++ [(0x80, toBytes 128 (rows.foldl (fun n r => n + 2 ^ r) 0))]
    ++ (((upFrom 0 rows.length).zip rows).flatMap fun p =>
      shift (0x1000 + 0x500 * p.1) ((cl.press.row p.2).pieces p.2))
    ++ tapePieces cl (0x1000 + 0x500 * rows.length) (s.pausedTapes launch cluster)

/-- Where the role area of a role and the cluster area of roles 16k to 16k + 15 lie in a save area (Table 20-6). -/
def roleArea (r : Nat) : Nat := 0x1000 + 0x70000 * r
/-- The cluster area of roles 16k to 16k + 15. -/
def clusterArea (nroles k : Nat) : Nat := 0x1000 + 0x70000 * nroles + 0x180000 * k

/-- The pieces of a group save area (Table 20-6). -/
def State.savePieces (s : State) (launch : Nat) (g : Group) : List Piece :=
  let n := g.cores.length
  [words 0 [toWord launch, toWord n, toWord g.step]]
    ++ (g.roles.flatMap fun p => shift (roleArea p.1) (s.rolePieces p.2 (decide (g.step = 2))))
    ++ ((upFrom 0 ((n + 15) / 16)).flatMap fun k =>
      shift (clusterArea n k) (s.clusterPieces launch (clusterOf (g.cores[16 * k]?.getD 0))))

/-- The runs of a save area that a save writes: all of it, but for the slot records in a task-level save (R389). -/
def saveRunsOf (nroles : Nat) (full : Bool) : List (Nat × Nat) :=
  if full then [(0, saveBytes nroles)]
  else
    (0, 0x1000) :: ((upFrom 0 nroles).flatMap fun r => [(roleArea r, 0x8000), (roleArea r + 0x20000, 0x50000)])
      ++ [(clusterArea nroles 0, saveBytes nroles - clusterArea nroles 0)]

/-- A run of bytes that the dispatcher zeroes through its translation. -/
def State.dispClear (s : State) (part asid va n : Nat) : State :=
  (pagesOf va n).foldl (fun s p =>
    let lo := max va (p * 2 ^ 16)
    let len := min (va + n) ((p + 1) * 2 ^ 16) - lo
    match s.dispXlate part asid lo .store with
    | .hit (.mem pa) _ _ => { s with mem := s.mem.clear pa len }
    | .hit loc _ _ => s.storeBytes loc (List.replicate len 0)
    | _ => s) s

/-- The writes of step 5 of R389 in their order: runs of zeros, which the model writes first, and the areas. -/
def State.saveWrites (s : State) (launch : Nat) (g : Group) : List (Nat × (Nat ⊕ List Byte)) :=
  ((saveRunsOf g.cores.length (decide (g.step = 2))).map fun r => (r.1, .inl r.2))
    ++ (s.savePieces launch g).map fun p => (p.1, .inr p.2)

/-- Writes of a save area performed with ordinary stores in the queue's ASID. -/
def State.saveWrite (s : State) (g : Group) (ws : List (Nat × (Nat ⊕ List Byte))) : State :=
  let va := (g.word 1).toNat
  ws.foldl (fun s w => match w.2 with
    | .inl n => s.dispClear g.partition g.asid (va + w.1) n
    | .inr bs => s.dispStore g.partition g.asid (va + w.1) bs) s

/-- Step 5 of R389. -/
def State.writeSave (s : State) (launch : Nat) (g : Group) : State := s.saveWrite g (s.saveWrites launch g)

/-! ### What is kept beside the save area (log entry 14) -/

/-- What an activation keeps. -/
def State.keptAct (s : State) (a : Agent) : KeptAct :=
  let c := s.ctx a
  ⟨c.act.id, c.act.drain, c.cask, c.delayed,
    (upFrom 0 8).filter fun k =>
      let t := (s.cluster (agentCluster a)).tape k
      decide (t.owner = some a) && decide (t.state = .paused)⟩

/-- What a role keeps. -/
def State.keptOf (s : State) (launch role core : Nat) : Kept :=
  let k := s.core core
  let held := (upFrom 0 8).filter fun n => decide ((s.ctx (.slot core n)).ctl.status ≠ .free)
  { core := core
    drainAt := k.drainAt
    text := k.text
    treeOpen := k.treeOpen
    injected := k.injected
    tctl := (slotsOf core).map fun a => (s.ctx a).sp.tctl
    seeds := (slotsOf core).map fun a => (s.ctx a).sp.seed
    ended := match k.binding with
      | some b => b.ended
      | none => false
    pairs := s.pairsOf (clusterOf core) launch role
    acts := held.map fun n => (n, s.keptAct (.slot core n))
    jobs := k.unfinished.map Prod.fst
    ringInput := k.ringInput
    emptyWords := k.emptyWords
    poisonWords := k.poisonWords
    loader := k.loader
    held := (upFrom 0 8).flatMap fun n => (s.ctx (.slot core n)).queue.map fun e => (n, e) }

/-- A core of a saved group is freed: its lease ends as by UNLEASE, and its slots hold no activation (R269, R387). -/
def State.freeSaved (s : State) (core : Nat) : State :=
  let s := s.dropLease core
  let s := (slotsOf core).foldl (fun s a => s.onCtx a fun c =>
    { Ctx.reset .free with trap := { TrapRegs.reset with seq := c.trap.seq } }) s
  s.onCore core Core.freed

/-- A cluster of a saved group: it keeps the group's Trellis and rows, and its PAUSED tapes wait for the group. -/
def State.leaveCluster (s : State) (launch cluster : Nat) : State :=
  let tapes := s.pausedTapes launch cluster
  let s := tapes.foldl (fun s k => s.onTape cluster k fun t => { t with owner := none, savedFor := some launch }) s
  s.onCluster cluster fun cl =>
    { cl with trellis := cl.trellis.drop launch, barrier := cl.barrier.erase launch }

/-- A group is SAVED: its cores are free, its pump keeps its position (R387, R389). -/
def State.saveGroup (s : State) (launch : Nat) (g : Group) : State :=
  let s := s.writeSave launch g
  let kept := g.roles.map fun p => (p.1, s.keptOf launch p.1 p.2)
  let s := g.clusters.foldl (fun s c => s.leaveCluster launch c) s
  let s := (g.cores.foldl State.freeSaved s).holdFor g
  (s.onGroup launch fun g => { g with phase := .saved, cores := [], kept := kept }).pressAll

/-- A save that is abandoned while its areas are written leaves what had been written, a free choice (Table 20-9). -/
def State.abandonSave (s : State) (launch : Nat) : State :=
  match s.group? launch with
  | none => s
  | some g =>
    if !s.saveReady g ∨ s.dispRun g.partition g.asid (g.word 1).toNat (saveBytes g.cores.length) .store ≠ none then s
    else
      let (n, s) := s.freeWord
      let s := s.beforeSave g
      let ws := s.saveWrites launch g
      s.saveWrite g (ws.take (n.toNat % (ws.length + 1)))

/-- A group is killed in any state of the ladder (R387, R388, Table 20-9). -/
def State.killAny (s : State) (launch : Nat) : State := (s.abandonSave launch).kill launch

/-- PKILL: the named group is killed in any state of the ladder; one that names no group is ignored (R388). -/
def execPkill (v : Word) (s : State) : Host.Outcome State Fault Refusal :=
  .next (s.killAny (wbits v 31 0))

/-- KILL_TIMER_EXPIRY (Table 20-5). -/
def execKillTimerExpiry (launch : Nat) (s : State) : Host.Outcome State Fault Refusal :=
  .next (match s.group? launch with
    | some g =>
      if (g.phase = .soft ∨ g.phase = .saving) ∧ g.softAt + s.dispatch.killAfter ≤ s.now then s.killAny launch else s
    | none => s)

/-- SAVE_COMPLETE: once the group is at rest its area is written in one step; a page that misses is waited for, a refused one
kills the group (R387, R389). -/
def execSaveComplete (launch : Nat) (s : State) : Host.Outcome State Fault Refusal :=
  .next (match s.group? launch with
    | none => s
    | some g =>
      if !s.saveReady g then s
      else
        let va := (g.word 1).toNat
        match s.dispRun g.partition g.asid va (saveBytes g.cores.length) .store with
        | some (.inl miss) => s.dispMiss g.partition g.asid miss .store
        | some (.inr _) => (s.forgetRefusals g.asid va (saveBytes g.cores.length)).killAny launch
        | none => (s.beforeSave g).saveGroup launch g)

end Sys2Proof.Machine
end

