-- ==== Sys2Proof/Machine/Resume.lean ====
section
/-! DEFINITION. The resumption of a saved group on new cores (R393). -/

namespace Sys2Proof.Machine

/-! ### Reading the save area -/

/-- `n` bytes at an offset of a group's save area. -/
def State.areaBytes (s : State) (g : Group) (off n : Nat) : List Byte :=
  s.dispRead g.partition g.asid ((g.word 1).toNat + off) n

/-- A word at an offset of a group's save area. -/
def State.areaWord (s : State) (g : Group) (off : Nat) : Word := toWord (fromBytes (s.areaBytes g off 8))

/-- `n` words from an offset of a group's save area on. -/
def State.areaWords (s : State) (g : Group) (off n : Nat) : List Word := wordsOfBytes (s.areaBytes g off (8 * n))

/-- The numbers, of `w` bytes each, from an offset of a group's save area on. -/
def State.areaNums (s : State) (g : Group) (w off n : Nat) : List Nat :=
  (upFrom 0 n).map fun i => fromBytes (s.areaBytes g (off + w * i) w)

/-! ### Step 1: the state of a role -/

/-- The slice of a core once the tokens of a block stream are decoded into its dirty blocks, two coder blocks of 64 words each;
blocks after a defect of the stream stay zero. -/
def decodeBlocks : List Nat → List Byte → Core → Core
  | [], _, k => k
  | b :: bs, stream, k =>
    match decodeTokens [] 64 65 0 [] stream with
    | .done n ws =>
      match decodeTokens [] 64 65 0 [] (stream.drop n) with
      | .done m vs =>
        decodeBlocks bs (stream.drop (n + m)) (k.sliceStore (1024 * b) ((ws ++ vs).flatMap wordToBytes))
      | _ => k
    | _ => k

/-- The lease that a saved C.LEASE gives: HELD = 0 and REQ = LV (R393 step 2); no press holds the core's weights, so WV = 0
(Table 10-4). -/
def leaseOf (w : Word) (now : Nat) : Lease :=
  ⟨false, w.getLsbD 60, false, w.getLsbD 60, wbits w 59 58, wbits w 57 55, wbits w 54 48, wbits w 20 10, wbits w 9 0, 0,
    now⟩

/-- The binding of a role of a group that resumes (R17). -/
def Group.rebinding (g : Group) (launch role : Nat) (kp : Kept) : Binding :=
  { Image.binding ⟨g.stages.length, g.nstages, none, g.stages, []⟩ launch g.asid role with
    ended := kp.ended, done := g.doneRoles.contains role }

/-- A core with the state of a role that its role area and what it kept give. -/
def State.restoredCore (s : State) (g : Group) (launch role core : Nat) (kp : Kept) : Core :=
  let at_ := roleArea role
  let w := fun i => s.areaWord g (at_ + 0x100 + 8 * i)
  let dirty := fromBytes (s.areaBytes g (at_ + 0x2C0) 32)
  let stream := s.areaBytes g (at_ + 0x28000) (min (s.areaWord g at_).toNat 0x40200)
  let k := decodeBlocks ((upFrom 0 256).filter dirty.testBit) stream (s.core core).freed
  let ring := s.areaNums g 2 (at_ + 0x400) 256
  let head := wbits (w 3) 7 0
  let tab := s.areaWords g (at_ + 0x800) 128
  let handlers := (upFrom 0 64).map fun c =>
    (c, { handlerOf (blk tab (2 * c)) (blk tab (2 * c + 1)) with run := (blk tab (2 * c)).getLsbD 58, since := s.now })
  let drains := ((upFrom 0 16).filter (w 4).getLsbD).map fun e =>
    (e, (s.areaNums g 64 (at_ + 0x2000 + 512 * e) 8).map (BitVec.ofNat 512))
  { k with
    binding := some (g.rebinding launch role kp)
    sched := w 0
    lease := leaseOf (w 1) s.now
    dictGen := w 2
    ringHead := head
    ring := (upFrom 0 (wbits (w 3) 16 8)).map fun i => bits (ring[(head + i) % 256]?.getD 0) 11 0
    ringSince := s.now
    ringInput := kp.ringInput
    latched := if (w 6).getLsbD 0 then some (s.areaWords g (at_ + 0x280) 8) else none
    mcred := (upFrom 0 64).zip (s.areaNums g 2 (at_ + 0x200) 64)
    dict := (upFrom 0 256).zip (s.areaWords g (at_ + 0x1000) 256)
    handlers := handlers
    drain := drains
    drainAt := kp.drainAt
    text := kp.text
    treeOpen := kp.treeOpen
    injected := kp.injected
    emptyWords := kp.emptyWords
    poisonWords := kp.poisonWords
    loader := kp.loader }

/-! ### Step 6: the slots -/

/-- The register files of a slot record (Table 20-8). -/
def State.restoredRegs (s : State) (g : Group) (at_ : Nat) : Regs :=
  let xs := s.areaWords g (at_ + 0x100) 32
  let vs := s.areaNums g 64 (at_ + 0x300) 32
  let ps := s.areaWords g (at_ + 0x200) 8
  let fs := s.areaNums g 4 (at_ + 0x240) 16
  let full := s.areaWord g (at_ + 0x280)
  let poison := s.areaWord g (at_ + 0x288)
  { x := Vector.ofFn fun i => blk xs i.val
    v := Vector.ofFn fun i => BitVec.ofNat 512 (vs[i.val]?.getD 0)
    p := Vector.ofFn fun i => blk ps i.val
    q := Vector.ofFn fun i => regionOfWords (s.areaWords g (at_ + 0xB00 + 576 * i.val) 72)
    fmt := Vector.ofFn fun i => BitVec.ofNat 32 (fs[i.val]?.getD 0)
    xEmpty := ~~~(full.extractLsb' 0 32)
    vEmpty := ~~~(full.extractLsb' 32 32)
    xPoison := poison.extractLsb' 0 32
    vPoison := poison.extractLsb' 32 32 }

/-- A slot of a resumed core with no activation: C.SEED and TCTL as kept, and SEQ as the slot has it (R100, R361). -/
def Ctx.resumedFree (c : Ctx) (kp : Kept) (n : Nat) : Ctx :=
  { Ctx.reset .free with
    trap := { TrapRegs.reset with seq := c.trap.seq }
    sp := { SlotRegs.reset with seed := blk kp.seeds n, tctl := blk kp.tctl n } }

/-- A slot with the activation of its slot record (R393 step 6). -/
def State.restoredSlot (s : State) (g : Group) (at_ : Nat) (ka : KeptAct) (c : Ctx) : Ctx :=
  let w := fun i => s.areaWord g (at_ + 8 * i)
  let pc := pcOf (w 1)
  let views := w 28
  { c with
    ctl := { Control.reset (if wbits (w 0) 1 0 = 2 then .yielded else .running) with
      pc := pc
      redirect := if ka.delayed then redirectOf (w 3) else none
      frame := frameOf (w 19) pc }
    regs := s.restoredRegs g at_
    trap := { c.trap with
      epc := w 2, btgt := w 3, prog := w 4, frame := w 5, cause := w 6, faddr := w 7, utvec := w 8, uepc := w 9, ubtgt := w 10,
      uframe := w 11, uh := (w 0).getLsbD 8 }
    sp := { c.sp with
      seed := w 12, fstat := w 13, tcb := w 14, dtbase := w 15, eprio := wbits (w 0) 18 16, pl := (w 0).getLsbD 24 }
    act := { Activation.none with
      id := ka.id
      source := wbits (w 16) 6 0
      named := (w 16).getLsbD 8
      forgotten := (w 16).getLsbD 9
      join := w 17
      ctl := w 18
      boxes := s.areaWords g (at_ + 0xA0) 8
      drain := ka.drain
      yieldedAt := s.now }
    tiles := Vector.ofFn fun t => ⟨wbits views (2 * t.val + 1) (2 * t.val), s.areaWord g (at_ + 0x290 + 8 * t.val)⟩
    rackFault := w 29
    pressFault := w 30
    trelFault := w 31
    cask := ka.cask }

/-- The context of slot `n` of a role that resumes: what its record holds after a full save, no activation otherwise. -/
def State.restoredCtx (s : State) (g : Group) (role n : Nat) (kp : Kept) (c : Ctx) : Ctx :=
  let at_ := roleArea role + 0x8000 + 0x3000 * n
  let c := c.resumedFree kp n
  match kp.acts.find? n with
  | some ka => if g.step = 2 ∧ wbits (s.areaWord g at_) 1 0 ≠ 0 then s.restoredSlot g at_ ka c else c
  | none => c

/-! ### Step 5: the racking jobs (R240) -/

/-- A job record's command as the resume routine issues it: unchanged if it was still queued, else with S = 1 and the bytes done
as its starting byte. -/
def State.restoredJob (s : State) (g : Group) (a : Agent) (at_ : Nat) (j : Job) : Job :=
  let head := s.areaWord g at_
  if head.getLsbD 40 || !j.kind.isCopy then { j with id := s.nextId }
  else
    let qa := regionOfWords (s.areaWords g (at_ + 0x80) 72)
    let qb := regionOfWords (s.areaWords g (at_ + 0x2C0) 72)
    let word : IWord := head.setWidth 32
    let c := word.getLsbD 5
    let t := word.getLsbD 4
    let before := (if t then qa.rank else 0) + b2n c
    let ps := s.areaWords g (at_ + 0x10) (copyParams j.kind qa.rank c t (word.getLsbD 3))
    let params := ps.take before ++ s.areaWord g (at_ + 8) :: ps.drop (before + b2n (word.getLsbD 3))
    let x : CopyWord :=
      ⟨j.kind, word ||| 8, bits word.toNat 18 15, bits word.toNat 14 11, qa, qb, c, t, true, params, none⟩
    { x.job s a j.da j.db j.lta j.ltb with slot := wbits head 34 32, act := j.act }

/-- A job is issued again: it enters the in-flight set while that has room, else the queue. -/
def State.reissueJob (s : State) (core : Nat) (j : Job) : State :=
  let s := { s with nextId := s.nextId + 1 }
  match (s.core core).freeEntry with
  | some idx => if (s.core core).rackQueue = [] then s.startJob core idx j
    else s.onCore core fun k => { k with rackQueue := k.rackQueue ++ [j] }
  | none => s.onCore core fun k => { k with rackQueue := k.rackQueue ++ [j] }

/-- The jobs of a role are issued again in record order (R393 step 5). -/
def State.reissueJobs (s : State) (g : Group) (role core : Nat) (kp : Kept) : State :=
  ((upFrom 0 (min kp.jobs.length 10)).zip kp.jobs).foldl (fun s p =>
    s.reissueJob core (s.restoredJob g (.slot core p.2.slot) (roleArea role + 0x4000 + 0x500 * p.1) p.2)) s

/-! ### Steps 2 to 4: the units of the cluster -/

/-- The row that record `i` of a cluster area holds, with its number (R392). -/
def State.restoredRow (s : State) (g : Group) (launch at_ : Nat) : Nat × AccRow :=
  let w := s.areaWord g at_
  let anchored := w.getLsbD 11
  let guards := s.areaBytes g (at_ + 0x40) 128
  let vals := s.areaWords g (at_ + 0x100) 128
  (wbits w 25 16,
   { tag := some launch
     anchored := anchored
     anchor := if anchored then signed 11 (wbits w 10 0) else 0
     cells := Vector.ofFn fun i =>
       if anchored then (guards[i.val]?.getD 0) ++ blk vals i.val else (blk vals i.val).setWidth 72
     ovf := if anchored then BitVec.ofNat 128 (fromBytes (s.areaBytes g (at_ + 0x10) 16)) else 0
     bad := 0 })

/-- The tagged rows of a cluster area are restored (R393 step 2). -/
def State.restoreRows_ (s : State) (g : Group) (launch cluster area : Nat) : State :=
  let map := fromBytes (s.areaBytes g (area + 0x80) 128)
  let n := ((upFrom 0 1024).filter map.testBit).length
  (upFrom 0 n).foldl (fun s i =>
    let (row, r) := s.restoredRow g launch (area + 0x1000 + 0x500 * i)
    s.onCluster cluster fun cl => { cl with press := { cl.press with rows := cl.press.rows.put row r } }) s

/-- The Trellis of a group that had one: still held in the same cluster; in another it takes the saved configuration in EMPTY,
unless another group owns it, and the old cluster's is freed (R309, R393 step 3). -/
def State.restoreTrellis (s : State) (g : Group) (launch old new area : Nat) : State :=
  if old = new then s
  else
    let owned := (s.areaWord g area).getLsbD 4
    let block := s.areaWords g (area + 0x40) 8
    let s := s.onCluster old fun cl => { cl with trellis := cl.trellis.leave launch }
    if owned ∧ (s.trellis new).owner = none then
      s.onTrellis new fun t => { t with state := .empty, owner := some launch, block := block, npart := 0, bins := [] }
    else s

/-- The marks of a command record: address words and their entries (Table 13-7). -/
def marksOf (w : Word) : Table Nat Nat :=
  ((upFrom 0 8).filter fun k => w.getLsbD (8 * k + 7)).map fun k => (k, wbits w (8 * k + 3) (8 * k))

/-- A record of no command: the sequencer that reads it raises REPLAY_FAULT (R322). -/
def TapeCmd.refused : TapeCmd := ⟨0, [], []⟩

/-- A tape read from its lines (R319).  A refused record, or lines without END, is a record of no command. -/
def tapeOfWords : Nat → List Word → Tape → Tape
  | 0, _, t => { t with cmds := t.cmds ++ [.refused] }
  | fuel + 1, ws, t =>
    let w := blk ws 0
    let first := wbits w 59 48
    if ws.length < 4 then { t with cmds := t.cmds ++ [.refused] }
    else
      match wbits w 63 60 with
      | 0 =>
        let n := wbits w 39 32
        let cmd : TapeCmd := ⟨w.setWidth 32, (ws.drop 2).take n, marksOf (blk ws 1)⟩
        tapeOfWords fuel (ws.drop (4 + 4 * wbits w 47 40)) { t with cmds := t.cmds ++ [cmd] }
      | 2 =>
        let g := Guard.desc first (wbits w 5 0) [blk ws 1, blk ws 2, blk ws 3, blk ws 4, blk ws 5, blk ws 6]
        tapeOfWords fuel (ws.drop 8) { t with guards := t.guards ++ [g] }
      | 3 => tapeOfWords fuel (ws.drop 4) { t with guards := t.guards ++ [.press first ((blk ws 1).extractLsb' 32 32)] }
      | 4 =>
        let g := Guard.gen first (blk ws 1).toNat ((blk ws 2).setWidth 32)
        tapeOfWords fuel (ws.drop 4) { t with guards := t.guards ++ [g] }
      | 5 => t
      | _ => { t with cmds := t.cmds ++ [.refused] }

/-- The slot context of the resumed group that had a tape PAUSED. -/
def Group.pauserOf (g : Group) (cores : List Nat) (k tape : Nat) : Option Agent :=
  (upFrom (16 * k) 16).findSome? fun r =>
    ((g.kept.find? r).bind fun kp => List.find? (fun p => p.2.tapes.contains tape) kp.acts).bind fun p =>
      (cores[r]?).map fun core => Agent.slot core p.1

/-- A tape of a saved group restored in another cluster: a tape of that number and of the same tenant is reclaimed first, as the
dispatcher may (R329), one of another tenant bars it, as do lines that do not fit and a reclaim meanwhile; the tape is then left EMPTY
(R393 step 4; log entry 140). -/
def State.installTape (s : State) (tenant cluster k : Nat) (reclaimed : Bool) (t : Tape) : State :=
  let old := (s.cluster cluster).tape k
  if old.state ≠ .empty ∧ old.tenant ≠ tenant then s
  else
    let s := if old.state = .empty then s else s.reclaimTape cluster k
    if reclaimed || decide ((s.cluster cluster).freeLines < t.lines) then s else s.onTape cluster k fun _ => t

/-- Whether a tape that a resumption in another cluster reclaims still issues a record, which the resumption waits for (R329). -/
def State.tapeBusy (s : State) (tenant cluster k : Nat) : Bool :=
  let t := (s.cluster cluster).tape k
  match t.state, t.owner with
  | .decanting, some a => decide (t.tenant = tenant) && decide ((s.ctx a).ctl.hold ≠ some .decant)
  | _, _ => false

/-- A PAUSED tape of a saved group goes to the context that paused it, in the same cluster or restored in another; one that
was reclaimed meanwhile is left EMPTY (R327, R329, R393 step 4). -/
def State.restoreTape (s : State) (g : Group) (launch : Nat) (owner : Option Agent) (old new area k : Nat) : State :=
  let w := s.areaWord g (area + 0x100 + 16 * k)
  let off := (s.areaWord g (area + 0x108 + 16 * k)).toNat
  if off = 0 then s
  else if old = new then
    s.onCluster new fun cl => { cl with tapes := cl.tapes.map fun t =>
      if t.1 = k ∧ t.2.savedFor = (some launch) then (t.1, { t.2 with owner := owner, savedFor := none }) else t }
  else
    let lines := wbits w 28 16
    let ws := s.areaWords g (area + off) (4 * lines)
    let start : Tape :=
      { Tape.init with
        state := .paused, tenant := g.tenant, key := wbits w 63 32, owner := owner, next := wbits w 11 0, base := wbits w 11 0
        npv := wbits (blk (ws.drop (4 * lines - 4)) 1) 4 0 }
    s.installTape g.tenant new k (s.dispatch.reclaims.contains (launch, old, k)) (tapeOfWords (lines + 1) ws start)

/-- Whether a resumption on given cores waits for a tape that it reclaims. -/
def State.tapesBusy (s : State) (g : Group) (cores : List Nat) : Bool :=
  (upFrom 0 ((cores.length + 15) / 16)).any fun k =>
    let area := clusterArea cores.length k
    let new := clusterOf (cores[16 * k]?.getD 0)
    decide ((g.kept.find? (16 * k)).map (fun kp => clusterOf kp.core) ≠ some new)
      && (upFrom 0 8).any fun t => decide (s.areaWord g (area + 0x108 + 16 * t) ≠ 0) && s.tapeBusy g.tenant new t

/-- The units of the cluster of roles 16k to 16k + 15 (R393 steps 2 to 4). -/
def State.restoreCluster (s : State) (g : Group) (launch : Nat) (cores : List Nat) (k : Nat) : State :=
  let area := clusterArea cores.length k
  let new := clusterOf (cores[16 * k]?.getD 0)
  let old := match g.kept.find? (16 * k) with
    | some kp => clusterOf kp.core
    | none => new
  let s := s.restoreRows_ g launch new area
  let s := s.restoreTrellis g launch old new area
  (upFrom 0 8).foldl (fun s t => s.restoreTape g launch (g.pauserOf cores k t) old new area t) s

/-- The TRPAIRS of a role is issued again: it goes on in the same cluster.  In another it raises TRELLIS_STALE at its slot, if the
activation that issued it runs there, else in the group fault record (R300, R309; log entry 81). -/
def State.reissuePairs (s : State) (role core : Nat) (kp : Kept) : State :=
  kp.pairs.foldl (fun s c =>
    let c := { c with id := s.nextId, core := core, issuedAt := s.now }
    let s := { s with nextId := s.nextId + 1 }
    if clusterOf kp.core = clusterOf core then
      s.onTrellis (clusterOf core) fun t => { t with queue := t.queue ++ [c] }
    else
      let word := (s.trellis (clusterOf core)).word c.launch
      if (s.ctx c.agent).act.id = c.act ∧ (s.ctx c.agent).ctl.status = .running then
        s.trap c.agent Cause.trellisStale word
      else s.recordDetail c.launch role (detailWord Cause.trellisStale word.toNat)) s

/-! ### Step 6: the held traffic (R19, R394) -/

/-- The accesses of held traffic that may be delivered next: those that need not follow another of their slot (R275). -/
def heldReady (q : List (Agent × Entry)) : List (Agent × Entry) :=
  q.filter fun p => (q.takeWhile fun o => decide (o ≠ p)).all fun o =>
    decide (o.1 ≠ p.1) || (!mustFollow o.2 p.2 && decide (p.2.chain ≠ some o.2.id))

/-- Held traffic is delivered to the restored roles, in an order that is a free choice among those that each slot's order allows; `n`
bounds the accesses. -/
def State.deliverHeld : Nat → List (Agent × Entry) → State → State
  | 0, _, s => s
  | n + 1, q, s =>
    let ready := heldReady q
    let (w, s) := s.freeWord
    match ready[w.toNat % ready.length]? with
    | some p => State.deliverHeld n (q.filter fun o => decide (o ≠ p)) (s.postedEffect p.1 p.2)
    | none => s

/-- The held traffic of the roles of a group, with the slots that they run on now. -/
def heldTraffic (roles : List (Nat × Nat × Kept)) : List (Agent × Entry) :=
  roles.flatMap fun p => p.2.2.held.map fun e => (Agent.slot p.2.1 e.1, e.2)

/-! ### GROUP_RESUME -/

/-- A saved group is restored on its new cores and runs (R393). -/
def State.resumeGroup (s : State) (launch : Nat) (g : Group) (cores : List Nat) : State :=
  let roles := (upFrom 0 cores.length).filterMap fun r => (g.kept.find? r).map fun kp => (r, cores[r]?.getD 0, kp)
  let s := s.onGroup launch fun g =>
    { g with phase := .run, cores := cores, forQueue := none, kept := [], reported := [] }
  let s := roles.foldl (fun s p =>
    let k := s.restoredCore g launch p.1 p.2.1 p.2.2
    let s := s.onCore p.2.1 fun _ => k
    (upFrom 0 8).foldl (fun s n => s.onCtx (.slot p.2.1 n) fun c => s.restoredCtx g p.1 n p.2.2 c) s) s
  let s := (upFrom 0 ((cores.length + 15) / 16)).foldl (fun s k => s.restoreCluster g launch cores k) s
  let s := roles.foldl (fun s p => (s.reissueJobs g p.1 p.2.1 p.2.2).reissuePairs p.1 p.2.1 p.2.2) s
  let held := heldTraffic roles
  let s := s.deliverHeld held.length held
  let s : State := { s.forgetReclaims launch with clusters := s.clusters.map fun (c : Nat × Cluster) => (c.1, c.2.releaseTapes launch) }
  ((s.setBarriers launch).startSlice launch).pressAll

/-- GROUP_RESUME: a saved group is bound to the cores given, by role, once its save area can be read (R393); a page that misses
is asked for, and a tape that gives way to one of the group has issued the record that it was issuing (R329). -/
def execGroupResume (launch : Nat) (cores : List Nat) (s : State) : Host.Outcome State Fault Refusal :=
  .next (match s.group? launch with
    | none => s
    | some g =>
      let n := g.kept.length
      let va := (g.word 1).toNat
      if g.phase ≠ .saved ∨ !s.bindable g.partition none n g.pump.isSome cores then s
      else
        match s.dispRun g.partition g.asid va (saveBytes n) .load with
        | some (.inl miss) => s.dispMiss g.partition g.asid miss .load
        | some (.inr _) => s.forgetRefusals g.asid va (saveBytes n)
        | none => if s.tapesBusy g cores then s else s.resumeGroup launch g cores)

end Sys2Proof.Machine
end

