-- ==== Sys2Proof/Machine/Errors.lean ====
section
/-! DEFINITION. Errors, quarantine and containment, the combining tree, and the reduction packets of the Ndeley links (R401 to
R413). -/

namespace Sys2Proof.Machine

/-! ### Error counts (Table 23-2, R401) -/

/-- A 16-bit field of a count raised by one, saturating. -/
def countUp (w : Word) (lo : Nat) : Word :=
  if wbits w (lo + 15) lo = 0xFFFF then w else w + toWord (2 ^ lo)

/-- CORRECTED_ERROR: of SRAM (0), memory (1) or a link (2); it is counted and changes nothing else (R401). -/
def execCorrectedError (kind : Nat) (s : State) : Host.Outcome State Fault Refusal :=
  .next (if kind < 3 then { s with hostPort := { s.hostPort with cecnt := countUp s.hostPort.cecnt (16 * kind) } } else s)

/-! ### Quarantine of a core (R402) -/

/-- The engine entries of an access queue are dropped: the engine jobs of a quarantined core are not resumed. -/
def Ctx.dropEngine (c : Ctx) : Ctx := { c with queue := c.queue.filter fun e => !e.isEngine }

/-- A streaming activation that is aborted is reported lost (R402). -/
def State.reportLost (s : State) (core n : Nat) : State :=
  let a := Agent.slot core n
  let c := s.ctx a
  if c.act.ctl.getLsbD 63 then s
  else s.groupFault (s.launchOf a) Cause.kill (s.myRole a) (toWord (s.ownCa a (wbits c.sp.tcb 17 0)))

/-- Every activation of a core is aborted but those whose sealed buffers still commit (R402 steps 1 and 2). -/
def State.abortAll (s : State) (core : Nat) : State :=
  (upFrom 0 8).foldl (fun s n =>
    let a := Agent.slot core n
    if (s.ctx a).ctl.status = .free ∨ (s.ctx a).committing then s
    else ((s.reportLost core n).endActivation core n (.requeue Cause.kill)).onCtx a Ctx.dropEngine) s

/-- The Trellis commands of a core stop, a stream at a message boundary and without an end message (R309). -/
def Trellis.dropCore (t : Trellis) (core : Nat) : Trellis :=
  { t with
    queue := t.queue.filter fun c => decide (c.core ≠ core)
    stream := match t.stream with
      | some st => if st.cmd.core = core then none else some st
      | none => none }

/-- A core stops: its activations are aborted, its engine jobs stop at granule boundaries, and what is queued for its press does not
start; a started press command runs on (R402 steps 1 to 3). -/
def State.haltCore (s : State) (core : Nat) : State :=
  let s := s.abortAll core
  let s := (s.core core).inflight.foldl (fun s p => s.finishGranules core p.2) s
  let s := s.onCluster (clusterOf core) fun cl => { cl with trellis := cl.trellis.dropCore core }
  s.onCore core fun k => { k with rackQueue := [], inflight := [], vecQueue := [], pressQueue := [] }

/-- The started load or stream of a stopped core has completed, its lease ends, and what C.LEASE and the latched block were is kept
(R269, R402 steps 3 and 4). -/
def State.stopPress (s : State) (core : Nat) : State :=
  let s := s.finishPress core
  let l := (s.core core).lease
  let latched := (s.core core).latched
  (s.dropLease core).onCore core fun k =>
    { k with pressQueue := [], latched := latched, lease := { l with held := false, req := l.lv, wv := false } }

/-- The state of a core moves to another core, which serves its role from then on (R402 steps 4 and 5); each slot keeps the
SEQ of its own context, so that answers to records of the old core are stale. -/
def State.moveCore (s : State) (old new : Nat) : State :=
  let k := s.core old
  let t := s.core new
  let s := (upFrom 0 8).foldl (fun s n =>
    let c := s.ctx (.slot old n)
    let seq := (s.ctx (.slot new n)).trap.seq
    let s := s.onCtx (.slot new n) fun _ => { c with trap := { c.trap with seq := seq } }
    s.onCtx (.slot old n) fun c => { Ctx.reset .free with trap := { TrapRegs.reset with seq := c.trap.seq } }) s
  let s := s.onCore new fun _ =>
    { k with
      service := .enabled, utlb := t.utlb, lastSlot := t.lastSlot, lastIssue := t.lastIssue, cycleBase := t.cycleBase }
  let s := s.onCore old fun k => { k.freed with service := .quarantined }
  match k.binding with
  | some b =>
    s.onGroup b.launch fun g =>
      { g with
        cores := g.cores.map fun c => if c = old then new else c
        pump := g.pump.map fun p =>
          { p with queries := p.queries.map fun q => if q.core = old then { q with core := new } else q } }
  | none => s

/-- A stopped core is quarantined, and a target serves its role (R402 steps 3 to 5). -/
def State.quarantineCore (s : State) (old new : Nat) : State := (s.stopPress old).moveCore old new

/-! ### Quarantine of a cluster (R403) -/

/-- The launches that have a role in a cluster. -/
def State.launchesIn (s : State) (cluster : Nat) : List Nat :=
  (s.groups.filter fun g => g.2.clusters.contains cluster).map Prod.fst

/-- A group's part in the new cluster: one fault entry for its rows, the Trellis with the latched configuration in EMPTY, and
its barrier counter. -/
def State.moveUnits (s : State) (old new launch : Nat) : State :=
  let t := (s.cluster old).trellis
  let (w, s) := s.freeWord
  let s := s.groupFault launch Cause.kill (wbits w 11 0) 0
  let s := if t.owner = some launch then
      s.onTrellis new fun x => { x with state := .empty, owner := some launch, block := t.block, npart := 0, bins := [] }
    else s
  let s := s.onCluster new fun cl => { cl with barrier := cl.barrier.put launch ((s.cluster old).barrier.get launch 0) }
  s.onGroup launch fun g => { g with reported := g.reported.map fun c => if c = old then new else c }

/-- A quarantined cluster: its units hold nothing, QUAR is set and a spare is in service for it. -/
def State.retireCluster (s : State) (old : Nat) (new : Option Nat) : State :=
  let part := s.parts.cpart.get old 0
  let s := s.onCluster old fun cl =>
    { Cluster.init with view := cl.view, kernelQueue := cl.kernelQueue, pending := cl.pending }
  let s := (coresOf old).foldl (fun s c => s.onCore c fun k => { k.freed with service := .quarantined }) s
  { s with
    dispatch := { s.dispatch with asked := [] }
    parts := { s.parts with
      quar := insertNat old s.parts.quar
      spare := s.parts.spare.filter fun c => decide (c ≠ old) && decide (some c ≠ new)
      cpart := match new with
        | some n => s.parts.cpart.put n part
        | none => s.parts.cpart } }

/-- A place waits to be quarantined, or no longer does. -/
def State.markFailing (s : State) (place : ErrWhere) (waits : Bool) : State :=
  let rest := s.parts.failing.filter (· ≠ place)
  { s with parts := { s.parts with failing := if waits then place :: rest else rest } }

/-- Whether a started drain of a core is still to complete before the core is quarantined (R402 step 3). -/
def State.drainRuns (s : State) (core : Nat) : Bool :=
  match s.pressRunning core with
  | some c => decide (c.kind = PressKind.pdrain)
  | none => false

/-- A cluster whose groups have been killed is out of service once their sealed buffers have committed, which ends the groups
(R51, R403). -/
def State.retireKilled (s : State) (old : Nat) : State :=
  if (coresOf old).any fun c => (s.core c).binding.isSome then s.markFailing (.cluster old) true
  else (s.markFailing (.cluster old) false).retireCluster old none

/-- A cluster is quarantined: its cores stop, and once their started drains have completed its roles move to a spare cluster of its
die; without one the groups are killed (R403). -/
def State.quarantineCluster (s : State) (old : Nat) : State :=
  if s.parts.quar.contains old then s
  else
    match s.parts.spare.find? fun c =>
        decide (c / Config.clustersPerDie = old / Config.clustersPerDie) && decide (c ≠ old) with
    | none => ((s.launchesIn old).foldl State.killAny s).retireKilled old
    | some new =>
      let s := (coresOf old).foldl State.haltCore s
      if (coresOf old).any s.drainRuns then s.markFailing (.cluster old) true
      else
        let s := s.markFailing (.cluster old) false
        let bound := (coresOf old).filter fun c => (s.core c).binding.isSome
        let targets := (coresOf new).filter fun c => decide ((s.core c).service = .enabled)
        let launches := s.launchesIn old
        let s := (bound.zip targets).foldl (fun s p => s.quarantineCore p.1 p.2) s
        (launches.foldl (fun s l => s.moveUnits old new l) s).retireCluster old (some new)

/-- The spare core of a cluster. -/
def State.spareOf (s : State) (cluster : Nat) : Option Nat :=
  (coresOf cluster).find? fun c => decide ((s.core c).service = .spare)

/-- A core error: the core stops, and once its started drain has completed the role moves to the cluster's spare core; without one the
cluster is quarantined (R402). -/
def State.coreError (s : State) (core : Nat) : State :=
  match (s.core core).service with
  | .quarantined => s.markFailing (.core core) false
  | .spare => s.onCore core fun k => { k with service := .quarantined }
  | .enabled =>
    match s.spareOf (clusterOf core) with
    | some new =>
      let s := s.haltCore core
      if s.drainRuns core then s.markFailing (.core core) true
      else (s.markFailing (.core core) false).quarantineCore core new
    | none => (s.markFailing (.core core) false).quarantineCluster (clusterOf core)

/-! ### Containment (R404) -/

/-- A cellarer core starts at an instruction of an image, at SUPERVISOR (R404, R417, R419). -/
def State.startCel (s : State) (k entry : Nat) : State :=
  let s := s.onCtx (.cel k) fun _ =>
    { Ctx.reset .running with
      ctl := { Control.reset .running with pc := pcOf (toWord entry) }
      sp := { SlotRegs.reset with cycleBase := s.now } }
  { s with board := { s.board with entry := s.board.entry.put k entry } }

/-- The cellarer cores of a partition (Table 22-1). -/
def State.celsOf (s : State) (part : Nat) : List Nat := (upFrom 0 16).filter fun k => decide (s.partOfCel k = part)

/-- The monitor pair freezes the queues of a partition and restarts its cellarer cores from the kernel image; one that no image
has started stays as it is (R404 steps 1 and 2). -/
def State.contain (s : State) (part : Nat) : State :=
  let s := { s with dispatch := { s.dispatch with frozen := insertNat part s.dispatch.frozen } }
  (s.celsOf part).foldl (fun s k =>
    match s.board.entry.find? k with
    | some e => s.startCel k e
    | none => s) s

/-- The restarted kernel has re-adopted its tenants but those lost, whose groups it kills, and the queues are unfrozen (R404
steps 3 and 4). -/
def State.readopt (s : State) (part : Nat) (lost : List Nat) : State :=
  if !s.dispatch.frozen.contains part then s
  else
    let dead := (s.groups.filter fun g => decide (g.2.partition = part) && lost.contains g.2.tenant).map Prod.fst
    let s := dead.foldl State.killAny s
    { s with dispatch := { s.dispatch with frozen := s.dispatch.frozen.filter (· ≠ part) } }

/-! ### UNCORRECTABLE_ERROR (R401) -/

/-- A line of a tape holds an uncorrectable error (R328). -/
def Tape.damage (t : Tape) (line : Nat) : Tape :=
  if line < t.lines then { t with badLines := insertNat line t.badLines } else t

/-- What an uncorrectable error does where it lies (R401). -/
def State.errorAt (s : State) : ErrWhere → State
  | .memory pa => if isMemory pa then s.poisonLoc (.mem pa) else s
  | .scratch core off =>
    if off < Config.sliceTop then s.onCore core fun k => { k with poisonWords := insertNat (off / 8) k.poisonWords } else s
  | .caskLine cluster tape line => if tape < 8 then s.onTape cluster tape (·.damage line) else s
  | .accum cluster row col =>
    if row < 1024 ∧ col < 128 then
      s.onPress cluster fun p =>
        let r := p.row row
        { p with rows := p.rows.put row { r with bad := r.bad ||| (1#128 <<< col) } }
    else s
  | .core core => if clusterOf core < Config.clusters then s.coreError core else s
  | .cluster cluster => if cluster < Config.clusters then s.quarantineCluster cluster else s
  | .kernel part => if part < 16 then s.contain part else s

/-- UNCORRECTABLE_ERROR: it is counted, and dealt with where it lies (R401); for a core or cluster that has stopped already, its
quarantine goes on as far as it can. -/
def execUncorrectableError (place : ErrWhere) (s : State) : Host.Outcome State Fault Refusal :=
  .next (if s.parts.failing.contains place then s.errorAt place
    else { s with hostPort := { s.hostPort with uecnt := countUp s.hostPort.uecnt 0 } }.errorAt place)

/-! ### The combining tree (R406 to R409) -/

/-- The roles that take part in an operation (Table 22-3). -/
def TreeOp.participants (o : TreeOp) (g : Group) : List Nat :=
  (upFrom 0 g.cores.length).filter fun r =>
    match o.pset with
    | 0 => true
    | 1 => decide (g.stageOf r = o.group)
    | 2 => decide (r / 16 = o.group)
    | _ => decide (r / 1024 = o.group)

/-- The operand of a role. -/
def TreeOp.operandOf (o : TreeOp) (r : Nat) : Option TreeOperand := o.operands.find? fun x => decide (x.role = r)

/-- OP and RM of a TCTL value. -/
def opRm (w : Word) : Nat × Nat := (wbits w 3 0, wbits w 6 4)

/-- The format of a float operation of the tree. -/
def treeFmt (op : Nat) : FloatFmt := if op = 1 then fp32 else fp64

/-- The identity of an operation, which a participant that is done is taken to have injected (R407). -/
def treeIdentity (op : Nat) : Word :=
  match op with
  | 1 => 0x80000000
  | 2 => toWord (2 ^ 63)
  | 3 => toWord (2 ^ 63 - 1)
  | 4 => toWord (2 ^ 63)
  | 5 => BitVec.allOnes 64
  | 7 => toWord (0x7FF * 2 ^ 52)
  | 8 => toWord (0xFFF * 2 ^ 52)
  | _ => 0

/-- A node's result with its flags (R408). -/
def treeNode (op rm : Nat) (x y : Word) : Word × Flags :=
  match op with
  | 3 => (if x.toInt < y.toInt then x else y, 0)
  | 4 => (if x.toInt < y.toInt then y else x, 0)
  | 5 => (if x.toNat < y.toNat then x else y, 0)
  | 6 => (if x.toNat < y.toNat then y else x, 0)
  | 7 => (toWord (encodeF fp64 (pickV false (decodeF fp64 x.toNat) (decodeF fp64 y.toNat))), 0)
  | 8 => (toWord (encodeF fp64 (pickV true (decodeF fp64 x.toNat) (decodeF fp64 y.toNat))), 0)
  | _ =>
    let f := treeFmt op
    let mode := (rmodeOf rm).getD .rne
    let at_ := fun (w : Word) => decodeF f (if op = 1 then wbits w 31 0 else w.toNat)
    let (v, n) := addV mode (at_ x) (at_ y)
    let (r, m) := roundF f mode false 0 v
    (toWord (encodeF f r), n ||| m)

/-- One level of the tree: adjacent results in pairs, an odd last value passing up unchanged. -/
def treeLevel (op rm : Nat) : List (Word × Flags) → List (Word × Flags)
  | x :: y :: rest =>
    let (v, n) := treeNode op rm x.1 y.1
    (v, x.2 ||| y.2 ||| n) :: treeLevel op rm rest
  | l => l

/-- The levels of the tree; `fuel` bounds them. -/
def treeLevels (op rm : Nat) : Nat → List (Word × Flags) → Word × Flags
  | _, [] => (0, 0)
  | _, [x] => x
  | 0, x :: _ => x
  | fuel + 1, l => treeLevels op rm fuel (treeLevel op rm l)

/-- The integer sum of the operands, carried modulo 2^72, and its overflow (R107). -/
def treeSum (vs : List Word) : Word × Bool :=
  let sum := vs.foldl (fun (n : BitVec 72) v => n + v.signExtend 72) 0
  (sum.setWidth 64, decide (sum.toInt < -(2 ^ 63)) || decide (2 ^ 63 - 1 < sum.toInt))

/-- The values of the participants in the order of their bound cores, done ones giving the identity (R407, R408). -/
def TreeOp.values (o : TreeOp) (g : Group) (op : Nat) : List Word :=
  let order := (o.participants g).foldl (fun acc r => insertNat (g.cores[r]?.getD 0 * 4096 + r) acc) []
  order.map fun k =>
    match o.operandOf (k % 4096) with
    | some x => if op = 1 then (x.value.setWidth 32).setWidth 64 else x.value
    | none => treeIdentity op

/-- The result that the tree writes, with the participant and TCTL of a disagreement on OP or RM (R407, R408, Table 22-4); OP
of a disagreement is open. -/
def State.treeResult (s : State) (o : TreeOp) (g : Group) : TextResult × Option (Nat × Word) × State :=
  let inj := (o.participants g).filterMap o.operandOf
  let ref := (inj.head?.map TreeOperand.ctl).getD 0
  let (op, rm) := opRm ref
  match inj.find? fun x => decide (opRm x.ctl ≠ (op, rm)) with
  | some x =>
    let (w, s) := s.freeWord
    (⟨toWord (2 ^ 62 + o.tag * 2 ^ 48 + wbits w 3 0), 0⟩, some (x.role, x.ctl), s)
  | none =>
    let vs := o.values g op
    if op = 0 then
      let (v, ovf) := treeSum vs
      (⟨toWord (b2n ovf * 2 ^ 61 + o.tag * 2 ^ 48), v⟩, none, s)
    else
      let (v, fl) := treeLevels op rm 12 (vs.map fun v => (v, 0))
      (⟨toWord (fl.toNat * 2 ^ 57 + o.tag * 2 ^ 48 + op), v⟩, none, s)

/-- Whether a role has an injection into an operation's series that has issued and is not yet performed. -/
def State.injects (s : State) (o : TreeOp) (r : Nat) : Bool :=
  match s.coreOf? o.launch r with
  | some core => (slotsOf core).any fun a => (s.ctx a).queue.any fun e => match e.what with
    | .inject ctl _ => decide (wbits ctl 9 8 = o.pset) && decide (wbits ctl 55 48 = o.tag)
    | _ => false
  | none => false

/-- Whether every participant of an operation has injected, or is done with nothing left to inject (R285, R407). -/
def State.treeComplete (s : State) (o : TreeOp) (g : Group) : Bool :=
  (o.participants g).all fun r => (o.operandOf r).isSome || (g.doneRoles.contains r && !s.injects o r)

/-- Whether a role waits for the result of an operation that it injected into before. -/
def State.earlierOperand (s : State) (o : TreeOp) (x : TreeOperand) : Bool :=
  s.tree.any fun p => decide (p.launch = o.launch) && p.operands.any fun y => decide (y.role = x.role) && decide (y.seq < x.seq)

/-- A result is written to TEXT of each participant that waits for no earlier one; the operation ends with the last (R407). -/
def State.deliverResult (s : State) (k : Nat) (o : TreeOp) (r : TextResult) : State :=
  let (later, now) := o.operands.partition (s.earlierOperand o)
  let s := now.foldl (fun s x =>
    match s.coreOf? o.launch x.role with
    | some c => s.onCore c fun q => { q with text := q.text ++ [r] }
    | none => s) s
  if later = [] then { s with tree := dropAt s.tree k }
  else { s with tree := s.tree.set k { o with operands := later, result := some r } }

/-- TREE_RESULT_DELIVER: operation `op` of those open, once the tree has taken every operand, and while no role that it is addressed to
moves to another core (R19, R407). -/
def execTreeResultDeliver (op : Nat) (s : State) : Host.Outcome State Fault Refusal :=
  .next (match s.tree[op]? with
    | none => s
    | some o =>
      match s.group? o.launch with
      | none => s
      | some g =>
        if o.operands.any fun x => s.movesAway o.launch x.role then s
        else match o.result with
        | some r => s.deliverResult op o r
        | none =>
          if !s.treeComplete o g then s
          else
            let (r, mis, s) := s.treeResult o g
            let s := match mis with
              | some (role, ctl) => s.groupFault o.launch Cause.format role ctl
              | none => s
            s.deliverResult op o r)

/-! ### Reduction packets (R411 to R413) -/

/-- The number of the first packet after one that a switch may merge with it: the same address, op and width, contributors that are
disjoint, and neither sent again (R411, R412). -/
def mergeWith (p : Packet) (after : List Packet) : Option Nat :=
  (upFrom 0 after.length).find? fun i =>
    match after[i]? with
    | some q =>
      decide (q.dev = p.dev) && decide (q.pa = p.pa) && decide (q.op = p.op) && decide (q.dbl = p.dbl)
        && decide (q.devices &&& p.devices = 0) && !p.resent && !q.resent
    | none => false

/-- Two packets merged: an integer sum is carried modulo 2^(w+8), a float sum is rounded in RNE (R107, R411). -/
def Packet.merge (p q : Packet) : Packet :=
  let w := 8 * atomBytes p.dbl
  { p with
    sum := if p.op = .add then BitVec.ofNat 72 (bits (p.sum.toNat + q.sum.toNat) (w + 7) 0)
      else BitVec.ofNat 72 (bits (atomNew p.op p.dbl p.sum.toNat q.sum.toNat 0) (w - 1) 0)
    devices := p.devices ||| q.devices
    from_ := p.from_ ++ q.from_ }

/-- The value that a packet delivers: the sum modulo 2^w (R107). -/
def Packet.value (p : Packet) : Word := toWord (bits p.sum.toNat (8 * atomBytes p.dbl - 1) 0)

/-- The end test of R107 on an integer sum: whether it lies outside the range of its operands.  A reduction returns nothing, so no
register takes this flag. -/
def Packet.overflow (p : Packet) : Bool :=
  let w := 8 * atomBytes p.dbl
  let n := signed (w + 8) p.sum.toNat
  decide (p.op = .add) && (decide (n < -(2 ^ (w - 1) : Int)) || decide ((2 ^ (w - 1) : Int) ≤ n))

/-- The home of a packet: this device's own memory, or a peer's (R410). -/
def State.packetHome (s : State) (p : Packet) : Loc :=
  if p.dev = s.device then .mem p.pa else .peer p.dev p.pa

/-- Whether a packet's endpoint has performed a contribution (R412). -/
def State.hasPerformed (s : State) (p : Packet) (c : Contribution) : Bool :=
  s.performed.contains (p.dev, c.dev, c.seq)

/-- Whether a packet on its way carries a contribution to the endpoint of `p`. -/
def State.carries (s : State) (p : Packet) (c : Contribution) : Bool :=
  s.packets.any fun q => decide (q.dev = p.dev) && q.from_.any fun d => decide (d.dev = c.dev) && decide (d.seq = c.seq)

/-- A packet of other devices reaches a switch, where it may merge with packets of this one, or this device's endpoint (R411);
whatever names this device as a contributor is none.  One whose contributions are all held here already counts nothing twice: it is
dropped, as its endpoint drops it once they are performed (R412; log entry 129). -/
def State.packetArrives (s : State) (p : Packet) : State :=
  if p.devices.getLsbD s.device || (p.from_.any fun c => decide (c.dev = s.device))
      || (decide (p.from_ ≠ []) && p.from_.all (s.carries p)) then s
  else { s with packets := s.packets ++ [p] }

/-- The entry of a contribution of this device leaves its access queue: its reduction has been performed, or dropped. -/
def State.endContribution (s : State) (c : Contribution) : State :=
  match s.coreOf? c.launch c.role with
  | some core => (slotsOf core).foldl (fun s a => if (entryOf? (s.ctx a).queue c.entry).isSome then s.dropFrom a c.entry else s) s
  | none => s

/-- A packet is performed at its home as one reduction; one without a route, or that meets poison, is dropped with entries in
the group fault records of this device's contributors (R174, R411, R413).  One whose contributions its endpoint has all performed is
discarded (R412). -/
def State.performPacket (s : State) (p : Packet) : State :=
  let home := s.packetHome p
  let bad := s.noRoute home
  let poison := s.poisonAt home (atomBytes p.dbl)
  let again := decide (p.from_ ≠ []) && p.from_.all (s.hasPerformed p)
  let mine := p.from_.filter fun c => decide (c.dev = s.device)
  let s := mine.foldl (fun s c =>
    let s := if again then s
      else if bad then s.groupFault c.launch Cause.poison c.role (toWord c.va)
      else match poison with
        | some i => s.groupFault c.launch Cause.poison c.role (toWord (c.va + i))
        | none => s
    s.endContribution c) s
  let s := if bad || again then s
    else { s with performed := s.performed ++ p.from_.map fun c => (p.dev, c.dev, c.seq) }
  if again || bad || poison.isSome then s else (s.atomicAt home p.op p.dbl p.value 0).2

/-- REDUCTION_PACKET_PERFORM: packet `k` merges with a later one, as a switch may choose, or is performed at its endpoint
(R411). -/
def execReductionPacketPerform (k : Nat) (s : State) : Host.Outcome State Fault Refusal :=
  .next (match s.packets[k]? with
    | none => s
    | some p =>
      let (merges, s) := s.freeBit
      match mergeWith p (s.packets.drop (k + 1)) with
      | some i =>
        if merges then
          match s.packets[k + 1 + i]? with
          | some q => { s with packets := (dropAt s.packets (k + 1 + i)).set k (p.merge q) }
          | none => s
        else { s with packets := dropAt s.packets k }.performPacket p
      | none => { s with packets := dropAt s.packets k }.performPacket p)

/-- LINK_FAILURE: the packets to a peer are sent again on another route, never to be merged; `up` says whether a route to the
peer is left (R412, R413). -/
def execLinkFailure (peer : Nat) (up : Bool) (s : State) : Host.Outcome State Fault Refusal :=
  .next { s with
    packets := s.packets.map fun p => if p.dev = peer then { p with resent := true } else p
    unreachable := if up then s.unreachable.filter (· ≠ peer) else insertNat peer s.unreachable }

end Sys2Proof.Machine
end

