-- ==== Sys2Proof/Machine/System.lean ====
section
/-! DEFINITION. The system instructions (R353 to R359). -/

namespace Sys2Proof.Machine

/-- What every system word needs of its place: no delay slot, no repeat frame (R353). -/
def sysAny : Needs := { cellarer := true, delay := false }

/-- A system word of cellarer cores and TSCs at SUPERVISOR (Table 18-13). -/
def sysServicer (srcs : List (RegName × Bool)) (dsts : List RegName) : Needs :=
  { small := false, cellarer := true, priv := true, delay := false, srcs := srcs, dsts := dsts }

/-- A system word of cellarer cores at SUPERVISOR (Table 18-13). -/
def sysCellarer (srcs : List (RegName × Bool)) (dsts : List RegName) : Needs :=
  { sysServicer srcs dsts with tsc := false }

/-! ### Traps by instruction (R354) -/

/-- SYSCALL (R354). -/
def execSyscall (i : BitVec 20) (s : State) : Host.Outcome State Fault Refusal :=
  .next (s.issue sysAny fun s => s.trap s.cur Cause.syscall (i.setWidth 64))

/-- BREAK (R354). -/
def execBrk (i : BitVec 20) (s : State) : Host.Outcome State Fault Refusal :=
  .next (s.issue sysAny fun s => s.trap s.cur Cause.breakpoint (i.setWidth 64))

/-! ### Tokens (R355) -/

/-- SRC of a token. -/
def tokSrc (w : Word) : Nat := wbits w 21 19
/-- JOB of a token. -/
def tokJob (w : Word) : Nat := wbits w 25 22
/-- SLOT of a token. -/
def tokSlot (w : Word) : Nat := wbits w 18 16

/-- The small core that an HWID names, if any (Table 18-7). -/
def coreOfHwid (h : Nat) : Option Nat :=
  let die := bits h 15 12
  let cl := bits h 11 5
  let n := bits h 4 0
  if die < 4 ∧ cl < Config.clustersPerDie ∧ n < Config.coresPerCluster then
    some ((die * Config.clustersPerDie + cl) * Config.coresPerCluster + n)
  else none

/-- The enabled small core that a token names; none where the token raises PROTECT (R355).  A core of a spare cluster, or a cluster's
spare core, is not enabled (R10). -/
def State.tokenCore (s : State) (w : Word) : Option Nat :=
  if wbits w 47 26 ≠ 0 ∨ 3 ≤ tokSrc w ∨ (tokJob w ≠ 0 ∧ tokSrc w ≠ 1) then none
  else
    match coreOfHwid (wbits w 15 0) with
    | some n =>
      if (s.core n).service = .enabled ∧ !s.parts.spare.contains (clusterOf n) then some n else none
    | none => none

/-- Whether a parked state is that of a fault. -/
def onFault : Option (Nat × Nat) → Bool
  | some (cause, _) => decide (cause ≠ 0)
  | none => false

/-- The racking job that a token names: parked on a fault in its entry, issued by its slot. -/
def State.tokenJob (s : State) (core : Nat) (w : Word) : Option Job :=
  match (s.core core).inflight.find? (tokJob w) with
  | some j => if j.slot = tokSlot w ∧ onFault j.parked then some j else none
  | none => none

/-- The stream that a token names: parked on a fault, of its slot. -/
def State.tokenStream (s : State) (core : Nat) (w : Word) : Option Stream :=
  match (s.trellis (clusterOf core)).stream with
  | some st => if st.cmd.core = core ∧ st.cmd.slot = tokSlot w ∧ onFault st.parked then some st else none
  | none => none

/-- Whether a token of a slot is stale (R355). -/
def State.slotStale (s : State) (core : Nat) (w : Word) : Bool :=
  let c := s.ctx (.slot core (tokSlot w))
  decide (tokSrc w ≠ 0) || decide (c.ctl.status ≠ .parked) || decide (c.trap.seq.toNat ≠ wbits w 63 48)

/-- An answer to a token is a release at DEVICE scope: it waits until the servicer's earlier accesses have been performed
(R355). -/
def State.release (s : State) (k : State → State) : State :=
  if s.me.queue.isEmpty then k s else s

/-- RESUME of a token's slot, job or stream, and the status (R355). -/
def State.resumeToken (s : State) (core : Nat) (w mode : Word) : State × Nat :=
  match tokSrc w with
  | 0 =>
    if s.slotStale core w then (s, 1)
    else if mode = 0 then (s.onCtx (.slot core (tokSlot w)) Ctx.resume, 0)
    else if mode = 1 then (s.onCtx (.slot core (tokSlot w)) Ctx.resumeSkip, 0)
    else (s, 2)
  | 1 =>
    match s.tokenJob core w with
    | none => (s, 1)
    | some j =>
      if mode = 0 then
        (s.onCore core fun k => { k with inflight := k.inflight.put (tokJob w) { j with parked := none } }, 0)
      else (s, 2)
  | _ =>
    match s.tokenStream core w with
    | none => (s, 1)
    | some st =>
      if mode = 0 then (s.setStream (clusterOf core) (some { st with parked := none }), 0) else (s, 2)

/-- RESUME (R355). -/
def execResume (d a b : BitVec 5) (s : State) : Host.Outcome State Fault Refusal :=
  .next (s.issue (sysServicer [srcX0 a, srcX0 b] [.x d]) fun s =>
    match s.tokenCore (s.me.x a) with
    | none => s.trap s.cur Cause.protect (s.me.x a)
    | some core => s.release fun s =>
      let (s, status) := s.resumeToken core (s.me.x a) (s.me.x b)
      s.writeX d (toWord status))

/-- ABORT of a token's activation, job or stream, and the status (R355). -/
def State.abortToken (s : State) (core : Nat) (w : Word) : State × Nat :=
  match tokSrc w with
  | 0 =>
    if s.slotStale core w then (s, 1)
    else
      (s.endActivation core (tokSlot w) (.abort (wbits (s.ctx (.slot core (tokSlot w))).trap.cause 7 0)), 0)
  | 1 =>
    match s.tokenJob core w with
    | none => (s, 1)
    | some j =>
      let (cause, addr) := j.parked.getD (0, 0)
      (s.failJob core (tokJob w) j j.parkAt cause addr, 0)
  | _ =>
    match s.tokenStream core w with
    | none => (s, 1)
    | some st =>
      let (cause, addr) := st.parked.getD (0, 0)
      (s.endStream (clusterOf core) st.cmd cause addr, 0)

/-- ABORT (R355). -/
def execAbort (d a : BitVec 5) (s : State) : Host.Outcome State Fault Refusal :=
  .next (s.issue (sysServicer [srcX0 a] [.x d]) fun s =>
    match s.tokenCore (s.me.x a) with
    | none => s.trap s.cur Cause.protect (s.me.x a)
    | some core => s.release fun s =>
      let (s, status) := s.abortToken core (s.me.x a)
      s.writeX d (toWord status))

/-! ### State of a parked slot (R356) -/

/-- What a selector names. -/
inductive SlotSel where
  | x (n : BitVec 5)
  | epc
  | btgt
  | prog
  | frame
  | v (n : BitVec 5) (w : Nat)
deriving DecidableEq, Repr

/-- A selector; none where it raises PROTECT. -/
def slotSel (w : Word) : Option SlotSel :=
  let n := w.toNat
  if n < 0x20 then some (.x (BitVec.ofNat 5 n))
  else if n = 0x20 then some .epc
  else if n = 0x21 then some .btgt
  else if n = 0x22 then some .prog
  else if n = 0x23 then some .frame
  else if 0x100 ≤ n ∧ n < 0x200 then some (.v (BitVec.ofNat 5 ((n - 0x100) / 8)) (n % 8))
  else none

/-- The value that a selector names in a context. -/
def Ctx.slotRead (c : Ctx) : SlotSel → Word
  | .x n => c.x n
  | .epc => c.trap.epc
  | .btgt => c.trap.btgt
  | .prog => c.trap.prog
  | .frame => c.trap.frame
  | .v n w => (c.v n).extractLsb' (64 * w) 64

/-- A V register with one of its words replaced. -/
def setVWord (v : VReg) (w : Nat) (x : Word) : VReg :=
  let keep : VReg := ~~~((BitVec.allOnes 64).setWidth 512 <<< (64 * w))
  (v &&& keep) ||| (x.setWidth 512 <<< (64 * w))

/-- A selector's value written; a register is filled and any poison mark cleared (R174, R356); the reserved bits of a control
register take no write (R8, Tables 18-2 to 18-4 and 18-9). -/
def Ctx.slotWrite (c : Ctx) (sel : SlotSel) (x : Word) : Ctx :=
  match sel with
  | .x n =>
    let c := c.setX n x
    { c with regs := { c.regs with xPoison := setBit c.regs.xPoison n false } }
  | .epc => { c with trap := { c.trap with epc := x &&& 0x00FFFFFFFFFFFFFC } }
  | .btgt => { c with trap := { c.trap with btgt := x &&& 0x00FFFFFFFFFFFFFF } }
  | .prog => { c with trap := { c.trap with prog := x &&& 0x1F } }
  | .frame => { c with trap := { c.trap with frame := x &&& 0x80000000FFFC3C3C } }
  | .v n w =>
    let c := c.setV n (setVWord (c.v n) w x)
    { c with regs := { c.regs with vPoison := setBit c.regs.vPoison n false } }

/-- SLOTRD (R356). -/
def execSlotrd (d a b : BitVec 5) (s : State) : Host.Outcome State Fault Refusal :=
  .next (s.issue (sysServicer [srcX0 a, srcX0 b] [.x d]) fun s =>
    let w := s.me.x a
    match s.tokenCore w, slotSel (s.me.x b) with
    | none, _ => s.trap s.cur Cause.protect w
    | _, none => s.trap s.cur Cause.protect (s.me.x b)
    | some core, some sel =>
      s.writeX d (if s.slotStale core w then 0 else (s.ctx (.slot core (tokSlot w))).slotRead sel))

/-- SLOTWR; its first field names the source (R356). -/
def execSlotwr (s_ a b : BitVec 5) (s : State) : Host.Outcome State Fault Refusal :=
  .next (s.issue (sysServicer [srcX0 s_, srcX0 a, srcX0 b] []) fun s =>
    let w := s.me.x a
    match s.tokenCore w, slotSel (s.me.x b) with
    | none, _ => s.trap s.cur Cause.protect w
    | _, none => s.trap s.cur Cause.protect (s.me.x b)
    | some core, some sel =>
      let v := s.me.x s_
      let s := if s.slotStale core w then s else s.onCtx (.slot core (tokSlot w)) fun c => c.slotWrite sel v
      s.finish id)

/-! ### The kernel part of the fault queue (R357, R358) -/

/-- Whether `n` bytes from a device-physical address lie wholly in HBM, the cistern or host memory. -/
def inMemory (pa n : Nat) : Bool :=
  decide (pa + n ≤ Config.hbmSize)
    || (decide (Config.cisternBase ≤ pa) && decide (pa + n ≤ Config.cisternBase + Config.cisternSize))
    || (decide (Config.hostBase ≤ pa) && decide (pa + n ≤ Config.hostEnd))

/-- Whether an address lies in an HBM channel of another partition than an agent's (R399). -/
def State.foreignHbm (s : State) (a : Agent) (pa : Nat) : Bool :=
  decide (pa < Config.hbmSize) && decide (s.partOfHbm pa ≠ s.partOf a)

/-- FQPOP (R357). -/
def execFqpop (d a b : BitVec 5) (s : State) : Host.Outcome State Fault Refusal :=
  .next (s.issue (sysCellarer [srcX0 a, srcX0 b] [.x d]) fun s =>
    let c := (s.me.x a).toNat
    let pa := (s.me.x b).toNat
    if Config.clusters ≤ c ∨ s.partOfCluster c ≠ s.partOf s.cur then s.trap s.cur Cause.protect (s.me.x a)
    else if pa % 64 ≠ 0 ∨ !inMemory pa 64 ∨ s.foreignHbm s.cur pa then s.trap s.cur Cause.protect (s.me.x b)
    else s.release fun s =>
      match (s.cluster c).kernelQueue with
      | [] => s.writeX d 0
      | r :: rest =>
        let s := s.storeBytes (.mem pa) (r.words.flatMap wordToBytes)
        (s.onCluster c fun cl => { cl with kernelQueue := rest }).writeX d (toWord (1 + rest.length)))

/-- FQWAIT: it ends at once when a watched cluster has a record; X[a] = 0 sets no limit.  A watched cluster of another partition
raises PROTECT, with an open C.FADDR (R358, R399). -/
def execFqwait (d a : BitVec 5) (s : State) : Host.Outcome State Fault Refusal :=
  .next (s.issue (sysCellarer [srcX0 a] [.x d]) fun s =>
    if (upFrom 0 Config.clusters).any fun c => watches s.me.sp.fqw c && decide (s.partOfCluster c ≠ s.partOf s.cur) then
      let (w, s) := s.freeWord
      s.trap s.cur Cause.protect w
    else
      match s.watchedRecord s.cur with
      | some c => s.writeX d (toWord c)
      | none =>
        let n := (s.me.x a).toNat
        s.hold s.cur (.fqwait d (if n = 0 then none else some (s.now + n))))

/-- FQWAIT_TIMEOUT of a cellarer core: its limit has passed (R358). -/
def execFqwaitTimeout (k : Nat) (s : State) : Host.Outcome State Fault Refusal :=
  .next (match (s.ctx (.cel k)).ctl.hold with
    | some (.fqwait d (some t)) =>
      if t ≤ s.now then s.onCtx (.cel k) fun c => (c.setX d (BitVec.allOnes 64)).advance else s
    | _ => s)

/-! ### KRET (R359) -/

/-- KRET (R359). -/
def execKret (s : State) : Host.Outcome State Fault Refusal :=
  .next (s.issue (sysCellarer [] []) fun s => s.onCtx s.cur Ctx.kret)

end Sys2Proof.Machine
end

