-- ==== Sys2Proof/Machine/Crypto.lean ====
section
/-! DEFINITION. What verifies an image (R416): SHA-384 and SHA-256 (FIPS 180-4), ECDSA on P-384 (FIPS 186-5), and LMS with
LMS_SHA256_M32_H20 and LMOTS_SHA256_N32_W8 (RFC 8554).  The spec names these standards and does not restate them; their
constants and steps are PRESUMED from the standards themselves (log entry 12). -/

namespace Sys2Proof.Machine

/-- The number that bytes hold, the highest first. -/
def fromBytesBE (bs : List Byte) : Nat := bs.foldl (fun n b => 256 * n + b.toNat) 0

/-- `n` bytes of a number, the highest first. -/
def toBytesBE (n v : Nat) : List Byte := (toBytes n v).reverse

/-! ### SHA-384 and SHA-256 -/

/-- The largest `r` below `2 ^ n` with `r ^ k ≤ x`, from the highest bit down. -/
def rootBelow (k x : Nat) : Nat → Nat → Nat
  | 0, r => r
  | n + 1, r => rootBelow k x n (if (r + 2 ^ n) ^ k ≤ x then r + 2 ^ n else r)

/-- The first `w` bits of the fractional part of the `k`-th root of a number below 512. -/
def rootFraction (k w p : Nat) : BitVec w := BitVec.ofNat w (rootBelow k (p * 2 ^ (k * w)) (w + 5) 0)

/-- The first 80 primes: those up to 409. -/
def firstPrimes : List Nat :=
  (upFrom 2 408).filter fun n => (upFrom 2 (n - 2)).all fun d => decide (n % d ≠ 0)

/-- The initial hash value of SHA-384: the square roots of the ninth to the sixteenth prime. -/
def sha384Start : List (BitVec 64) := ((firstPrimes.drop 8).take 8).map (rootFraction 2 64)

/-- The round constants of SHA-384: the cube roots of the first 80 primes. -/
def sha384Const : List (BitVec 64) := firstPrimes.map (rootFraction 3 64)

/-- The initial hash value of SHA-256: the square roots of the first eight primes. -/
def sha256Start : List (BitVec 32) := (firstPrimes.take 8).map (rootFraction 2 32)

/-- The round constants of SHA-256: the cube roots of the first 64 primes. -/
def sha256Const : List (BitVec 32) := (firstPrimes.take 64).map (rootFraction 3 32)

/-- The rotations of the functions Σ0, Σ1, σ0 and σ1 of a hash of the family; the last of σ0 and σ1 is a shift. -/
structure ShaRot where
  up0 : Nat × Nat × Nat
  up1 : Nat × Nat × Nat
  lo0 : Nat × Nat × Nat
  lo1 : Nat × Nat × Nat
deriving DecidableEq, Repr

/-- The rotations of SHA-384. -/
def sha384Rot : ShaRot := ⟨(28, 34, 39), (14, 18, 41), (1, 8, 7), (19, 61, 6)⟩

/-- The rotations of SHA-256. -/
def sha256Rot : ShaRot := ⟨(2, 13, 22), (6, 11, 25), (7, 18, 3), (17, 19, 10)⟩

/-- Σ0 and Σ1. -/
def shaUp (r : Nat × Nat × Nat) (x : BitVec w) : BitVec w :=
  x.rotateRight r.1 ^^^ x.rotateRight r.2.1 ^^^ x.rotateRight r.2.2

/-- σ0 and σ1. -/
def shaLo (r : Nat × Nat × Nat) (x : BitVec w) : BitVec w :=
  x.rotateRight r.1 ^^^ x.rotateRight r.2.1 ^^^ (x >>> r.2.2)

/-- The message schedule, the last word first, made longer by `n` words. -/
def shaSchedule (r : ShaRot) : Nat → List (BitVec w) → List (BitVec w)
  | 0, ws => ws
  | n + 1, ws =>
    shaSchedule r n
      ((shaLo r.lo1 (ws.getD 1 0) + ws.getD 6 0 + shaLo r.lo0 (ws.getD 14 0) + ws.getD 15 0) :: ws)

/-- One round on the eight working variables. -/
def shaRound (r : ShaRot) (v : List (BitVec w)) (kw : BitVec w) : List (BitVec w) :=
  match v with
  | [a, b, c, d, e, f, g, h] =>
    let t1 := h + shaUp r.up1 e + ((e &&& f) ^^^ (~~~e &&& g)) + kw
    let t2 := shaUp r.up0 a + ((a &&& b) ^^^ (a &&& c) ^^^ (b &&& c))
    [t1 + t2, a, b, c, d + t1, e, f, g]
  | _ => v

/-- One block of 16 words. -/
def shaBlock (r : ShaRot) (consts : List (BitVec w)) (h ws : List (BitVec w)) : List (BitVec w) :=
  let sched := (shaSchedule r (consts.length - 16) ws.reverse).reverse
  let v := (consts.zipWith (· + ·) sched).foldl (shaRound r) h
  h.zipWith (· + ·) v

/-- The words of `w` bits of `n` blocks of bytes. -/
def shaWords (w : Nat) : Nat → List Byte → List (BitVec w)
  | 0, _ => []
  | n + 1, bs => BitVec.ofNat w (fromBytesBE (bs.take (w / 8))) :: shaWords w n (bs.drop (w / 8))

/-- The blocks of a padded message, in order. -/
def shaBlocks (r : ShaRot) (consts : List (BitVec w)) : Nat → List Byte → List (BitVec w) → List (BitVec w)
  | 0, _, h => h
  | n + 1, bs, h => shaBlocks r consts n (bs.drop (2 * w)) (shaBlock r consts h (shaWords w 16 bs))

/-- A hash of the family: the message is padded with a one bit, zeros and its length in bits. -/
def sha (r : ShaRot) (consts start : List (BitVec w)) (out : Nat) (msg : List Byte) : List Byte :=
  let block := 2 * w
  let lenBytes := w / 4
  let n := (msg.length + 1 + lenBytes + block - 1) / block
  let zeros := List.replicate (n * block - msg.length - 1 - lenBytes) (0 : Byte)
  let padded := msg ++ 0x80 :: zeros ++ toBytesBE lenBytes (8 * msg.length)
  ((shaBlocks r consts n padded start).flatMap fun x => toBytesBE (w / 8) x.toNat).take out

/-- SHA-384. -/
def sha384 (msg : List Byte) : List Byte := sha sha384Rot sha384Const sha384Start 48 msg

/-- SHA-256. -/
def sha256 (msg : List Byte) : List Byte := sha sha256Rot sha256Const sha256Start 32 msg

/-! ### ECDSA on P-384 -/

/-- The prime of P-384. -/
def p384 : Nat := 2 ^ 384 - 2 ^ 128 - 2 ^ 96 + 2 ^ 32 - 1

/-- The order of its base point. -/
def p384Order : Nat :=
  0xffffffffffffffffffffffffffffffffffffffffffffffffc7634d81f4372ddf581a0db248b0a77aecec196accc52973

/-- The constant term of its curve, y² = x³ − 3x + b. -/
def p384B : Nat :=
  0xb3312fa7e23ee7e4988e056be3f82d19181d9c6efe8141120314088f5013875ac656398d8a2ed19d2a85c8edd3ec2aef

/-- Its base point. -/
def p384Base : Nat × Nat :=
  (0xaa87ca22be8b05378eb1c71ef320ad746e1d3b628ba79b9859f741e082542a385502f25dbf55296c3a545e3872760ab7,
   0x3617de4a96262c6f5d9e98bf9292dc29f8f41dbd289a147ce9da3113b5f0b8c00a60b1ce1d7e819d7a431d7c90ea0e5f)

/-- `a` to the power whose `n` low bits are those of `e`, modulo `m`. -/
def powMod (m : Nat) : Nat → Nat → Nat → Nat
  | 0, _, _ => 1 % m
  | n + 1, a, e => (if e.testBit 0 then a else 1) * powMod m n (a * a % m) (e / 2) % m

/-- The inverse modulo a prime of at most 384 bits. -/
def invMod (m a : Nat) : Nat := powMod m 384 (a % m) (m - 2)

/-- A point of P-384; none is the point at infinity. -/
abbrev CurvePoint := Option (Nat × Nat)

/-- Whether a point lies on the curve, with both coordinates below the prime. -/
def onP384 (q : Nat × Nat) : Bool :=
  decide (q.1 < p384) && decide (q.2 < p384) &&
    decide ((q.2 * q.2 + 3 * q.1) % p384 = (q.1 * q.1 * q.1 + p384B) % p384)

/-- The third point of a line of a slope through two points, mirrored. -/
def chord (slope : Nat) (a b : Nat × Nat) : CurvePoint :=
  let x := (slope * slope + 2 * p384 - a.1 - b.1) % p384
  some (x, (slope * (a.1 + p384 - x) + p384 - a.2) % p384)

/-- The sum of two points. -/
def addPoint : CurvePoint → CurvePoint → CurvePoint
  | none, b => b
  | a, none => a
  | some a, some b =>
    if a.1 ≠ b.1 then chord ((b.2 + p384 - a.2) * invMod p384 (b.1 + p384 - a.1) % p384) a b
    else if (a.2 + b.2) % p384 = 0 then none
    else chord ((3 * a.1 * a.1 + p384 - 3) * invMod p384 (2 * a.2) % p384) a b

/-- The multiple of a point by the `n` low bits of a number. -/
def mulPoint : Nat → Nat → CurvePoint → CurvePoint
  | 0, _, _ => none
  | n + 1, k, q => addPoint (if k.testBit 0 then q else none) (mulPoint n (k / 2) (addPoint q q))

/-- Whether an ECDSA signature of 96 bytes, r then s, verifies over a message with SHA-384 under an uncompressed public key of 97
bytes. -/
def ecdsaVerifies (sig msg key : List Byte) : Bool :=
  let r := fromBytesBE (sig.take 48)
  let s := fromBytesBE ((sig.drop 48).take 48)
  let q := (fromBytesBE ((key.drop 1).take 48), fromBytesBE ((key.drop 49).take 48))
  if sig.length ≠ 96 ∨ key.length ≠ 97 ∨ key.head? ≠ some 4 ∨ onP384 q = false then false
  else if r = 0 ∨ s = 0 ∨ p384Order ≤ r ∨ p384Order ≤ s then false
  else
    let inv := invMod p384Order s
    let e := fromBytesBE (sha384 msg)
    match addPoint (mulPoint 384 (e * inv % p384Order) (some p384Base)) (mulPoint 384 (r * inv % p384Order) (some q)) with
    | none => false
    | some z => decide (z.1 % p384Order = r)

/-! ### LMS -/

/-- The typecode of LMS_SHA256_M32_H20. -/
def lmsType : Nat := 8

/-- The typecode of LMOTS_SHA256_N32_W8. -/
def lmotsType : Nat := 4

/-- The elements of an LM-OTS signature for W = 8: 32 of the digest and 2 of the checksum. -/
def lmotsChains : Nat := 34

/-- The height of the tree. -/
def lmsHeight : Nat := 20

/-- The hash chain of element `i` from step `j` on, `n` steps long. -/
def lmotsChain (pre : List Byte) (i : Nat) : Nat → Nat → List Byte → List Byte
  | _, 0, t => t
  | j, n + 1, t => lmotsChain pre i (j + 1) n (sha256 (pre ++ toBytesBE 2 i ++ toBytesBE 1 j ++ t))

/-- The candidate for the LM-OTS public key: `pre` is I and q, `c` the randomizer, `y` the elements. -/
def lmotsCandidate (pre c y msg : List Byte) : List Byte :=
  let q := sha256 (pre ++ toBytesBE 2 0x8181 ++ c ++ msg)
  let sum := q.foldl (fun n b => n + (255 - b.toNat)) 0
  let digits := q ++ toBytesBE 2 sum
  sha256 (pre ++ toBytesBE 2 0x8080 ++ (upFrom 0 lmotsChains).flatMap fun i =>
    let a := (digits.getD i 0).toNat
    lmotsChain pre i a (255 - a) ((y.drop (32 * i)).take 32))

/-- The root that a leaf and its path give, from a node on up `n` levels. -/
def lmsRoot (ident path : List Byte) : Nat → Nat → Nat → List Byte → List Byte
  | _, _, 0, t => t
  | node, i, n + 1, t =>
    let sib := (path.drop (32 * i)).take 32
    let pre := ident ++ toBytesBE 4 (node / 2) ++ toBytesBE 2 0x8383
    lmsRoot ident path (node / 2) (i + 1) n (sha256 (if node % 2 = 1 then pre ++ sib ++ t else pre ++ t ++ sib))

/-- Whether an LMS signature verifies over a message under a public key of 56 bytes. -/
def lmsVerifies (sig msg key : List Byte) : Bool :=
  let num := fun (bs : List Byte) (off : Nat) => fromBytesBE ((bs.drop off).take 4)
  let ident := (key.drop 8).take 16
  let q := num sig 0
  let ots := 8 + 32 + 32 * lmotsChains
  if key.length ≠ 56 ∨ num key 0 ≠ lmsType ∨ num key 4 ≠ lmotsType then false
  else if sig.length ≠ ots + 4 + 32 * lmsHeight ∨ num sig 4 ≠ lmotsType ∨ num sig ots ≠ lmsType ∨ 2 ^ lmsHeight ≤ q then false
  else
    let pre := ident ++ toBytesBE 4 q
    let kc := lmotsCandidate pre ((sig.drop 8).take 32) ((sig.drop 40).take (32 * lmotsChains)) msg
    let node := 2 ^ lmsHeight + q
    let leaf := sha256 (ident ++ toBytesBE 4 node ++ toBytesBE 2 0x8282 ++ kc)
    decide (lmsRoot ident (sig.drop (ots + 4)) node 0 lmsHeight leaf = key.drop 24)

end Sys2Proof.Machine
end

