-- ==== Sys2Proof/Machine/Boot.lean ====
section
/-! DEFINITION. Signed images, the start of kernels and TSC firmware, and the board controller's commands (R400, R415, R416,
R419, R421). -/

namespace Sys2Proof.Machine

/-! ### Images (R415, R416) -/

/-- Bytes of an image in device memory at a base. -/
def State.imageBytes (s : State) (base off n : Nat) : List Byte := s.mem.readN (base + off) n

/-- A header word of an image. -/
def State.imageWord (s : State) (base i : Nat) : Word := s.mem.word (base + 8 * i)

/-- Whether the header of an image of a kind is well formed, with ENTRY, CFG, KEYS and KEYS + 153 below LEN (Table 23-1). -/
def State.headerOk (s : State) (base kind : Nat) : Bool :=
  let w := s.imageWord base
  let len := (w 2).toNat
  decide (w 0 = 0x31464D5553595650) && decide (wbits (w 1) 63 16 = 0) && decide (wbits (w 1) 15 8 = 1)
    && decide (wbits (w 1) 7 0 = kind) && decide (0x80 ≤ len) && decide (len ≤ 2 ^ 32)
    && decide ((w 3).toNat % 4 = 0) && (decide (kind = 0) || decide (w 4 = 0))
    && decide (len ≤ (w 7).toNat) && decide (len ≤ (w 8).toNat)
    && (upFrom 10 6).all (fun i => decide (w i = 0))
    && decide ((w 3).toNat < len) && decide ((w 4).toNat < len) && decide ((w 6).toNat + 153 < len)

/-- What verifying an image finds: nothing wrong, or the reason of Table 23-2 (R416). -/
def State.verifyImage (s : State) (base kind : Nat) : Option Nat :=
  let w := s.imageWord base
  let msg := s.imageBytes base 0 (w 2).toNat
  let keys := s.imageBytes base (w 6).toNat 153
  if !s.headerOk base kind then some 4
  else if sha384 (keys.take 97) ≠ Config.romDigest false ∨ sha384 (keys.drop 97) ≠ Config.romDigest true then some 5
  else if !ecdsaVerifies (s.imageBytes base (w 7).toNat 96) msg (keys.take 97) then some 6
  else if !lmsVerifies (s.imageBytes base (w 8).toNat (w 9).toNat) msg (keys.drop 97) then some 7
  else none

/-- The address of an image's first instruction. -/
def State.imageEntry (s : State) (base : Nat) : Nat := base + (s.imageWord base 3).toNat

/-! ### Kernels (R419) -/

/-- KIMG of a partition. -/
def State.kimg (s : State) (part : Nat) : Word := s.board.kimg.get part 0

/-- Whether a store to KSTART raises PROTECT: its mask names a core of another partition, and the store is not from
partition 0. -/
def State.kstartBad (s : State) (part : Nat) (v : Word) : Bool :=
  decide (part ≠ 0) && (upFrom 0 16).any fun k => v.getLsbD k && decide (s.partOfCel k ≠ part)

/-- KSTART starts the verification of the partition's kernel image for the cores of its mask. -/
def State.kstart (s : State) (part : Nat) (v : Word) : State :=
  if s.kstartBad part v then s
  else
    { s with board := { s.board with
        kst := s.board.kst.put part 1, kmask := s.board.kmask.put part (wbits v 15 0) } }

/-- KSTART, a store from a partition (R419). -/
def execKstart (partition : Nat) (v : Word) (s : State) : Host.Outcome State Fault Refusal :=
  .next (s.kstart partition v)

/-- KERNEL_IMAGE_VERIFIED: the cores of the mask start at the image's ENTRY, or KST becomes 2 and they stay as they are
(R419). -/
def execKernelImageVerified (partition : Nat) (s : State) : Host.Outcome State Fault Refusal :=
  .next (
    if s.board.kst.get partition 0 ≠ 1 then s
    else
      let base := (s.kimg partition).toNat
      let done := fun (s : State) (n : Nat) => { s with board := { s.board with kst := s.board.kst.put partition n } }
      match s.verifyImage base 1 with
      | some _ => done s 2
      | none =>
        done ((upFrom 0 16).foldl (fun s k =>
          if (s.board.kmask.get partition 0).testBit k then s.startCel k (s.imageEntry base) else s) s) 0)

/-! ### TSC firmware (R400) -/

/-- TSCLD: the TSC of a cluster stops at an instruction boundary and its image is verified; ignored while a load is under
way. -/
def State.tscLoad (s : State) (v : Word) : State :=
  let c := wbits v 8 0
  if s.parts.tscst = 1 ∨ Config.clusters ≤ c then s
  else
    let s := s.onCtx (.tsc c) fun x => { x with ctl := { x.ctl with quiesced := true } }
    let s := s.onCluster c fun cl => { cl with tscLoading := true }
    { s with parts := { s.parts with tscst := 1 } }

/-- TSCLD (R400). -/
def execTscld (v : Word) (s : State) : Host.Outcome State Fault Refusal :=
  .next (s.tscLoad v)

/-- TSC_LOAD_COMPLETE: the TSC restarts at the image's entry with its queues as they stand, or the old firmware goes on
(R400). -/
def execTscLoadComplete (cluster : Nat) (s : State) : Host.Outcome State Fault Refusal :=
  .next (
    if !(s.cluster cluster).tscLoading then s
    else
      let base := s.parts.tscimg.toNat
      let s := s.onCluster cluster fun cl => { cl with tscLoading := false }
      match s.verifyImage base 2 with
      | some _ =>
        { s.onCtx (.tsc cluster) fun x => { x with ctl := { x.ctl with quiesced := false } } with
          parts := { s.parts with tscst := 2 } }
      | none =>
        { s.onCtx (.tsc cluster) fun x =>
            { Ctx.reset .running with
              ctl := { Control.reset .running with pc := pcOf (toWord (s.imageEntry base)) }
              sp := { SlotRegs.reset with cycleBase := s.now }
              queue := x.queue } with
          parts := { s.parts with tscst := 0 } })

/-! ### The board controller (R421) -/

/-- A store to MBCMD from a cellarer core starts a command when MBST is idle.  Of two stores of one cycle that find it idle the
lower core's command runs, whichever came first (R421, R422; log entry 113). -/
def State.mbStart (s : State) (core : Nat) (v : Word) : State :=
  let b := s.board
  if b.mbst = 0 ∨ (b.mbst = 1 ∧ b.commandAt = s.now ∧ core < b.commandBy) then
    { s with board := { b with command := v, mbst := 1, commandAt := s.now, commandBy := core } }
  else s

/-- The cellarer core whose store a board command is: the one that issues, else core 0. -/
def State.mbCore (s : State) : Nat :=
  match s.cur with
  | .cel k => k
  | _ => 0

/-- MB_TEMPERATURE (Table 23-4). -/
def execMbTemperature (s : State) : Host.Outcome State Fault Refusal :=
  .next (s.mbStart s.mbCore 1)

/-- MB_RAIL (Table 23-4). -/
def execMbRail (s : State) : Host.Outcome State Fault Refusal :=
  .next (s.mbStart s.mbCore 2)

/-- MB_POWER_LIMIT (Table 23-4). -/
def execMbPowerLimit (watts : BitVec 32) (s : State) : Host.Outcome State Fault Refusal :=
  .next (s.mbStart s.mbCore (toWord (watts.toNat * 2 ^ 32 + 3)))

/-- MB_STANDBY (Table 23-4). -/
def execMbStandby (s : State) : Host.Outcome State Fault Refusal :=
  .next (s.mbStart s.mbCore 4)

/-- The board controller's answer to a command: MBST, and what else changes.  What its sensors read, and MBRSP of a command
for which Table 23-4 names no value, are open. -/
def State.mbAnswer (s : State) : State :=
  let w := s.board.command
  let arg := wbits w 63 32
  let refuse := { s with board := { s.board with mbst := 3 } }
  match wbits w 7 0 with
  | 1 =>
    if arg ≠ 0 then refuse
    else
      let (r, s) := s.freeWord
      { s with board := { s.board with mbst := 2, mbrsp := r } }
  | 2 =>
    if arg ≠ 0 then refuse
    else
      let (r, s) := s.freeWord
      { s with board := { s.board with mbst := 2, mbrsp := r } }
  | 3 =>
    if arg = 0 ∨ 3600 < arg then refuse
    else
      let (r, s) := s.freeWord
      { s with board := { s.board with mbst := 2, mbrsp := r, limit := arg } }
  | 4 => if arg ≠ 0 then refuse else { s with board := { s.board with powered := false } }
  | _ => refuse

/-- MBCMD_DONE (R421), in a later cycle than the store. -/
def execMbcmdDone (s : State) : Host.Outcome State Fault Refusal :=
  .next (if s.board.mbst = 1 ∧ s.board.commandAt < s.now then s.mbAnswer else s)

/-- What reading MBST leaves: 2 and 3 return to 0. -/
def State.mbstRead (s : State) : State :=
  if 2 ≤ s.board.mbst then { s with board := { s.board with mbst := 0 } } else s

/-- MBST (R421). -/
def execMbst (s : State) : Host.Outcome State Fault Refusal :=
  .next s.mbstRead

end Sys2Proof.Machine
end

