-- ==== Sys2Proof/Machine/Windows.lean ====
section
/-! DEFINITION. The windows of device-physical space and the host window: which register an address names, what a read gives,
what a store does, and which stores raise PROTECT or wait (R8, R363, R368 to R375, R377 to R379, R398, R399, R420, R421). -/

namespace Sys2Proof.Machine

/-- A window with an offset in it (R363). -/
inductive Win where
  | cluster (c off : Nat)
  | device (off : Nat)
  | dispatch (off : Nat)
  | parts (off : Nat)
  | board (off : Nat)
deriving DecidableEq, Repr

/-- Where an address lies in a window of 64 KiB. -/
def inWindow (base pa : Nat) : Bool := decide (base ≤ pa) && decide (pa < base + Config.windowSize)

/-- The window of an address (R363). -/
def winOf (pa : Nat) : Option Win :=
  if Config.clusterWindow ≤ pa ∧ pa < Config.clusterWindow + 0x1000 * Config.clusters then
    some (.cluster ((pa - Config.clusterWindow) / 0x1000) (pa % 0x1000))
  else if inWindow Config.deviceWindow pa then some (.device (pa - Config.deviceWindow))
  else if inWindow Config.dispatchWindow pa then some (.dispatch (pa - Config.dispatchWindow))
  else if inWindow Config.partitionWindow pa then some (.parts (pa - Config.partitionWindow))
  else if inWindow Config.boardWindow pa then some (.board (pa - Config.boardWindow))
  else none

/-- The element of a register array that an offset names: base, stride and length. -/
def elemOf (off base stride n : Nat) : Option Nat :=
  if base ≤ off ∧ (off - base) % stride = 0 ∧ (off - base) / stride < n then some ((off - base) / stride) else none

/-! ### Reads -/

/-- A register of a cluster translation window (Tables 13-13, 19-3). -/
def Cluster.winRead (cl : Cluster) (off : Nat) : Word :=
  let t := cl.tape (wbits cl.ckSel 2 0)
  match elemOf off 0x80 8 8 with
  | some i =>
    match cl.view with
    | r :: _ => blk r.words i
    | [] => 0
  | none =>
    match off with
    | 0x00 => mq0 cl.missHead
    | 0x08 => mq1 cl.missHead
    | 0x18 => cl.mqcnt
    | 0x20 => cl.ent0
    | 0x28 => cl.ent1
    | 0xD0 => toWord cl.view.length
    | 0x100 => cl.ckSel
    | 0x108 => t.managed
    | 0x110 => toWord cl.freeLines
    | _ => 0

/-- A register of the device translation window (Table 19-4). -/
def Translation.winRead (x : Translation) (off : Nat) : Word :=
  match off with
  | 0x00 => x.inva
  | 0x08 => x.invn
  | 0x18 => x.pzb
  | 0x28 => x.migt
  | 0x30 => x.mva
  | 0x38 => x.mdst
  | 0x48 => toWord x.mstat
  | _ => 0

/-- A register of the dispatch window (Table 20-1). -/
def Dispatch.winRead (d : Dispatch) (off : Nat) : Word :=
  match elemOf off 0x20 8 4, elemOf off 0x100 16 256, elemOf off 0x108 16 256, elemOf off 0x1100 8 256 with
  | some m, _, _, _ => d.qerr.extractLsb' (64 * m) 64
  | _, some t, _, _ => d.slice.get t 1250000
  | _, _, some t, _ => d.debt.get t 0
  | _, _, _, some q => d.qcfg.get q 0
  | _, _, _, _ =>
    match off with
    | 0x000 => d.tgrace
    | 0x008 => d.tkill
    | _ => 0

/-- A register of the partition window (Table 22-1). -/
def State.partsRead (s : State) (off : Nat) : Word :=
  match elemOf off 0 8 Config.clusters, elemOf off 0x1000 8 16, elemOf off 0x1100 8 192, elemOf off 0x1800 8 2 with
  | some c, _, _, _ =>
    toWord (s.partOfCluster c + b2n (s.parts.spare.contains c) * 2 ^ 62 + b2n (s.parts.quar.contains c) * 2 ^ 63)
  | _, some k, _, _ => toWord (s.partOfCel k)
  | _, _, some h, _ => toWord (s.parts.hpart.get h 0)
  | _, _, _, some e => toWord (s.parts.epart.get e 0)
  | _, _, _, _ =>
    match off with
    | 0x1900 => s.parts.tscimg
    | 0x1910 => toWord s.parts.tscst
    | _ => 0

/-- A register of the board window, as a partition reads it (Table 23-3). -/
def Board.winRead (b : Board) (part off : Nat) : Word :=
  match off with
  | 0x00 => b.domain
  | 0x08 => b.kimg.get part 0
  | 0x18 => toWord (b.kst.get part 0)
  | 0x28 => b.mbrsp
  | 0x30 => toWord b.mbst
  | _ => 0

/-- What a read of a window register gives an agent of a partition, and the state after it: MQCNT clears BAD, and MBST 2 or 3
returns to 0. -/
def State.winRead (s : State) (part : Nat) : Win → Word × State
  | .cluster c off =>
    ((s.cluster c).winRead off, if off = 0x18 then s.onCluster c fun cl => { cl with bad := false } else s)
  | .device off => (s.xlat.winRead off, s)
  | .dispatch off => (s.dispatch.winRead off, s)
  | .parts off => (s.partsRead off, s)
  | .board off => (s.board.winRead part off, if off = 0x30 then s.mbstRead else s)

/-! ### Who reaches a window (R329, R398, R399) -/

/-- Whether an access of an agent to a window raises PROTECT: a cluster window of another partition, or the cask registers of
another cluster's TSC. -/
def State.winBad (s : State) (a : Agent) : Win → Bool
  | .cluster c off =>
    decide (s.partOfCluster c ≠ s.partOf a)
      || (decide (0x100 ≤ off) && decide (off ≤ 0x118) && (match a with
        | .tsc t => decide (t ≠ c)
        | _ => false))
  | _ => false

/-- Whether a role is bound in a cluster. -/
def State.clusterBound (s : State) (c : Nat) : Bool :=
  (coresOf c).any fun k => (s.core k).binding.isSome

/-- Whether a store from a partition to a window raises PROTECT (R371, R375, R398, R399, R419, R421). -/
def State.storeBad (s : State) (part : Nat) (w : Win) (v : Word) : Bool :=
  match w with
  | .cluster _ _ => false
  | .device off => (decide (off = 0x20) && s.zeroBad v) || (decide (off = 0x40) && s.migrateBad v)
  | .dispatch _ => false
  | .parts off =>
    if off = 0x1900 then false
    else if off = 0x1908 then decide (part ≠ 0) && decide (s.partOfCluster (wbits v 8 0) ≠ part)
    else
      decide (part ≠ 0) || (match elemOf off 0 8 Config.clusters with
        | some c => s.clusterBound c || s.parts.quar.contains c
        | none => false)
  | .board off =>
    ((decide (off = 0x00) || decide (off = 0x20)) && decide (part ≠ 0)) || (decide (off = 0x10) && s.kstartBad part v)

/-- Whether a store to a window is not acknowledged yet (R329, R368, R370). -/
def State.storeWaits (s : State) (w : Win) (v : Word) : Bool :=
  match w with
  | .cluster c off =>
    (decide (off = 0xC8) && !s.recfwdReady c) || (decide (off = 0x118) && !s.reclaimReady c)
  | .device off => decide (off = 0x10) && !s.invReady v
  | _ => false

/-! ### Registers without a behaviour of their own -/

/-- A store to a plain register of a window under its access code; one that the window does not assign, or that is read only, is
ignored (R8, R363). -/
def State.plainStore (s : State) (part : Nat) (w : Win) (v : Word) : State :=
  let d := s.dispatch
  let p := s.parts
  match w with
  | .cluster c off =>
    match off with
    | 0x20 => s.onCluster c fun cl => { cl with ent0 := v }
    | 0x28 => s.onCluster c fun cl => { cl with ent1 := v }
    | 0x100 => s.onCluster c fun cl => { cl with ckSel := v &&& 7 }
    | _ => s
  | .device off =>
    match off with
    | 0x00 => { s with xlat := { s.xlat with inva := v } }
    | 0x08 => { s with xlat := { s.xlat with invn := v } }
    | 0x18 => { s with xlat := { s.xlat with pzb := v } }
    | 0x28 => { s with xlat := { s.xlat with migt := v &&& 0xFFFF } }
    | 0x30 => { s with xlat := { s.xlat with mva := v } }
    | 0x38 => { s with xlat := { s.xlat with mdst := v } }
    | _ => s
  | .dispatch off =>
    match elemOf off 0x20 8 4, elemOf off 0x100 16 256, elemOf off 0x108 16 256, elemOf off 0x1100 8 256 with
    | some m, _, _, _ => { s with dispatch := { d with qerr := d.qerr &&& ~~~((v.setWidth 256) <<< (64 * m)) } }
    | _, some t, _, _ => { s with dispatch := { d with slice := d.slice.put t v } }
    | _, _, some t, _ => { s with dispatch := { d with debt := d.debt.put t v } }
    | _, _, _, some q =>
      { s with dispatch := { d with
          qcfg := d.qcfg.put q (v &&& 0x80000007FFFF00FF), qpart := d.qpart.put q part } }
    | _, _, _, _ =>
      match off with
      | 0x000 => { s with dispatch := { d with tgrace := v &&& 0xFFFFFFFF } }
      | 0x008 => { s with dispatch := { d with tkill := v } }
      | _ => s
  | .parts off =>
    match elemOf off 0 8 Config.clusters, elemOf off 0x1000 8 16, elemOf off 0x1100 8 192, elemOf off 0x1800 8 2 with
    | some c, _, _, _ => { s with parts := { p with cpart := p.cpart.put c (wbits v 3 0) } }
    | _, some k, _, _ => { s with parts := { p with kpart := p.kpart.put k (wbits v 3 0) } }
    | _, _, some h, _ => { s with parts := { p with hpart := p.hpart.put h (wbits v 3 0) } }
    | _, _, _, some e => { s with parts := { p with epart := p.epart.put e (wbits v 3 0) } }
    | _, _, _, _ => if off = 0x1900 then { s with parts := { p with tscimg := v } } else s
  | .board off =>
    match off with
    | 0x00 => { s with board := { s.board with domain := v &&& 0xFF } }
    | 0x08 => { s with board := { s.board with kimg := s.board.kimg.put part v } }
    | _ => s

/-! ### Stores -/

/-- A store from a partition to a window register (Tables 13-13, 19-3, 19-4, 20-1, 22-1 and 23-3). -/
def State.winStore (s : State) (part : Nat) (w : Win) (v : Word) : State :=
  match w with
  | .cluster c off =>
    match off with
    | 0x10 => s.onCluster c fun cl => { cl with misses := popView cl.misses }
    | 0x30 => s.fillMiss c (wbits v 15 0)
    | 0x38 => s.refuseMiss c (wbits v 63 48) (wbits v 7 0)
    | 0xC0 => s.onCluster c fun cl => { cl with view := cl.view.drop 1 }
    | 0xC8 => s.forwardRecord c
    | 0x118 => s.reclaim c
    | _ => s.plainStore part w v
  | .device off =>
    match off with
    | 0x10 => s.invalidate v
    | 0x20 => s.zeroPage v
    | 0x40 => s.migrate v
    | 0x50 => s.endMigration
    | _ => s.plainStore part w v
  | .dispatch off =>
    match off with
    | 0x010 => s.soften (wbits v 31 0) none
    | 0x018 => s.killAny (wbits v 31 0)
    | _ => s.plainStore part w v
  | .parts off => if off = 0x1908 then s.tscLoad v else s.plainStore part w v
  | .board off =>
    match off with
    | 0x10 => s.kstart part v
    | 0x20 => s.mbStart s.mbCore v
    | _ => s.plainStore part w v

/-! ### The host window (R378, R420) -/

/-- The queue and register that an offset of BAR0 names. -/
def hostQueue (off : Nat) : Option (Nat × Nat) :=
  if 0x100000 ≤ off ∧ off < 0x200000 then some ((off - 0x100000) / 0x1000, off % 0x1000) else none

/-- A host read of BAR0 (Tables 20-2, 23-2); an unassigned offset reads zero. -/
def State.hostRead (s : State) (off : Nat) : Word :=
  match hostQueue off, elemOf off 0x10000 8 8 with
  | some (q, r), _ =>
    let u := s.queue q
    match r with
    | 0x00 => u.base
    | 0x08 => u.size
    | 0x10 => u.widx
    | 0x18 => u.ridx
    | 0x28 => toWord (u.stat + u.reason * 2 ^ 8)
    | _ => 0
  | _, some i => s.hostPort.mailh.get i 0
  | none, none =>
    match off with
    | 0 => toWord (s.hostPort.boot + s.hostPort.reason * 2 ^ 8 + s.hostPort.attempts * 2 ^ 32)
    | 8 => s.hostPort.cecnt
    | 0x10 => s.hostPort.uecnt
    | _ => 0

/-- A host write to a plain register of BAR0. -/
def State.hostPlain (s : State) (off : Nat) (v : Word) : State :=
  match hostQueue off, elemOf off 0x10000 8 8 with
  | some (q, r), _ =>
    match r with
    | 0x00 => s.onQueue q fun u => { u with base := v }
    | 0x08 => s.onQueue q fun u => { u with size := v }
    | 0x10 => s.onQueue q fun u => { u with widx := v }
    | _ => s
  | _, some i => { s with hostPort := { s.hostPort with mailh := s.hostPort.mailh.put i v } }
  | none, none =>
    match off with
    | 8 => { s with hostPort := { s.hostPort with cecnt := s.hostPort.cecnt &&& ~~~v } }
    | 0x10 => { s with hostPort := { s.hostPort with uecnt := s.hostPort.uecnt &&& ~~~v } }
    | _ => s

/-- A host write to BAR0: a doorbell, a queue reset, or a plain register (R378, R379, R420). -/
def State.hostStore (s : State) (off : Nat) (v : Word) : State :=
  match hostQueue off with
  | some (q, 0x20) => s.doorbell q
  | some (q, 0x30) => s.resetQueue q
  | _ => s.hostPlain off v

/-- REGISTER_WRITE: a write to a register with no behaviour of its own, of BAR0 by the host, or of a window by a cellarer core
of partition 0 (R8). -/
def execRegisterWrite (host : Bool) (address : Nat) (v : Word) (s : State) : Host.Outcome State Fault Refusal :=
  .next (
    if host then s.hostPlain address v
    else
      match winOf address with
      | some w => if address % 8 ≠ 0 ∨ s.winBad (.cel 0) w ∨ s.storeBad 0 w v then s else s.plainStore 0 w v
      | none => s)

end Sys2Proof.Machine
end

