-- ==== Sys2Proof/Machine/Access.lean ====
section
/-! DEFINITION. LD and ST: accesses to global memory by a small core, and to device-physical space by a cellarer core or a TSC
(R167 to R175, R184, R363, R398, R399). -/

namespace Sys2Proof.Machine

/-! ### Small cores -/

/-- LD of a small core: entries for its parts, and the register empty until the data land (R169, R173). -/
def State.loadGlobal (s : State) (d : BitVec 5) (o : BitVec 2) (sz : BitVec 3) (i : BitVec 10) (ea : Word) : State :=
  s.withParts s.cur ea.toNat (sizeBytes sz) .load fun ps =>
    ((s.useParts s.cur .load ps).loadParts s.cur (ordAcq o) (ordRel o) (nibbleOf sz i) (loadDst sz d) none
      (ordered (decide (sz = 4)) ps)).finish fun c => c.makeEmpty (dataReg sz d)

/-- ST of a small core: posted entries for its parts, or, in an atomic task, a buffered store (R169, R173, R175). -/
def State.storeGlobal (s : State) (d : BitVec 5) (o : BitVec 2) (sz : BitVec 3) (i : BitVec 10) (ea : Word) : State :=
  let bs := s.me.storeData sz d
  s.withParts s.cur ea.toNat (sizeBytes sz) .store fun ps =>
    if s.atomic s.cur then
      s.buffer s.cur (storeUse (sizeBytes sz)) ea [.store ea.toNat bs (nibbleOf sz i) (decide (sz = 4))] fun s => s.finish id
    else
      ((s.useParts s.cur .store ps).storeParts s.cur (ordAcq o) (ordRel o) (nibbleOf sz i) (decide (sz = 4))
        (ordered (decide (sz = 4)) ps) bs).finish id

/-! ### Cellarer cores and TSCs (R363, log entry 27) -/

/-- What a load of a cellarer core or a TSC finds in memory. -/
inductive BigGot where
  | wait
  | protect
  | poison (pa : Nat)
  | bytes (bs : List Byte)
deriving DecidableEq, Repr

/-- A load of `n` bytes of memory by a cellarer core or a TSC, which holds its core until its data are usable, since the
registers of these cores are always full (R76). -/
def State.readBig (s : State) (a : Agent) (pa n : Nat) (rel : Bool) : BigGot :=
  let q := (s.ctx a).queue
  let e : Entry := ⟨s.nextId, false, rel, .rc, pa, .load 0 (.mem pa) n 0, none, none⟩
  if !inMemory pa n then .protect
  else if q.all fun f => !mustFollow f e then
    match s.loadBytes q [] (.mem pa) pa n with
    | .inl bs => .bytes bs
    | .inr i => .poison (pa + i)
  else .wait

/-- LD of a cellarer core or a TSC: a window register in an aligned .D access, or bytes of memory. -/
def State.loadBig (s : State) (d : BitVec 5) (o : BitVec 2) (sz : BitVec 3) (i : BitVec 10) (ea : Word) : State :=
  match winOf ea.toNat with
  | some w =>
    if sz ≠ 3 ∨ ea.toNat % 8 ≠ 0 ∨ s.winBad s.cur w then s.trap s.cur Cause.protect ea
    else if ordRel o && !s.me.queue.isEmpty then s
    else
      let (v, s) := s.winRead (s.partOf s.cur) w
      s.writeX d v
  | none =>
    match s.readBig s.cur ea.toNat (sizeBytes sz) (ordRel o) with
    | .wait => s
    | .protect => s.trap s.cur Cause.protect ea
    | .poison p => s.trap s.cur Cause.poison (toWord p)
    | .bytes bs => s.finish fun c => c.takeData sz d (nibbleOf sz i) bs

/-- ST of a cellarer core or a TSC: a window register in an aligned .D access, which takes effect at once, or a posted store to
memory.  A store to a window that is not acknowledged yet keeps its core (R329, R370). -/
def State.storeBig (s : State) (d : BitVec 5) (o : BitVec 2) (sz : BitVec 3) (i : BitVec 10) (ea : Word) : State :=
  match winOf ea.toNat with
  | some w =>
    let v := s.me.x d
    if sz ≠ 3 ∨ ea.toNat % 8 ≠ 0 ∨ s.winBad s.cur w ∨ s.storeBad (s.partOf s.cur) w v then s.trap s.cur Cause.protect ea
    else if s.storeWaits w v || (ordRel o && !s.me.queue.isEmpty) then s
    else (s.winStore (s.partOf s.cur) w v).onCtx s.cur Ctx.advance
  | none =>
    if !inMemory ea.toNat (sizeBytes sz) then s.trap s.cur Cause.protect ea
    else
      (s.enqueue s.cur fun id =>
        ⟨id, ordAcq o, ordRel o, .rc, ea.toNat, .store (.mem ea.toNat) (s.me.storeData sz d) (nibbleOf sz i) false, none,
          none⟩).finish id

/-! ### The instructions -/

/-- LD (R167 to R175, R184). -/
def execLd (d a : BitVec 5) (k : BitVec 1) (o : BitVec 2) (sz : BitVec 3) (i : BitVec 10) (s : State) :
    Host.Outcome State Fault Refusal :=
  .next (s.issue { loadNeeds sz d a k with cellarer := true, legal := isSmall s.cur || decide (sz ≠ 4) } fun s =>
    let ea := effAddr (s.me.x a) sz i
    if 2 ^ 56 ≤ ea.toNat then s.trap s.cur Cause.protect ea
    else if isSmall s.cur then s.loadGlobal d o sz i ea
    else s.loadBig d o sz i ea)

/-- ST (R167 to R175, R184).  DESIGN CHOICE: R263's check of a drained row comes before the address checks (log entry 127). -/
def execSt (d a : BitVec 5) (k : BitVec 1) (o : BitVec 2) (sz : BitVec 3) (i : BitVec 10) (s : State) :
    Host.Outcome State Fault Refusal :=
  .next (s.issue { storeNeeds sz d a k with cellarer := true, legal := isSmall s.cur || decide (sz ≠ 4) } fun s =>
    let ea := effAddr (s.me.x a) sz i
    match s.drainedCheck s.cur (dataReg sz d) with
    | some (cause, f) => s.trap s.cur cause f
    | none =>
      if 2 ^ 56 ≤ ea.toNat then s.trap s.cur Cause.protect ea
      else if isSmall s.cur then s.storeGlobal d o sz i ea
      else s.storeBig d o sz i ea)

end Sys2Proof.Machine
end

