-- ==== Sys2Proof/Machine/AtomicIns.lean ====
section
/-! DEFINITION. Atomics and non-returning reductions (R176 to R180). -/

namespace Sys2Proof.Machine

/-! ### Checks (R179) -/

/-- The address checks of an atomic, in order. -/
def State.checkAtomic (s : State) (a : Agent) (ret cellar : Bool) (n : Nat) (addr : Word) : Option Failure :=
  firstFailure
    [failIf (ret && !cellar && s.atomic a) Cause.mode addr,
     failIf (!cellar && decide (2 ^ 56 ≤ addr.toNat)) Cause.protect addr,
     failIf (cellar && badCellar (s.nroles a) addr n) Cause.protect addr,
     failIf (decide (addr.toNat % n ≠ 0)) Cause.align addr,
     if cellar then footprintCheck (s.boxes a) (caRole addr.toNat) (caOff addr.toNat) n else none]

/-! ### Returning atomics -/

/-- A returning atomic whose old value lands later: an entry, and a load record for X[d] (R179).  One on a word of the own slice
keeps its slot, the others empty X[d] (R110, R174); one on a UN page takes no mark (Table 11-3). -/
def State.postAtomic (s : State) (keeps : Bool) (page : PageKind) (va : Nat) (loc : Loc) (tlb : Option (Word × Word))
    (op : AtomOp) (dbl : Bool) (d : BitVec 5) (y cmp : Word) : State :=
  s.loadOne d keeps fun rec_ id =>
    ⟨id, page != .un, page != .un, page, va, .atomic rec_ loc op dbl y cmp, none, tlb⟩

/-- What an atomic of a cellarer core or a TSC finds at an address of device-physical space. -/
inductive BigWord where
  | refused
  | waits
  | done (old : Nat) (s : State)
deriving DecidableEq

/-- The read and the write of an atomic of a cellarer core or a TSC, in one step: on a window register, in an aligned .D access, a
read of the register and a store to it; or on bytes of memory (R363). -/
def State.bigWord (s : State) (a : Agent) (pa : Nat) (op : AtomOp) (dbl : Bool) (y cmp : Word) : BigWord :=
  match winOf pa with
  | some w =>
    let p := s.partOf a
    if !dbl ∨ s.winBad a w then .refused
    else
      let (old, t) := s.winRead p w
      let v := toWord (atomNew op true old.toNat y.toNat cmp.toNat)
      if s.storeBad p w v then .refused
      else if s.storeWaits w v then .waits
      else .done old.toNat (t.winStore p w v)
  | none =>
    if isMemory pa then
      let (old, t) := s.atomicAt (.mem pa) op dbl y cmp
      .done old t
    else .refused

/-- Whether a global access of a cellarer core or a TSC with given marks may be performed: no earlier entry of the core must
come first (R275). -/
def State.bigReady (s : State) (a : Agent) (pa n : Nat) (acq rel : Bool) : Bool :=
  let e : Entry := ⟨s.nextId, acq, rel, .rc, pa, .reduce (.mem pa) .add (decide (n = 8)) 0, none, none⟩
  (s.ctx a).queue.all fun f => !mustFollow f e

/-- A global atomic of a cellarer core or a TSC, which holds its core until the entries before it have been performed, as an
acquire and release (R180, R275; log entry 27). -/
def State.bigAtomic (s : State) (a : Agent) (pa : Nat) (op : AtomOp) (dbl : Bool) (d : BitVec 5) (y cmp : Word) : State :=
  if !s.bigReady a pa (atomBytes dbl) true true then s
  else
    match (if isMemory pa then s.poisonAt (.mem pa) (atomBytes dbl) else none) with
    | some i => s.trap a Cause.poison (toWord (pa + i))
    | none =>
      match s.bigWord a pa op dbl y cmp with
      | .done old s => s.writeX d (toWord old)
      | .waits => s
      | .refused => s.trap a Cause.protect (toWord pa)

/-- A returning atomic (N = 0): on a cellarer core C = 1 is ILLEGAL (R184); ACAS reads X[d] as a source with k = 0. -/
def State.atomicRet (s : State) (op : AtomOp) (d a b : BitVec 5) (k m c : BitVec 1) (dbl : Bool) : State :=
  let cellar := decide (c = 1)
  let srcs := [srcX a k, srcX b m] ++ (if op = .cas then [srcX0 d] else [])
  s.issue { cellarer := true, legal := isSmall s.cur || !cellar, srcs := srcs, dsts := [.x d] } fun s =>
    let addr := s.me.x a
    let y := s.me.x b
    let cmp := s.me.x d
    let n := atomBytes dbl
    match s.checkAtomic s.cur true cellar n addr with
    | some (cause, f) => s.trap s.cur cause f
    | none =>
      if cellar then
        s.postAtomic (s.isOwn s.cur addr.toNat) .cellar addr.toNat (s.caLoc s.cur addr.toNat) none op dbl d y cmp
      else if isSmall s.cur then
        s.withParts s.cur addr.toNat n .store fun ps =>
          match ps with
          | p :: _ => (s.useParts s.cur .store ps).postAtomic false p.page p.va p.loc (some p.ent) op dbl d y cmp
          | [] => s
      else s.bigAtomic s.cur addr.toNat op dbl d y cmp

/-! ### Non-returning reductions -/

/-- A non-returning reduction (N = 1): posted and plain; in an atomic task a global one is buffered (R180).  One of a cellarer
core or a TSC is posted as on an RC page (log entry 27). -/
def State.reduction (s : State) (op : AtomOp) (a b : BitVec 5) (k m c : BitVec 1) (dbl : Bool) : State :=
  let cellar := decide (c = 1)
  s.issue { cellarer := true, legal := isSmall s.cur || !cellar, srcs := [srcX a k, srcX b m] } fun s =>
    let addr := s.me.x a
    let y := s.me.x b
    let n := atomBytes dbl
    match s.checkAtomic s.cur false cellar n addr with
    | some (cause, f) => s.trap s.cur cause f
    | none =>
      if cellar then
        (s.enqueue s.cur fun id =>
          ⟨id, false, false, .cellar, addr.toNat, .reduce (s.caLoc s.cur addr.toNat) op dbl y, none, none⟩).finish id
      else if isSmall s.cur then
        s.withParts s.cur addr.toNat n .store fun ps =>
          match ps with
          | p :: _ =>
            if s.atomic s.cur then
              s.buffer s.cur 16 addr [.reduce addr.toNat op dbl y] fun s => s.finish id
            else
              ((s.useParts s.cur .store ps).enqueue s.cur fun id =>
                ⟨id, false, false, p.page, p.va, .reduce p.loc op dbl y, none, some p.ent⟩).finish id
          | [] => s
      else if isMemory addr.toNat then
        (s.enqueue s.cur fun id =>
          ⟨id, false, false, .rc, addr.toNat, .reduce (.mem addr.toNat) op dbl y, none, none⟩).finish id
      else if !s.bigReady s.cur addr.toNat n false false then s
      else
        match s.bigWord s.cur addr.toNat op dbl y 0 with
        | .done _ s => s.finish id
        | .waits => s
        | .refused => s.trap s.cur Cause.protect addr

/-- ASWAP (Table 7-6). -/
def execAswap (d a b : BitVec 5) (k m c z : BitVec 1) (s : State) : Host.Outcome State Fault Refusal :=
  .next (s.atomicRet .swap d a b k m c (decide (z = 1)))

/-- ACAS (Table 7-6). -/
def execAcas (d a b : BitVec 5) (k m c z : BitVec 1) (s : State) : Host.Outcome State Fault Refusal :=
  .next (s.atomicRet .cas d a b k m c (decide (z = 1)))

/-- AADD (Table 7-6). -/
def execAadd (d a b : BitVec 5) (k m c z : BitVec 1) (s : State) : Host.Outcome State Fault Refusal :=
  .next (s.atomicRet .add d a b k m c (decide (z = 1)))

/-- AAND (Table 7-6). -/
def execAand (d a b : BitVec 5) (k m c z : BitVec 1) (s : State) : Host.Outcome State Fault Refusal :=
  .next (s.atomicRet .and d a b k m c (decide (z = 1)))

/-- AOR (Table 7-6). -/
def execAor (d a b : BitVec 5) (k m c z : BitVec 1) (s : State) : Host.Outcome State Fault Refusal :=
  .next (s.atomicRet .or d a b k m c (decide (z = 1)))

/-- AXOR (Table 7-6). -/
def execAxor (d a b : BitVec 5) (k m c z : BitVec 1) (s : State) : Host.Outcome State Fault Refusal :=
  .next (s.atomicRet .xor d a b k m c (decide (z = 1)))

/-- AMIN (Table 7-6). -/
def execAmin (d a b : BitVec 5) (k m c z : BitVec 1) (s : State) : Host.Outcome State Fault Refusal :=
  .next (s.atomicRet .min d a b k m c (decide (z = 1)))

/-- AMAX (Table 7-6). -/
def execAmax (d a b : BitVec 5) (k m c z : BitVec 1) (s : State) : Host.Outcome State Fault Refusal :=
  .next (s.atomicRet .max d a b k m c (decide (z = 1)))

/-- AMINU (Table 7-6). -/
def execAminu (d a b : BitVec 5) (k m c z : BitVec 1) (s : State) : Host.Outcome State Fault Refusal :=
  .next (s.atomicRet .minu d a b k m c (decide (z = 1)))

/-- AMAXU (Table 7-6). -/
def execAmaxu (d a b : BitVec 5) (k m c z : BitVec 1) (s : State) : Host.Outcome State Fault Refusal :=
  .next (s.atomicRet .maxu d a b k m c (decide (z = 1)))

/-- AFADD (Table 7-6). -/
def execAfadd (d a b : BitVec 5) (k m c z : BitVec 1) (s : State) : Host.Outcome State Fault Refusal :=
  .next (s.atomicRet .fadd d a b k m c (decide (z = 1)))

/-- AMINP, .D only (R178). -/
def execAminp (d a b : BitVec 5) (k m c : BitVec 1) (s : State) : Host.Outcome State Fault Refusal :=
  .next (s.atomicRet .minp d a b k m c true)

/-- REDADD (Table 7-6). -/
def execRedadd (a b : BitVec 5) (k m c z : BitVec 1) (s : State) : Host.Outcome State Fault Refusal :=
  .next (s.reduction .add a b k m c (decide (z = 1)))

/-- REDAND (Table 7-6). -/
def execRedand (a b : BitVec 5) (k m c z : BitVec 1) (s : State) : Host.Outcome State Fault Refusal :=
  .next (s.reduction .and a b k m c (decide (z = 1)))

/-- REDOR (Table 7-6). -/
def execRedor (a b : BitVec 5) (k m c z : BitVec 1) (s : State) : Host.Outcome State Fault Refusal :=
  .next (s.reduction .or a b k m c (decide (z = 1)))

/-- REDXOR (Table 7-6). -/
def execRedxor (a b : BitVec 5) (k m c z : BitVec 1) (s : State) : Host.Outcome State Fault Refusal :=
  .next (s.reduction .xor a b k m c (decide (z = 1)))

/-- REDMIN (Table 7-6). -/
def execRedmin (a b : BitVec 5) (k m c z : BitVec 1) (s : State) : Host.Outcome State Fault Refusal :=
  .next (s.reduction .min a b k m c (decide (z = 1)))

/-- REDMAX (Table 7-6). -/
def execRedmax (a b : BitVec 5) (k m c z : BitVec 1) (s : State) : Host.Outcome State Fault Refusal :=
  .next (s.reduction .max a b k m c (decide (z = 1)))

/-- REDMINU (Table 7-6). -/
def execRedminu (a b : BitVec 5) (k m c z : BitVec 1) (s : State) : Host.Outcome State Fault Refusal :=
  .next (s.reduction .minu a b k m c (decide (z = 1)))

/-- REDMAXU (Table 7-6). -/
def execRedmaxu (a b : BitVec 5) (k m c z : BitVec 1) (s : State) : Host.Outcome State Fault Refusal :=
  .next (s.reduction .maxu a b k m c (decide (z = 1)))

/-- REDFADD (Table 7-6). -/
def execRedfadd (a b : BitVec 5) (k m c z : BitVec 1) (s : State) : Host.Outcome State Fault Refusal :=
  .next (s.reduction .fadd a b k m c (decide (z = 1)))

/-- REDMINP, .D only (R178). -/
def execRedminp (a b : BitVec 5) (k m c : BitVec 1) (s : State) : Host.Outcome State Fault Refusal :=
  .next (s.reduction .minp a b k m c true)

end Sys2Proof.Machine
end

