-- ==== Sys2Proof/Machine/Fetch.lean ====
section
/-! DEFINITION. Instruction fetch (R64, R364), the body words of a repeat frame (R82), and the two ways in which a word raises
a trap before any entry is reached (R70 steps 1 and 2). -/

namespace Sys2Proof.Machine

/-! ### Fetch -/

/-- What a fetch answers: a word, the cause of its trap, a miss, or a page that a migration holds. -/
inductive Fetched where
  | word (w : IWord)
  | fails (cause : Nat)
  | miss
  | held
deriving DecidableEq, Repr

/-- The core whose micro-TLB an agent's accesses look in. -/
def microOf : Agent → Option Nat
  | .slot n _ => some n
  | _ => none

/-- The ASID of an agent's core; a cellarer core and a TSC translate nothing. -/
def State.asidFor (s : State) : Agent → Nat
  | .slot n _ => s.asidOf n
  | _ => 0

/-- A fetch at an address: translation, then poison or a peer that no route reaches, then the word, little-endian (R64, R174,
R413). -/
def State.fetchAt (s : State) (a : Agent) (pc : Addr) : Fetched :=
  match s.xlate a (s.asidFor a) pc.toNat .fetch with
  | .trap c => .fails c
  | .miss => .miss
  | .held => .held
  | .hit loc _ _ =>
    match (if s.noRoute loc then some 0 else s.poisonAt loc 4) with
    | some _ => .fails Cause.poison
    | none => .word (BitVec.ofNat 32 (fromBytes (s.readBytes loc 4)))

/-- The body word that a frame has captured for its body index (R82). -/
def Control.captured (k : Control) : Option IWord :=
  match k.frame with
  | some f => f.body.find? f.i
  | none => none

/-- A fetch of a context's next word: a captured body word is not fetched again (R82). -/
def State.fetch (s : State) (a : Agent) : Fetched :=
  let k := (s.ctx a).ctl
  match k.captured with
  | some w => .word w
  | none => s.fetchAt a k.pc

/-- A body word captured as it is fetched. -/
def Control.capture (k : Control) (w : IWord) : Control :=
  { k with frame := k.frame.map fun f => if (f.body.find? f.i).isSome then f else { f with body := f.body.put f.i w } }

/-- A register field of a body word in pass `j` under a stride. -/
def staggerField (w : IWord) (lo j stride : Nat) : Nat :=
  ((fld w lo 5).toNat + j * stride) % 32

/-- Whether a major has the O or the V form (Table 3-14). -/
def hasBField (w : IWord) : Bool :=
  [0x01, 0x02, 0x03, 0x14, 0x1F, 0x20, 0x21, 0x22, 0x23, 0x24, 0x26].contains (fld w 26 6).toNat

/-- A body word with its register fields as a pass changes them (R82). -/
def staggered (f : Frame) (w : IWord) : IWord :=
  let b := if hasBField w then staggerField w 11 f.j f.sb else (fld w 11 5).toNat
  BitVec.ofNat 32 ((fld w 26 6).toNat * 2 ^ 26 + staggerField w 21 f.j f.sd * 2 ^ 21 + staggerField w 16 f.j f.sa * 2 ^ 16
    + b * 2 ^ 11 + (fld w 0 11).toNat)

/-- The word that a context issues for the word fetched: in a frame, as the pass changes it. -/
def Control.issued (k : Control) (w : IWord) : IWord :=
  match k.frame with
  | some f => staggered f w
  | none => w

/-! ### Issue -/

/-- A bound above every latency, for a hold whose length no table gives. -/
def noLimit : Nat := 2 ^ 64

/-- The cycles after its issue for which the rotation of R29 may skip the slot of a word: one less than its result latency or the
length of its hold (R110, Tables 5-2 and 6-2, R141, R158, R169, R198; log entry 5). -/
def lateFor (w : IWord) : Nat :=
  let fn := (fld w 0 9).toNat
  match (fld w 26 6).toNat with
  | 0x02 => if fn < 8 then 3 else if fn < 0x10 then 34 else 1
  | 0x03 => if [0x10, 0x12, 0x14, 0x16, 0x22].contains fn then 2 else 1
  | 0x14 => if fn = 0x08 then 2 else 1
  | 0x18 => 2
  | 0x1A => 2
  | 0x1C => noLimit
  | 0x1D => noLimit
  | 0x1E => 2
  | 0x1F => if fn < 0x10 then noLimit else 1
  | 0x20 => noLimit
  | 0x21 => noLimit
  | 0x22 => noLimit
  | 0x23 => noLimit
  | 0x24 => noLimit
  | 0x26 => noLimit
  | 0x28 => noLimit
  | 0x2C => if (fld w 20 12).toNat = 0xB05 then 2 else 1
  | _ => 1

/-- Whether a context may issue: it is RUNNING, and no hold and no halt for a save keeps it (R29, R387). -/
def Control.canIssue (k : Control) : Bool :=
  decide (k.status = .running) && k.hold.isNone && !k.quiesced

/-- The agents of the issuing agent's core, in the rotation of R29. -/
def rotation : Agent → Nat → List Agent
  | .slot core _, last => (upFrom 1 8).map fun i => .slot core ((last + i) % 8)
  | a, _ => [a]

/-- The cycle in which the core of an agent issues next: it issues one instruction in a cycle (R29). -/
def State.issueCycle (s : State) : Agent → Nat
  | .slot core _ => if (s.core core).lastIssue = some s.now then s.now + 1 else s.now
  | a => if (s.ctx a).issuedAt = some s.now then s.now + 1 else s.now

/-- Whether it is an agent's turn: every slot of its core that the rotation comes to first is one that it skips, since it is not
RUNNING, a hold keeps it, or its last result may still be on its way (R29, R110). -/
def State.inTurn (s : State) (a : Agent) : Bool :=
  ((rotation a (s.core (coreNo a)).lastSlot).takeWhile fun b => decide (b ≠ a)).all fun b =>
    !(s.ctx b).ctl.canIssue || decide (s.issueCycle a < (s.ctx b).ctl.late)

/-- The state in which an agent issues. -/
def State.beginIssue (s : State) (a : Agent) : State :=
  let s := { s with now := s.issueCycle a, cur := a }
  match a with
  | .slot core n => s.onCore core fun k => { k with lastIssue := some s.now, lastSlot := n }
  | _ => s.onCtx a fun c => { c with issuedAt := some s.now }

/-- The fetch of the issuing agent counts as an access through its entry (R365, R374). -/
def State.countFetch (s : State) (a : Agent) : State :=
  match a with
  | .slot core _ =>
    let pc := (s.ctx a).ctl.pc.toNat
    match s.xlate a (s.asidOf core) pc .fetch with
    | .hit _ _ e => s.useEntry (some core) (clusterOf core) e ⟨missKind .fetch, pc, s.asidOf core, hwidOf core, 0, s.roleOf core, none⟩
    | _ => s
  | _ => s

/-- INSTRUCTION_FETCH_FAULT: a fetch of the issuing agent that fails translation, or meets a poisoned line, raises its trap
with C.FADDR the fetch address, once no earlier load can trap any more (R64, R364, Table 18-11; log entry 18). -/
def execInstructionFetchFault (s : State) : Host.Outcome State Fault Refusal :=
  .next (match s.fetch s.cur with
    | .fails cause => if s.me.owed then s else s.trapAt s.cur cause (s.me.ctl.pc.setWidth 64) 0
    | _ => s)

/-- ILLEGAL_INSTRUCTION: the issuing agent's word is one that no entry assigns (R66, R72 to R74); C.FADDR is the word
(Table 18-11).  It waits while an earlier load can still trap (log entry 18). -/
def execIllegalInstruction (w : IWord) (s : State) : Host.Outcome State Fault Refusal :=
  .next (if s.me.owed then s else s.illegal s.cur (w.setWidth 64))

end Sys2Proof.Machine
end

