-- ==== Sys2Proof/Machine/Power.lean ====
section
/-! DEFINITION. Power-on, boot attempts and the configuration block (R416 to R418). -/

namespace Sys2Proof.Machine

/-- Core cycles of one second (Table 0-1: 1.25 GHz). -/
def secondCycles : Nat := 1250000000

/-- The core cycles between a failed attempt and the next, after `a` failed attempts (R417). -/
def backOff (a : Nat) : Nat := 2 ^ min a 6 * secondCycles

/-- Whether an address lies in a window that a configuration may store to, aligned (R418). -/
def configWin (pa : Nat) : Option Win :=
  if pa % 8 ≠ 0 then none
  else
    match winOf pa with
    | some (.dispatch off) => some (.dispatch off)
    | some (.parts off) => some (.parts off)
    | some (.board off) => some (.board off)
    | _ => none

/-- The entries of a configuration block performed in order as aligned .D stores; none where one refuses the image (R418). -/
def State.configure (s : State) (at_ : Nat) : Nat → Option State
  | 0 => some s
  | n + 1 =>
    let v := s.mem.word (at_ + 8)
    match configWin (s.mem.word at_).toNat with
    | some w => if s.storeBad 0 w v then none else (s.winStore 0 w v).configure (at_ + 16) n
    | none => none

/-- A boot attempt failed: BOOTST holds the reason, and the next attempt is due after the back-off (R417). -/
def State.bootFailed (s : State) (reason : Nat) : State :=
  let p := s.hostPort
  { s with hostPort := { p with boot := 2, reason := reason, retryAt := s.now + backOff p.attempts } }

/-- The configured device runs: the small cores leave reset (log entry 114) and cellarer core 0 starts at ENTRY at SUPERVISOR
(R417 step 6). -/
def State.running (s : State) : State :=
  { s.startCel 0 (s.imageEntry 0) with
    hostPort := { s.hostPort with boot := 1, reason := 0, coresOn := some (s.hostPort.coresOn.getD s.now) } }

/-- The image is in HBM at 0: verified, its configuration applied, and cellarer core 0 started (R417 steps 4 to 6).  A refused
configuration leaves no entry performed. -/
def State.bootImage (s : State) : State :=
  match s.verifyImage 0 0 with
  | some reason => s.bootFailed reason
  | none =>
    match s.configure (s.imageWord 0 4).toNat (s.imageWord 0 5).toNat with
    | none => s.bootFailed 8
    | some s => s.running

/-- What an attempt finds: port 0 on odd attempts, port 1 on even ones (R417 step 1). -/
def bootPort (inp : BootInput) (attempt : Nat) : NetInput :=
  if attempt % 2 = 1 then inp.port0 else inp.port1

/-- One boot attempt with what the network gave its port (R417).  A failure before the image is complete is of the link, DHCPv6,
or TLS or HTTP. -/
def State.bootAttempt (s : State) (inp : BootInput) : State :=
  let s := { s with hostPort := { s.hostPort with attempts := (s.hostPort.attempts + 1) % 2 ^ 32 } }
  match bootPort inp s.hostPort.attempts with
  | .fails reason => s.bootFailed (max 1 (min reason 3))
  | .image bytes => (s.storeBytes (.mem 0) (bytes.take Config.hbmSize)).bootImage

/-- Power comes back after the standby command: the device is as reset leaves it, and host memory, the peers, time and the choices of
the environment go on (R417, R421; log entry 115). -/
def State.powerUp (s : State) : State :=
  { State.reset with
    mem := s.mem.filter fun c => decide (Config.hostBase ≤ c.1) && decide (c.1 < Config.hostEnd)
    peers := s.peers
    peerPoison := s.peerPoison
    unreachable := s.unreachable
    now := s.now
    agenda := s.agenda
    fresh := s.fresh
    nextId := s.nextId }

/-- POWER_ON: the first boot attempt (R417). -/
def execPowerOn (inp : BootInput) (s : State) : Host.Outcome State Fault Refusal :=
  .next (
    if !s.board.powered then s.powerUp.bootAttempt inp
    else if s.hostPort.boot = 0 ∧ s.hostPort.attempts = 0 then s.bootAttempt inp else s)

/-- BOOT_RETRY: the back-off has expired and the next attempt runs (R417). -/
def execBootRetry (inp : BootInput) (s : State) : Host.Outcome State Fault Refusal :=
  .next (if s.hostPort.boot = 2 ∧ s.hostPort.retryAt ≤ s.now then s.bootAttempt inp else s)

end Sys2Proof.Machine
end

