-- ==== Sys2Proof/Machine/RegionIns.lean ====
section
/-! DEFINITION. The region instructions (R197 to R211). -/

namespace Sys2Proof.Machine

/-! ### Shared checks (R193, R196, R199) -/

/-- The exact bit of a region word. -/
def isExact (e : BitVec 1) : Bool := decide (e = 1)

/-- The first of several operands that an exactness check refuses, by Q number. -/
def refusedOperand : List (Bool × Nat) → Option Nat
  | [] => none
  | (true, q) :: _ => some q
  | (false, _) :: l => refusedOperand l

/-- The exactness checks in order: REGION_OVER names the operand (R193, R196). -/
def State.exactOr (s : State) (checks : List (Bool × Nat)) (f : State) : State :=
  match refusedOperand checks with
  | some q => s.trap s.cur Cause.regionOver (toWord q)
  | none => f

/-- A result fitted into Q[d], or REGION_OVER under .X (R192). -/
def State.putFit (s : State) (e : Bool) (d : BitVec 4) (l : List Box) (mk : List Box → Bool → Region) : State :=
  if e && tooMany l then s.trap s.cur Cause.regionOver (toWord (0x100 + d.toNat))
  else
    let (l, isOver) := fit l
    s.finish fun c => c.setQ d (mk l isOver)

/-- The descriptor of an operand is read when it is ragged (R199 step 2). -/
def State.ifRagged (s : State) (q : Region) (num : Nat) (f : Option Desc → State) : State :=
  if q.ragged then s.withOperandDesc s.cur q num fun d => f (some d) else f none

/-- The X registers that a region word names from `n` on, read with k = 0 (R197). -/
def auxSrcs (n : BitVec 5) (count : Nat) : List (RegName × Bool) :=
  (upFrom 0 count).map fun i => srcX0 (regPlus n i)

/-! ### Intersection, union, difference (R200) -/

/-- The three set operations. -/
inductive SetOp where
  | and
  | or
  | sub
deriving DecidableEq, Repr

/-- Whether a cell belongs to a result, by whether it belongs to the operands. -/
def SetOp.keep : SetOp → Bool → Bool → Bool
  | .and => fun x y => x && y
  | .or => fun x y => x || y
  | .sub => fun x y => x && !y

/-- The OVER that a set operation hands on (R200). -/
def SetOp.isOver (op : SetOp) (x y : Region) : Bool :=
  match op with
  | .sub => x.isOver
  | _ => x.isOver || y.isOver

/-- The operands that Table 8-4 makes dense supersets. -/
def SetOp.superset (op : SetOp) (q other : Region) : Bool :=
  match op with
  | .and => q.ragged && !other.oneDense
  | _ => q.special

/-- A set operation on operands that have passed the checks on their form: the exactness checks, then the result.  Where both operands
are refused REGION_OVER names qa: R193 and R196 give no order (log entry 118). -/
def State.combine (s : State) (op : SetOp) (e : Bool) (d a b : BitVec 4) (x y : Region) : State :=
  let na := a.toNat
  let nb := b.toNat
  let sa := op.superset x y
  let sb := op.superset y x
  s.exactOr
    [(e && x.isOver, na), ((e || decide (op = .sub)) && y.isOver, nb), (e && sa, na),
     ((e || decide (op = .sub)) && sb, nb)]
    (let isOver := op.isOver x y || sa || sb
     let x' := if sa then { x with boxes := x.denseBoxes, ragged := false, strided := false } else x
     let y' := if sb then { y with boxes := y.denseBoxes, ragged := false, strided := false } else y
     match op with
     | .and =>
       if x'.ragged ∨ y'.ragged then
         let r := if x'.ragged then x' else y'
         let boxes := (meetAll x'.boxes y'.boxes).1
         s.finish fun c => c.setQ d ⟨x.didx, x.rank, isOver, false, true, r.rsh0, r.rshi, boxes⟩
       else if x'.strided ∨ y'.strided then
         let (l, inexact) := meetAll x'.boxes y'.boxes
         if e && inexact then
           let (bit, s) := s.freeBit
           s.trap s.cur Cause.regionOver (toWord (if bit then nb else na))
         else s.putFit e d l fun l o => regionOf x.didx x.rank l (o || isOver || inexact)
       else
         s.putFit e d (canonOp op.keep x.rank x'.boxes y'.boxes) fun l o => regionOf x.didx x.rank l (o || isOver)
     | _ => s.putFit e d (canonOp op.keep x.rank x'.boxes y'.boxes) fun l o => regionOf x.didx x.rank l (o || isOver))

/-- QAND, QOR and QSUB: the ranks, the descriptors of ragged operands, then the operation; QOR of a register with itself
copies it.  A STRIDED or RAGGED one is copied too, under E as well, where Table 8-4 alone would have a dense superset or REGION_OVER: the
choice is the model's (log entry 117). -/
def State.setOp (s : State) (op : SetOp) (d a b : BitVec 4) (e : BitVec 1) : State :=
  s.issue { } fun s =>
    let x := s.me.q a
    let y := s.me.q b
    if x.rank ≠ y.rank then s.trap s.cur Cause.format (toWord b.toNat)
    else
      s.ifRagged x a.toNat fun _ => s.ifRagged y b.toNat fun _ =>
        if op = .or ∧ a = b then
          s.exactOr [(isExact e && x.isOver, a.toNat)] (s.finish fun c => c.setQ d x)
        else s.combine op (isExact e) d a b x y

/-- QAND (R200). -/
def execQand (d a b : BitVec 4) (e : BitVec 1) (s : State) : Host.Outcome State Fault Refusal :=
  .next (s.setOp .and d a b e)

/-- QOR (R200). -/
def execQor (d a b : BitVec 4) (e : BitVec 1) (s : State) : Host.Outcome State Fault Refusal :=
  .next (s.setOp .or d a b e)

/-- QSUB (R200). -/
def execQsub (d a b : BitVec 4) (e : BitVec 1) (s : State) : Host.Outcome State Fault Refusal :=
  .next (s.setOp .sub d a b e)

/-! ### QXLT (R201) -/

/-- The least coordinate of a cell (R187). -/
def minCoord : Int := -(2 ^ 31)

/-- One past the greatest coordinate of a cell (R187). -/
def maxBound : Int := 2 ^ 31 - 1

/-- A 32-bit bound, modulo 2^32. -/
def bound32 (n : Int) : Int := signed 32 (wrap 32 n)

/-- A dimension moved by an offset. -/
def Dim.move (d : Dim) (o : Int) : Dim :=
  let lo := bound32 (d.lo + o)
  { d with lo := lo, hi := bound32 (d.hi + o), ph := if 2 ≤ d.st then (lo % d.st).toNat else d.ph }

/-- The first dimension of a box that an offset takes out of the range of coordinates; the bounds of a RAGGED box count as its cells do,
whether or not a cell lies there (log entry 119). -/
def outOfRange (b : Box) (offs : List Int) : Option Nat :=
  (upFrom 0 b.length).find? fun i =>
    let d := b[i]?.getD (dense 0 0)
    let o := offs[i]?.getD 0
    decide (d.lo + o < minCoord) || decide (maxBound < d.hi + o)

/-- QXLT (R201).  A sum of RSH0 or RSHI that leaves 32 bits wraps (log entry 120).  DESIGN CHOICE: where several offsets are out of
range, C.FADDR is that of the lowest dimension of the first failing box (log entry 128). -/
def execQxlt (d a : BitVec 4) (e : BitVec 1) (n : BitVec 5) (s : State) : Host.Outcome State Fault Refusal :=
  .next (s.issue { srcs := auxSrcs n (s.me.q a).rank } fun s =>
    let x := s.me.q a
    s.ifRagged x a.toNat fun _ =>
      s.exactOr [(isExact e && x.isOver, a.toNat)]
        (let xs := (upFrom 0 x.rank).map fun i => s.me.x (regPlus n i)
         let offs := xs.map fun w => signed 32 (wbits w 31 0)
         match (x.boxes.filter Box.nonempty).findSome? fun b => outOfRange b offs with
         | some i => s.trap s.cur Cause.protect (xs[i]?.getD 0)
         | none =>
           let boxes := x.boxes.map fun b => (b.zip offs).map fun p => p.1.move p.2
           let r := { x with boxes := boxes }
           let r := if x.ragged then
               { r with rsh0 := bound32 (x.rsh0 + offs.headD 0), rshi := bound32 (x.rshi + offs.getLastD 0) }
             else r
           s.finish fun c => c.setQ d r))

/-! ### QDIL (R202) -/

/-- A run of coordinates taken modulo an extent. -/
def wrapRun (lo hi : Int) (ext : Nat) : List Dim :=
  if (ext : Int) ≤ hi - lo then [dense 0 ext]
  else
    let a := lo % ext
    let b := a + (hi - lo)
    if b ≤ ext then [dense a b] else [dense a ext, dense 0 (b - ext)]

/-- A run of coordinates clipped to an extent. -/
def clipRun (lo hi : Int) (ext : Nat) : List Dim :=
  if max lo 0 < min hi ext then [dense (max lo 0) (min hi ext)] else []

/-- The boxes whose dimensions are taken from lists of runs. -/
def productRuns : List (List Dim) → List Box
  | [] => [[]]
  | ds :: rest => ds.flatMap fun d => (productRuns rest).map fun b => d :: b

/-- A box dilated by radii, wrapped or clipped dimension by dimension. -/
def dilateBox (b : Box) (radii : List Nat) (wraps : List Bool) (ext : List Nat) : List Box :=
  productRuns ((b.zip (radii.zip (wraps.zip ext))).map fun p =>
    let lo : Int := p.1.lo - (p.2.1 : Int)
    let hi : Int := p.1.hi + (p.2.1 : Int)
    if p.2.2.1 then wrapRun lo hi p.2.2.2 else clipRun lo hi p.2.2.2)

/-- Whether a dilated box leaves the range of coordinates. -/
def dilateBad (b : Box) (radii : List Nat) : Bool :=
  (b.zip radii).any fun p => decide (p.1.lo - (p.2 : Int) < minCoord) || decide (maxBound < p.1.hi + (p.2 : Int))

/-- QDIL (R202). -/
def execQdil (d a : BitVec 4) (e : BitVec 1) (n : BitVec 5) (s : State) : Host.Outcome State Fault Refusal :=
  .next (s.issue { srcs := auxSrcs n 1 } fun s =>
    let x := s.me.q a
    let w := s.me.x n
    s.withOperandDesc s.cur x a.toNat fun desc =>
      s.exactOr [(isExact e && x.isOver, a.toNat), (isExact e && x.special, a.toNat)]
        (let boxes := x.denseBoxes.filter Box.nonempty
         let radii := (upFrom 0 x.rank).map fun i => wbits w (15 * i + 14) (15 * i)
         let wraps := (upFrom 0 x.rank).map fun i => w.getLsbD (60 + i)
         if boxes.any fun b => dilateBad b radii then s.trap s.cur Cause.protect w
         else
           s.putFit (isExact e) d (canon x.rank (boxes.flatMap fun b => dilateBox b radii wraps desc.ext)) fun l o =>
             regionOf x.didx x.rank l (o || x.isOver || x.special)))

/-! ### QPROJ, QSPLIT, QCLIP, QBBOX (R203 to R205) -/

/-- The dimensions of a box that a mask keeps. -/
def keepDims (m : BitVec 4) (b : Box) : Box :=
  (b.zip (upFrom 0 4)).filterMap fun p => if m.getLsbD p.2 then some p.1 else none

/-- QPROJ (R203). -/
def execQproj (d a : BitVec 4) (e : BitVec 1) (m : BitVec 4) (s : State) : Host.Outcome State Fault Refusal :=
  .next (s.issue { } fun s =>
    let x := s.me.q a
    if m = 0 ∨ 2 ^ x.rank ≤ m.toNat then s.trap s.cur Cause.format (m.setWidth 64)
    else
      s.ifRagged x a.toNat fun _ =>
        s.exactOr [(isExact e && x.isOver, a.toNat), (isExact e && x.special, a.toNat)]
          (let rank := ((upFrom 0 4).filter fun i => m.getLsbD i).length
           s.putFit (isExact e) d (canon rank ((x.denseBoxes.filter Box.nonempty).map (keepDims m))) fun l o =>
             regionOf x.didx rank l (o || x.isOver || x.special)))

/-- Cut(b, m) for 0 < m < Count(b) (R204). -/
def cutBox : Box → Nat → Box
  | [], _ => []
  | [d], m => [dense d.lo (d.lo + m)]
  | d :: rest, m =>
    let cs := Box.count rest
    if cs ≤ m then dense d.lo (d.lo + (m / cs : Nat)) :: rest else dense d.lo (d.lo + 1) :: cutBox rest m

/-- The boxes of the first piece of at most `left` cells (R204). -/
def firstPiece : List Box → Nat → List Box
  | [], _ => []
  | b :: l, left =>
    if b.count ≤ left then b :: firstPiece l (left - b.count)
    else if 0 < left then [cutBox b left] else []

/-- QSPLIT (R204). -/
def execQsplit (d a : BitVec 4) (e : BitVec 1) (n : BitVec 5) (s : State) : Host.Outcome State Fault Refusal :=
  .next (s.issue { srcs := auxSrcs n 1 } fun s =>
    let x := s.me.q a
    s.ifRagged x a.toNat fun _ =>
      s.exactOr [(isExact e && x.isOver, a.toNat), (isExact e && x.special, a.toNat)]
        (s.putFit (isExact e) d (canon x.rank (firstPiece x.denseBoxes (s.me.x n).toNat)) fun l o =>
          regionOf x.didx x.rank l (o || x.isOver || x.special)))

/-- The box of a tensor. -/
def wholeBox (ext : List Nat) : Box := ext.map fun (n : Nat) => dense 0 (n : Int)

/-- QCLIP: exact for every kind of operand (R205, Table 8-4). -/
def execQclip (d a : BitVec 4) (s : State) : Host.Outcome State Fault Refusal :=
  .next (s.issue { } fun s =>
    let x := s.me.q a
    s.withOperandDesc s.cur x a.toNat fun desc =>
      let whole := wholeBox desc.ext
      if x.ragged then
        let boxes := (meetAll x.boxes [whole]).1
        s.finish fun c => c.setQ d { x with boxes := boxes }
      else
        let l := if x.strided then (meetAll x.boxes [whole]).1
          else canonOp SetOp.and.keep x.rank x.boxes [whole]
        s.putFit false d l fun l o => regionOf x.didx x.rank l (o || x.isOver))

/-- QBBOX (R205). -/
def execQbbox (d a : BitVec 4) (s : State) : Host.Outcome State Fault Refusal :=
  .next (s.issue { } fun s =>
    let x := s.me.q a
    s.ifRagged x a.toNat fun _ =>
      s.finish fun c => c.setQ d (regionOf x.didx x.rank (bbox x.boxes).toList (x.isOver || x.ragged)))

/-! ### QCNT, QCMP, QGETB (R206 to R208) -/

/-- The word of QCNT (R206). -/
def countWord (n : Nat) (isOver : Bool) : Word :=
  toWord (b2n isOver * 2 ^ 63 + min n (2 ^ 63 - 1))

/-- QCNT (R206). -/
def execQcnt (a : BitVec 4) (n : BitVec 5) (s : State) : Host.Outcome State Fault Refusal :=
  .next (s.issue { dsts := [.x n] } fun s =>
    let x := s.me.q a
    s.ifRagged x a.toNat fun desc =>
      match desc with
      | some desc =>
        s.withTable s.cur x desc fun lt =>
          s.writeX n (countWord (x.raggedCount (desc.ext.headD 0) lt) x.isOver)
      | none => s.writeX n (countWord (countBoxes x.boxes) x.isOver))

/-- The bits of QCMP for two unions of boxes (R207). -/
def compareWord (x y : List Box) : Word :=
  let nx := countBoxes x
  let ny := countBoxes y
  let both := nx + ny - countBoxes (x ++ y)
  let sub := decide (both = nx)
  let sup := decide (both = ny)
  toWord (b2n (sub && sup) + b2n sub * 2 + b2n sup * 4 + b2n (decide (both = 0)) * 8 + b2n (decide (nx = 0)) * 16
    + b2n (decide (ny = 0)) * 32)

/-- QCMP: operands compared as sets (R207). -/
def execQcmp (a b : BitVec 4) (n : BitVec 5) (s : State) : Host.Outcome State Fault Refusal :=
  .next (s.issue { dsts := [.x n] } fun s =>
    let x := s.me.q a
    let y := s.me.q b
    if x.rank ≠ y.rank then s.trap s.cur Cause.format (toWord b.toNat)
    else
      s.ifRagged x a.toNat fun _ => s.ifRagged y b.toNat fun _ =>
        s.exactOr [(x.isOver, a.toNat), (y.isOver, b.toNat), (x.ragged, a.toNat), (y.ragged, b.toNat)]
          (s.writeX n (compareWord x.boxes y.boxes)))

/-- The words that QGETB writes for box `j` (R208). -/
def getbWords (q : Region) (j : Nat) : List Word :=
  let count := if q.strided then q.rank + 2 else q.rank
  match q.boxes[j]? with
  | some b => ((b.map Dim.boundsWord ++ List.replicate 4 0).take q.rank ++ Box.stepWords b).take count
  | none => List.replicate count 0

/-- Words written to the X registers from `n` on. -/
def Ctx.setXs (c : Ctx) (n : BitVec 5) : List Word → Ctx
  | [] => c
  | w :: ws => (c.setX n w).setXs (n + 1) ws

/-- QGETB (R208). -/
def execQgetb (a : BitVec 4) (j : BitVec 3) (n : BitVec 5) (s : State) : Host.Outcome State Fault Refusal :=
  .next (s.issue { dsts := (upFrom 0 (getbWords (s.me.q a) j.toNat).length).map fun i => .x (regPlus n i) } fun s =>
    let x := s.me.q a
    s.ifRagged x a.toNat fun _ => s.finish fun c => c.setXs n (getbWords x j.toNat))

/-! ### QMKB, QMKBS, QRAG (R209) -/

/-- The dense box whose bounds X registers hold. -/
def Ctx.boundsBox (c : Ctx) (n : BitVec 5) (rank : Nat) : Box :=
  (upFrom 0 rank).map fun i =>
    let w := c.x (regPlus n i)
    dense (signed 32 (wbits w 31 0)) (signed 32 (wbits w 63 32))

/-- QMKB (R209). -/
def execQmkb (d a : BitVec 4) (n : BitVec 5) (s : State) : Host.Outcome State Fault Refusal :=
  .next (s.issue { srcs := auxSrcs n (s.me.q a).rank } fun s =>
    let x := s.me.q a
    s.ifRagged x a.toNat fun _ =>
      s.finish fun c => c.setQ d (regionOf x.didx x.rank ([c.boundsBox n x.rank].filter Box.nonempty) false))

/-- The step and phase of dimension `i` in the words of Table 8-2, and whether they are refused; a step of 1 is 0. -/
def stepOf (w : Word) (i : Nat) : Nat × Nat × Bool :=
  let f := wbits w (32 * (i % 2) + 31) (32 * (i % 2))
  let st := bits f 15 0
  let ph := bits f 31 16
  (stField st, ph, decide (max st 1 ≤ ph))

/-- QMKBS (R209): its own checks on steps and phases, then the descriptor of a ragged qa (R199).  The fields of dimensions that qa has not
are not looked at (log entry 121).  DESIGN CHOICE: where both registers hold a refused phase, C.FADDR is that of the lowest dimension
(log entry 130). -/
def execQmkbs (d a : BitVec 4) (n : BitVec 5) (s : State) : Host.Outcome State Fault Refusal :=
  .next (s.issue { srcs := auxSrcs n ((s.me.q a).rank + 2) } fun s =>
    let x := s.me.q a
    let word := fun i => s.me.x (regPlus n (x.rank + i / 2))
    match (upFrom 0 x.rank).find? fun i => (stepOf (word i) i).2.2 with
    | some i => s.trap s.cur Cause.format (word i)
    | none =>
      s.ifRagged x a.toNat fun _ =>
        s.finish fun c =>
          let b : Box := ((c.boundsBox n x.rank).zip (upFrom 0 4)).map fun p =>
            let st := stepOf (word p.2) p.2
            { p.1 with st := st.1, ph := st.2.1 }
          c.setQ d (regionOf x.didx x.rank (Box.tight b).toList false))

/-- QRAG (R209). -/
def execQrag (d a : BitVec 4) (n : BitVec 5) (s : State) : Host.Outcome State Fault Refusal :=
  .next (s.issue { srcs := auxSrcs n (s.me.q a).rank } fun s =>
    let x := s.me.q a
    s.withOperandDesc s.cur x a.toNat fun desc =>
      if !desc.ltv then s.trap s.cur Cause.format (toWord desc.addr)
      else
        s.finish fun c =>
          c.setQ d ⟨x.didx, x.rank, false, false, true, 0, 0, [c.boundsBox n x.rank].filter Box.nonempty⟩)

/-! ### QALL, QDTBW, QDTBR (R210) -/

/-- QALL (R210). -/
def execQall (d : BitVec 4) (k : BitVec 6) (s : State) : Host.Outcome State Fault Refusal :=
  .next (s.issue { } fun s =>
    s.withDesc s.cur k.toNat fun desc =>
      s.finish fun c => c.setQ d (regionOf k.toNat desc.rank [wholeBox desc.ext] false))

/-- QDTBW (R210). -/
def execQdtbw (n : BitVec 5) (s : State) : Host.Outcome State Fault Refusal :=
  .next (s.issue { srcs := auxSrcs n 1 } fun s =>
    let w := s.me.x n
    if w.toNat % 64 ≠ 0 ∨ Config.sliceTop < w.toNat + 4096 then s.trap s.cur Cause.protect w
    else s.finish fun c => { c with sp := { c.sp with dtbase := w } })

/-- QDTBR (R210). -/
def execQdtbr (n : BitVec 5) (s : State) : Host.Outcome State Fault Refusal :=
  .next (s.issue { dsts := [.x n] } fun s => s.writeX n s.me.sp.dtbase)

/-! ### QLD and QST (R211) -/

/-- The bytes of an image. -/
def regionImageBytes : Nat := 576

/-- The checks on the offset of an image (R211). -/
def State.checkImage (s : State) (a : Agent) (w : Word) : Option Failure :=
  firstFailure
    [failIf (decide (w.toNat % 64 ≠ 0) || badOwn w regionImageBytes) Cause.protect w,
     footprintCheck (s.boxes a) (s.myRole a) w.toNat regionImageBytes]

/-- QLD (R211). -/
def execQld (d : BitVec 4) (n : BitVec 5) (s : State) : Host.Outcome State Fault Refusal :=
  .next (s.issue { srcs := auxSrcs n 1 } fun s =>
    let w := s.me.x n
    match s.checkImage s.cur w with
    | some (cause, f) => s.trap s.cur cause f
    | none =>
      s.withOwn s.cur w.toNat regionImageBytes fun bs =>
        let ws := wordsOfBytes bs
        match if imageBad ws then none else (regionOfWords ws).canonical with
        | some q => s.finish fun c => c.setQ d q
        | none => s.trap s.cur Cause.format (toWord (s.ownCa s.cur w.toNat)))

/-- The words of an image stored one after another from an offset, each by itself (R123, R215). -/
def State.storeWords (s : State) (a : Agent) (off : Nat) : List Word → State
  | [] => s
  | w :: ws =>
    (s.enqueue a fun id =>
      ⟨id, false, false, .cellar, s.ownCa a off, .store (s.ownLoc a off) (wordToBytes w) none false, none, none⟩).storeWords a
        (off + 8) ws

/-- QST (R211).  DESIGN CHOICE: the checks of the offset come before the descriptor read of a RAGGED register (log entry 136). -/
def execQst (a : BitVec 4) (n : BitVec 5) (s : State) : Host.Outcome State Fault Refusal :=
  .next (s.issue { srcs := auxSrcs n 1 } fun s =>
    let w := s.me.x n
    match s.checkImage s.cur w with
    | some (cause, f) => s.trap s.cur cause f
    | none =>
      s.ifRagged (s.me.q a) a.toNat fun _ => (s.storeWords s.cur w.toNat (s.me.q a).words).finish id)

end Sys2Proof.Machine
end

