-- ==== Sys2Proof/Machine/Scalar.lean ====
section
/-! DEFINITION. Register arithmetic, logic, shifts, compares, multiply, divide, bit counts and the immediate forms
(R111 to R114, R75). -/

namespace Sys2Proof.Machine

/-! ### Shared operations -/

/-- What an OPA or OPM word with two sources needs (R69, Table 3-14). -/
def opAB (d a b : BitVec 5) (k m : BitVec 1) : Needs :=
  { rep := true, cellarer := true, srcs := [srcX a k, srcX b m], dsts := [.x d] }

/-- What a word with the one source a needs: OPM bit counts and the immediate majors. -/
def opAOnly (d a : BitVec 5) (k : BitVec 1) : Needs :=
  { rep := true, cellarer := true, srcs := [srcX a k], dsts := [.x d] }

/-- X[d] := f(X[a], X[b]) (R109). -/
def State.binary (s : State) (d a b : BitVec 5) (k m : BitVec 1) (f : Word → Word → Word) : State :=
  s.issue (opAB d a b k m) fun s => s.writeX d (f (s.me.x a) (s.me.x b))

/-- X[d] := f(X[a]) (R109). -/
def State.unary (s : State) (d a : BitVec 5) (k : BitVec 1) (f : Word → Word) : State :=
  s.issue (opAOnly d a k) fun s => s.writeX d (f (s.me.x a))

/-- X[d] := X[a] when a condition on X[b] holds; else X[d] is unchanged and not filled (R111). -/
def State.select (s : State) (d a b : BitVec 5) (k m : BitVec 1) (cond : Word → Bool) : State :=
  s.issue (opAB d a b k m) fun s =>
    if cond (s.me.x b) then s.writeX d (s.me.x a) else s.finish id

/-- 1 or 0 as a word. -/
def boolWord (b : Bool) : Word := if b then 1 else 0

/-- The low 32 bits. -/
def low32 (x : Word) : BitVec 32 := x.extractLsb' 0 32

/-- A rotation right by `n` mod 64. -/
def rotr (x : Word) (n : Nat) : Word :=
  (x >>> (n % 64)) ||| (x <<< ((64 - n % 64) % 64))

/-- The quotient of R113. -/
def quotient (sgn : Bool) (x y : Word) : Word :=
  if y = 0 then BitVec.allOnes 64 else if sgn then ofInt (x.toInt.tdiv y.toInt) else toWord (x.toNat / y.toNat)

/-- The remainder of R113. -/
def remainder (sgn : Bool) (x y : Word) : Word :=
  if y = 0 then x else if sgn then ofInt (x.toInt.tmod y.toInt) else toWord (x.toNat % y.toNat)

/-- The leading zero bits of a word, 0 to 64 (Table 5-5). -/
def leadingZeros (x : Word) : Nat :=
  if x = 0 then 64 else 63 - x.toNat.log2

/-- The trailing zero bits of a number, at most `fuel`. -/
def trailingZeros : Nat → Nat → Nat
  | 0, _ => 0
  | fuel + 1, n => if n % 2 = 1 then 0 else trailingZeros fuel (n / 2) + 1

/-- The one bits among the low bits of a number. -/
def onesIn : Nat → Nat → Nat
  | 0, _ => 0
  | w + 1, n => n % 2 + onesIn w (n / 2)

/-- The low bits of a number in reverse order. -/
def reverseBits : Nat → Nat → Nat
  | 0, _ => 0
  | w + 1, n => n % 2 * 2 ^ w + reverseBits w (n / 2)

/-! ### OPA (Table 5-4) -/

/-- ADD: X[a] + X[b] (R111). -/
def execAdd (d a b : BitVec 5) (k m : BitVec 1) (s : State) : Host.Outcome State Fault Refusal :=
  .next (s.binary d a b k m fun x y => x + y)

/-- SUB: X[a] − X[b] (R111). -/
def execSub (d a b : BitVec 5) (k m : BitVec 1) (s : State) : Host.Outcome State Fault Refusal :=
  .next (s.binary d a b k m fun x y => x - y)

/-- ADD.W: the sum in 32 bits, sign-extended (R111). -/
def execAddW (d a b : BitVec 5) (k m : BitVec 1) (s : State) : Host.Outcome State Fault Refusal :=
  .next (s.binary d a b k m fun x y => sextW (x + y))

/-- SUB.W: the difference in 32 bits, sign-extended (R111). -/
def execSubW (d a b : BitVec 5) (k m : BitVec 1) (s : State) : Host.Outcome State Fault Refusal :=
  .next (s.binary d a b k m fun x y => sextW (x - y))

/-- ADDSL1: X[a] + (X[b] << 1) (R111). -/
def execAddsl1 (d a b : BitVec 5) (k m : BitVec 1) (s : State) : Host.Outcome State Fault Refusal :=
  .next (s.binary d a b k m fun x y => x + (y <<< 1))

/-- ADDSL2: X[a] + (X[b] << 2) (R111). -/
def execAddsl2 (d a b : BitVec 5) (k m : BitVec 1) (s : State) : Host.Outcome State Fault Refusal :=
  .next (s.binary d a b k m fun x y => x + (y <<< 2))

/-- ADDSL3: X[a] + (X[b] << 3) (R111). -/
def execAddsl3 (d a b : BitVec 5) (k m : BitVec 1) (s : State) : Host.Outcome State Fault Refusal :=
  .next (s.binary d a b k m fun x y => x + (y <<< 3))

/-- MKCA: (X[a][11:0] << 18) + X[b][17:0] (R111). -/
def execMkca (d a b : BitVec 5) (k m : BitVec 1) (s : State) : Host.Outcome State Fault Refusal :=
  .next (s.binary d a b k m fun x y => toWord (wbits x 11 0 * 2 ^ 18 + wbits y 17 0))

/-- AND (R111). -/
def execAnd (d a b : BitVec 5) (k m : BitVec 1) (s : State) : Host.Outcome State Fault Refusal :=
  .next (s.binary d a b k m fun x y => x &&& y)

/-- OR (R111). -/
def execOr (d a b : BitVec 5) (k m : BitVec 1) (s : State) : Host.Outcome State Fault Refusal :=
  .next (s.binary d a b k m fun x y => x ||| y)

/-- XOR (R111). -/
def execXor (d a b : BitVec 5) (k m : BitVec 1) (s : State) : Host.Outcome State Fault Refusal :=
  .next (s.binary d a b k m fun x y => x ^^^ y)

/-- ANDN: X[a] and not X[b] (R111). -/
def execAndn (d a b : BitVec 5) (k m : BitVec 1) (s : State) : Host.Outcome State Fault Refusal :=
  .next (s.binary d a b k m fun x y => x &&& ~~~y)

/-- ORN: X[a] or not X[b] (R111). -/
def execOrn (d a b : BitVec 5) (k m : BitVec 1) (s : State) : Host.Outcome State Fault Refusal :=
  .next (s.binary d a b k m fun x y => x ||| ~~~y)

/-- XNOR (R111). -/
def execXnor (d a b : BitVec 5) (k m : BitVec 1) (s : State) : Host.Outcome State Fault Refusal :=
  .next (s.binary d a b k m fun x y => ~~~(x ^^^ y))

/-- SLL: the shift amount is X[b] mod 64 (R111). -/
def execSll (d a b : BitVec 5) (k m : BitVec 1) (s : State) : Host.Outcome State Fault Refusal :=
  .next (s.binary d a b k m fun x y => x <<< (y.toNat % 64))

/-- SRL (R111). -/
def execSrl (d a b : BitVec 5) (k m : BitVec 1) (s : State) : Host.Outcome State Fault Refusal :=
  .next (s.binary d a b k m fun x y => x >>> (y.toNat % 64))

/-- SRA (R111). -/
def execSra (d a b : BitVec 5) (k m : BitVec 1) (s : State) : Host.Outcome State Fault Refusal :=
  .next (s.binary d a b k m fun x y => x.sshiftRight (y.toNat % 64))

/-- ROR (R111). -/
def execRor (d a b : BitVec 5) (k m : BitVec 1) (s : State) : Host.Outcome State Fault Refusal :=
  .next (s.binary d a b k m fun x y => rotr x y.toNat)

/-- SLL.W: the shift amount is X[b] mod 32 (R111). -/
def execSllW (d a b : BitVec 5) (k m : BitVec 1) (s : State) : Host.Outcome State Fault Refusal :=
  .next (s.binary d a b k m fun x y => sextW (x <<< (y.toNat % 32)))

/-- SRL.W (R111). -/
def execSrlW (d a b : BitVec 5) (k m : BitVec 1) (s : State) : Host.Outcome State Fault Refusal :=
  .next (s.binary d a b k m fun x y => (low32 x >>> (y.toNat % 32)).signExtend 64)

/-- SRA.W (R111). -/
def execSraW (d a b : BitVec 5) (k m : BitVec 1) (s : State) : Host.Outcome State Fault Refusal :=
  .next (s.binary d a b k m fun x y => ((low32 x).sshiftRight (y.toNat % 32)).signExtend 64)

/-- SEQ (R111). -/
def execSeq (d a b : BitVec 5) (k m : BitVec 1) (s : State) : Host.Outcome State Fault Refusal :=
  .next (s.binary d a b k m fun x y => boolWord (decide (x = y)))

/-- SNE (R111). -/
def execSne (d a b : BitVec 5) (k m : BitVec 1) (s : State) : Host.Outcome State Fault Refusal :=
  .next (s.binary d a b k m fun x y => boolWord (decide (x ≠ y)))

/-- SLT: signed (R111). -/
def execSlt (d a b : BitVec 5) (k m : BitVec 1) (s : State) : Host.Outcome State Fault Refusal :=
  .next (s.binary d a b k m fun x y => boolWord (x.slt y))

/-- SLTU: unsigned (R111). -/
def execSltu (d a b : BitVec 5) (k m : BitVec 1) (s : State) : Host.Outcome State Fault Refusal :=
  .next (s.binary d a b k m fun x y => boolWord (x.ult y))

/-- SGE: signed (R111). -/
def execSge (d a b : BitVec 5) (k m : BitVec 1) (s : State) : Host.Outcome State Fault Refusal :=
  .next (s.binary d a b k m fun x y => boolWord !(x.slt y))

/-- SGEU: unsigned (R111). -/
def execSgeu (d a b : BitVec 5) (k m : BitVec 1) (s : State) : Host.Outcome State Fault Refusal :=
  .next (s.binary d a b k m fun x y => boolWord !(x.ult y))

/-- MIN: signed (R111). -/
def execMin (d a b : BitVec 5) (k m : BitVec 1) (s : State) : Host.Outcome State Fault Refusal :=
  .next (s.binary d a b k m fun x y => if x.slt y then x else y)

/-- MAX: signed (R111). -/
def execMax (d a b : BitVec 5) (k m : BitVec 1) (s : State) : Host.Outcome State Fault Refusal :=
  .next (s.binary d a b k m fun x y => if x.slt y then y else x)

/-- MINU: unsigned (R111). -/
def execMinu (d a b : BitVec 5) (k m : BitVec 1) (s : State) : Host.Outcome State Fault Refusal :=
  .next (s.binary d a b k m fun x y => if x.ult y then x else y)

/-- MAXU: unsigned (R111). -/
def execMaxu (d a b : BitVec 5) (k m : BitVec 1) (s : State) : Host.Outcome State Fault Refusal :=
  .next (s.binary d a b k m fun x y => if x.ult y then y else x)

/-- CMOVZ: when X[b] = 0 (R111). -/
def execCmovz (d a b : BitVec 5) (k m : BitVec 1) (s : State) : Host.Outcome State Fault Refusal :=
  .next (s.select d a b k m fun y => decide (y = 0))

/-- CMOVNZ: when X[b] ≠ 0 (R111). -/
def execCmovnz (d a b : BitVec 5) (k m : BitVec 1) (s : State) : Host.Outcome State Fault Refusal :=
  .next (s.select d a b k m fun y => decide (y ≠ 0))

/-! ### OPM (Table 5-5) -/

/-- MUL (R112). -/
def execMul (d a b : BitVec 5) (k m : BitVec 1) (s : State) : Host.Outcome State Fault Refusal :=
  .next (s.binary d a b k m fun x y => x * y)

/-- MULH: the high half of the signed product (R112). -/
def execMulh (d a b : BitVec 5) (k m : BitVec 1) (s : State) : Host.Outcome State Fault Refusal :=
  .next (s.binary d a b k m fun x y => ofInt (x.toInt * y.toInt / 2 ^ 64))

/-- MULHU: the high half of the unsigned product (R112). -/
def execMulhu (d a b : BitVec 5) (k m : BitVec 1) (s : State) : Host.Outcome State Fault Refusal :=
  .next (s.binary d a b k m fun x y => toWord (x.toNat * y.toNat / 2 ^ 64))

/-- MUL.W (R112). -/
def execMulW (d a b : BitVec 5) (k m : BitVec 1) (s : State) : Host.Outcome State Fault Refusal :=
  .next (s.binary d a b k m fun x y => (low32 x * low32 y).signExtend 64)

/-- DIV (R113). -/
def execDiv (d a b : BitVec 5) (k m : BitVec 1) (s : State) : Host.Outcome State Fault Refusal :=
  .next (s.binary d a b k m fun x y => quotient true x y)

/-- DIVU (R113). -/
def execDivu (d a b : BitVec 5) (k m : BitVec 1) (s : State) : Host.Outcome State Fault Refusal :=
  .next (s.binary d a b k m fun x y => quotient false x y)

/-- REM (R113). -/
def execRem (d a b : BitVec 5) (k m : BitVec 1) (s : State) : Host.Outcome State Fault Refusal :=
  .next (s.binary d a b k m fun x y => remainder true x y)

/-- REMU (R113). -/
def execRemu (d a b : BitVec 5) (k m : BitVec 1) (s : State) : Host.Outcome State Fault Refusal :=
  .next (s.binary d a b k m fun x y => remainder false x y)

/-- CLZ (R112). -/
def execClz (d a : BitVec 5) (k : BitVec 1) (s : State) : Host.Outcome State Fault Refusal :=
  .next (s.unary d a k fun x => toWord (leadingZeros x))

/-- CTZ (R112). -/
def execCtz (d a : BitVec 5) (k : BitVec 1) (s : State) : Host.Outcome State Fault Refusal :=
  .next (s.unary d a k fun x => toWord (trailingZeros 64 x.toNat))

/-- POPC (R112). -/
def execPopc (d a : BitVec 5) (k : BitVec 1) (s : State) : Host.Outcome State Fault Refusal :=
  .next (s.unary d a k fun x => toWord (onesIn 64 x.toNat))

/-- BSWAP (R112). -/
def execBswap (d a : BitVec 5) (k : BitVec 1) (s : State) : Host.Outcome State Fault Refusal :=
  .next (s.unary d a k fun x => toWord (fromBytes (wordToBytes x).reverse))

/-- BREV (R112). -/
def execBrev (d a : BitVec 5) (k : BitVec 1) (s : State) : Host.Outcome State Fault Refusal :=
  .next (s.unary d a k fun x => toWord (reverseBits 64 x.toNat))

/-! ### Immediate majors (Tables 3-15, 3-16 and 5-6) -/

/-- ADDI (R114). -/
def execAddi (d a : BitVec 5) (k : BitVec 1) (i : BitVec 15) (s : State) : Host.Outcome State Fault Refusal :=
  .next (s.unary d a k fun x => x + sext15 i)

/-- ANDI (R114). -/
def execAndi (d a : BitVec 5) (k : BitVec 1) (i : BitVec 15) (s : State) : Host.Outcome State Fault Refusal :=
  .next (s.unary d a k fun x => x &&& zext15 i)

/-- ORI (R114). -/
def execOri (d a : BitVec 5) (k : BitVec 1) (i : BitVec 15) (s : State) : Host.Outcome State Fault Refusal :=
  .next (s.unary d a k fun x => x ||| zext15 i)

/-- XORI (R114). -/
def execXori (d a : BitVec 5) (k : BitVec 1) (i : BitVec 15) (s : State) : Host.Outcome State Fault Refusal :=
  .next (s.unary d a k fun x => x ^^^ zext15 i)

/-- SLTI: signed (R114). -/
def execSlti (d a : BitVec 5) (k : BitVec 1) (i : BitVec 15) (s : State) : Host.Outcome State Fault Refusal :=
  .next (s.unary d a k fun x => boolWord (x.slt (sext15 i)))

/-- SLTIU: unsigned, against the sign-extended immediate (R114). -/
def execSltiu (d a : BitVec 5) (k : BitVec 1) (i : BitVec 15) (s : State) : Host.Outcome State Fault Refusal :=
  .next (s.unary d a k fun x => boolWord (x.ult (sext15 i)))

/-- SLLI (R114). -/
def execSlli (d a : BitVec 5) (k : BitVec 1) (n : BitVec 6) (s : State) : Host.Outcome State Fault Refusal :=
  .next (s.unary d a k fun x => x <<< n.toNat)

/-- SRLI (R114). -/
def execSrli (d a : BitVec 5) (k : BitVec 1) (n : BitVec 6) (s : State) : Host.Outcome State Fault Refusal :=
  .next (s.unary d a k fun x => x >>> n.toNat)

/-- SRAI (R114). -/
def execSrai (d a : BitVec 5) (k : BitVec 1) (n : BitVec 6) (s : State) : Host.Outcome State Fault Refusal :=
  .next (s.unary d a k fun x => x.sshiftRight n.toNat)

/-- RORI (R114). -/
def execRori (d a : BitVec 5) (k : BitVec 1) (n : BitVec 6) (s : State) : Host.Outcome State Fault Refusal :=
  .next (s.unary d a k fun x => rotr x n.toNat)

/-- CATI: X[a] shifted left by 15, or the immediate (R114). -/
def execCati (d a : BitVec 5) (k : BitVec 1) (i : BitVec 15) (s : State) : Host.Outcome State Fault Refusal :=
  .next (s.unary d a k fun x => (x <<< 15) ||| zext15 i)

/-- HINT: a NOP outside a repeat frame; it reads no register and never blocks (R75). -/
def execHint (_i : BitVec 26) (s : State) : Host.Outcome State Fault Refusal :=
  .next (s.issue { cellarer := true } fun s => s.finish id)

end Sys2Proof.Machine
end

