-- ==== Sys2Proof/Machine/Dispatch.lean ====
section
/-! DEFINITION. The dispatch: one arm per instruction or event. -/

namespace Sys2Proof.Machine

/-- What an instruction or event does in a state. -/
def exec (i : Instr) (s : State) : Host.Outcome State Fault Refusal :=
  match i with
  | .add d a b k m => Sys2Proof.Machine.execAdd d a b k m s
  | .sub d a b k m => Sys2Proof.Machine.execSub d a b k m s
  | .addW d a b k m => Sys2Proof.Machine.execAddW d a b k m s
  | .subW d a b k m => Sys2Proof.Machine.execSubW d a b k m s
  | .addsl1 d a b k m => Sys2Proof.Machine.execAddsl1 d a b k m s
  | .addsl2 d a b k m => Sys2Proof.Machine.execAddsl2 d a b k m s
  | .addsl3 d a b k m => Sys2Proof.Machine.execAddsl3 d a b k m s
  | .mkca d a b k m => Sys2Proof.Machine.execMkca d a b k m s
  | .and d a b k m => Sys2Proof.Machine.execAnd d a b k m s
  | .or d a b k m => Sys2Proof.Machine.execOr d a b k m s
  | .xor d a b k m => Sys2Proof.Machine.execXor d a b k m s
  | .andn d a b k m => Sys2Proof.Machine.execAndn d a b k m s
  | .orn d a b k m => Sys2Proof.Machine.execOrn d a b k m s
  | .xnor d a b k m => Sys2Proof.Machine.execXnor d a b k m s
  | .sll d a b k m => Sys2Proof.Machine.execSll d a b k m s
  | .srl d a b k m => Sys2Proof.Machine.execSrl d a b k m s
  | .sra d a b k m => Sys2Proof.Machine.execSra d a b k m s
  | .ror d a b k m => Sys2Proof.Machine.execRor d a b k m s
  | .sllW d a b k m => Sys2Proof.Machine.execSllW d a b k m s
  | .srlW d a b k m => Sys2Proof.Machine.execSrlW d a b k m s
  | .sraW d a b k m => Sys2Proof.Machine.execSraW d a b k m s
  | .seq d a b k m => Sys2Proof.Machine.execSeq d a b k m s
  | .sne d a b k m => Sys2Proof.Machine.execSne d a b k m s
  | .slt d a b k m => Sys2Proof.Machine.execSlt d a b k m s
  | .sltu d a b k m => Sys2Proof.Machine.execSltu d a b k m s
  | .sge d a b k m => Sys2Proof.Machine.execSge d a b k m s
  | .sgeu d a b k m => Sys2Proof.Machine.execSgeu d a b k m s
  | .min d a b k m => Sys2Proof.Machine.execMin d a b k m s
  | .max d a b k m => Sys2Proof.Machine.execMax d a b k m s
  | .minu d a b k m => Sys2Proof.Machine.execMinu d a b k m s
  | .maxu d a b k m => Sys2Proof.Machine.execMaxu d a b k m s
  | .cmovz d a b k m => Sys2Proof.Machine.execCmovz d a b k m s
  | .cmovnz d a b k m => Sys2Proof.Machine.execCmovnz d a b k m s
  | .mul d a b k m => Sys2Proof.Machine.execMul d a b k m s
  | .mulh d a b k m => Sys2Proof.Machine.execMulh d a b k m s
  | .mulhu d a b k m => Sys2Proof.Machine.execMulhu d a b k m s
  | .mulW d a b k m => Sys2Proof.Machine.execMulW d a b k m s
  | .div d a b k m => Sys2Proof.Machine.execDiv d a b k m s
  | .divu d a b k m => Sys2Proof.Machine.execDivu d a b k m s
  | .rem d a b k m => Sys2Proof.Machine.execRem d a b k m s
  | .remu d a b k m => Sys2Proof.Machine.execRemu d a b k m s
  | .clz d a k => Sys2Proof.Machine.execClz d a k s
  | .ctz d a k => Sys2Proof.Machine.execCtz d a k s
  | .popc d a k => Sys2Proof.Machine.execPopc d a k s
  | .bswap d a k => Sys2Proof.Machine.execBswap d a k s
  | .brev d a k => Sys2Proof.Machine.execBrev d a k s
  | .jr a k => Sys2Proof.Machine.execJr a k s
  | .jlr d a k => Sys2Proof.Machine.execJlr d a k s
  | .crr d c => Sys2Proof.Machine.execCrr d c s
  | .crw a c k => Sys2Proof.Machine.execCrw a c k s
  | .crrw d a c k => Sys2Proof.Machine.execCrrw d a c k s
  | .crrBank1 d c => Sys2Proof.Machine.execCrrBank1 d c s
  | .crwBank1 a c k => Sys2Proof.Machine.execCrwBank1 a c k s
  | .crrwBank1 d a c k => Sys2Proof.Machine.execCrrwBank1 d a c k s
  | .empw a k => Sys2Proof.Machine.execEmpw a k s
  | .fulw a k => Sys2Proof.Machine.execFulw a k s
  | .few d a k => Sys2Proof.Machine.execFew d a k s
  | .addi d a k imm => Sys2Proof.Machine.execAddi d a k imm s
  | .andi d a k imm => Sys2Proof.Machine.execAndi d a k imm s
  | .ori d a k imm => Sys2Proof.Machine.execOri d a k imm s
  | .xori d a k imm => Sys2Proof.Machine.execXori d a k imm s
  | .slti d a k imm => Sys2Proof.Machine.execSlti d a k imm s
  | .sltiu d a k imm => Sys2Proof.Machine.execSltiu d a k imm s
  | .slli d a k pv => Sys2Proof.Machine.execSlli d a k pv s
  | .srli d a k pv => Sys2Proof.Machine.execSrli d a k pv s
  | .srai d a k pv => Sys2Proof.Machine.execSrai d a k pv s
  | .rori d a k pv => Sys2Proof.Machine.execRori d a k pv s
  | .cati d a k imm => Sys2Proof.Machine.execCati d a k imm s
  | .repf n m x y z => Sys2Proof.Machine.execRepf n m x y z s
  | .b imm => Sys2Proof.Machine.execB imm s
  | .bEqz a imm => Sys2Proof.Machine.execBEqz a imm s
  | .bNez a imm => Sys2Proof.Machine.execBNez a imm s
  | .bLtz a imm => Sys2Proof.Machine.execBLtz a imm s
  | .bGez a imm => Sys2Proof.Machine.execBGez a imm s
  | .bGtz a imm => Sys2Proof.Machine.execBGtz a imm s
  | .bLez a imm => Sys2Proof.Machine.execBLez a imm s
  | .bBc a imm => Sys2Proof.Machine.execBBc a imm s
  | .bBs a imm => Sys2Proof.Machine.execBBs a imm s
  | .bFull a imm => Sys2Proof.Machine.execBFull a imm s
  | .bEmpty a imm => Sys2Proof.Machine.execBEmpty a imm s
  | .bPany p imm => Sys2Proof.Machine.execBPany p imm s
  | .bPnone p imm => Sys2Proof.Machine.execBPnone p imm s
  | .j imm => Sys2Proof.Machine.execJ imm s
  | .jl imm => Sys2Proof.Machine.execJl imm s
  | .yield => Sys2Proof.Machine.execYield s
  | .retire => Sys2Proof.Machine.execRetire s
  | .done => Sys2Proof.Machine.execDone s
  | .uret => Sys2Proof.Machine.execUret s
  | .send d a b k m => Sys2Proof.Machine.execSend d a b k m s
  | .spawn a b k m => Sys2Proof.Machine.execSpawn a b k m s
  | .decr a b k m => Sys2Proof.Machine.execDecr a b k m s
  | .htset a b k m => Sys2Proof.Machine.execHtset a b k m s
  | .htget d a k => Sys2Proof.Machine.execHtget d a k s
  | .pumpq a k => Sys2Proof.Machine.execPumpq a k s
  | .rslv d a k => Sys2Proof.Machine.execRslv d a k s
  | .lds d a k o pv imm => Sys2Proof.Machine.execLds d a k o pv imm s
  | .sts d a k o pv imm => Sys2Proof.Machine.execSts d a k o pv imm s
  | .ldc d a k o pv imm => Sys2Proof.Machine.execLdc d a k o pv imm s
  | .stc d a k o pv imm => Sys2Proof.Machine.execStc d a k o pv imm s
  | .ld d a k o pv imm => Sys2Proof.Machine.execLd d a k o pv imm s
  | .st d a k o pv imm => Sys2Proof.Machine.execSt d a k o pv imm s
  | .ldf d a k o imm => Sys2Proof.Machine.execLdf d a k o imm s
  | .aswap d a b k m c z => Sys2Proof.Machine.execAswap d a b k m c z s
  | .acas d a b k m c z => Sys2Proof.Machine.execAcas d a b k m c z s
  | .aadd d a b k m c z => Sys2Proof.Machine.execAadd d a b k m c z s
  | .aand d a b k m c z => Sys2Proof.Machine.execAand d a b k m c z s
  | .aor d a b k m c z => Sys2Proof.Machine.execAor d a b k m c z s
  | .axor d a b k m c z => Sys2Proof.Machine.execAxor d a b k m c z s
  | .amin d a b k m c z => Sys2Proof.Machine.execAmin d a b k m c z s
  | .amax d a b k m c z => Sys2Proof.Machine.execAmax d a b k m c z s
  | .aminu d a b k m c z => Sys2Proof.Machine.execAminu d a b k m c z s
  | .amaxu d a b k m c z => Sys2Proof.Machine.execAmaxu d a b k m c z s
  | .afadd d a b k m c z => Sys2Proof.Machine.execAfadd d a b k m c z s
  | .aminp d a b k m c => Sys2Proof.Machine.execAminp d a b k m c s
  | .redadd a b k m c z => Sys2Proof.Machine.execRedadd a b k m c z s
  | .redand a b k m c z => Sys2Proof.Machine.execRedand a b k m c z s
  | .redor a b k m c z => Sys2Proof.Machine.execRedor a b k m c z s
  | .redxor a b k m c z => Sys2Proof.Machine.execRedxor a b k m c z s
  | .redmin a b k m c z => Sys2Proof.Machine.execRedmin a b k m c z s
  | .redmax a b k m c z => Sys2Proof.Machine.execRedmax a b k m c z s
  | .redminu a b k m c z => Sys2Proof.Machine.execRedminu a b k m c z s
  | .redmaxu a b k m c z => Sys2Proof.Machine.execRedmaxu a b k m c z s
  | .redfadd a b k m c z => Sys2Proof.Machine.execRedfadd a b k m c z s
  | .redminp a b k m c => Sys2Proof.Machine.execRedminp a b k m c s
  | .fence pv x => Sys2Proof.Machine.execFence pv x s
  | .fenceAcq pv x => Sys2Proof.Machine.execFenceAcq pv x s
  | .fenceRel pv x => Sys2Proof.Machine.execFenceRel pv x s
  | .vadd d a b p e => Sys2Proof.Machine.execVadd d a b p e s
  | .vsub d a b p e => Sys2Proof.Machine.execVsub d a b p e s
  | .vadds d a b p e => Sys2Proof.Machine.execVadds d a b p e s
  | .vaddus d a b p e => Sys2Proof.Machine.execVaddus d a b p e s
  | .vsubs d a b p e => Sys2Proof.Machine.execVsubs d a b p e s
  | .vsubus d a b p e => Sys2Proof.Machine.execVsubus d a b p e s
  | .vmul d a b p e => Sys2Proof.Machine.execVmul d a b p e s
  | .vmulh d a b p e => Sys2Proof.Machine.execVmulh d a b p e s
  | .vmulhu d a b p e => Sys2Proof.Machine.execVmulhu d a b p e s
  | .vmacc d a b p e => Sys2Proof.Machine.execVmacc d a b p e s
  | .vmin d a b p e => Sys2Proof.Machine.execVmin d a b p e s
  | .vmax d a b p e => Sys2Proof.Machine.execVmax d a b p e s
  | .vminu d a b p e => Sys2Proof.Machine.execVminu d a b p e s
  | .vmaxu d a b p e => Sys2Proof.Machine.execVmaxu d a b p e s
  | .vabs d a p e => Sys2Proof.Machine.execVabs d a p e s
  | .vand d a b p e => Sys2Proof.Machine.execVand d a b p e s
  | .vor d a b p e => Sys2Proof.Machine.execVor d a b p e s
  | .vxor d a b p e => Sys2Proof.Machine.execVxor d a b p e s
  | .vandn d a b p e => Sys2Proof.Machine.execVandn d a b p e s
  | .vsll d a b p e => Sys2Proof.Machine.execVsll d a b p e s
  | .vsrl d a b p e => Sys2Proof.Machine.execVsrl d a b p e s
  | .vsra d a b p e => Sys2Proof.Machine.execVsra d a b p e s
  | .vcmpeq d a b p e => Sys2Proof.Machine.execVcmpeq d a b p e s
  | .vcmpne d a b p e => Sys2Proof.Machine.execVcmpne d a b p e s
  | .vcmplt d a b p e => Sys2Proof.Machine.execVcmplt d a b p e s
  | .vcmpltu d a b p e => Sys2Proof.Machine.execVcmpltu d a b p e s
  | .vcmple d a b p e => Sys2Proof.Machine.execVcmple d a b p e s
  | .vcmpleu d a b p e => Sys2Proof.Machine.execVcmpleu d a b p e s
  | .vfadd d a b p e r => Sys2Proof.Machine.execVfadd d a b p e r s
  | .vfsub d a b p e r => Sys2Proof.Machine.execVfsub d a b p e r s
  | .vfmul d a b p e r => Sys2Proof.Machine.execVfmul d a b p e r s
  | .vfma d a b p e r => Sys2Proof.Machine.execVfma d a b p e r s
  | .vfmin d a b p e => Sys2Proof.Machine.execVfmin d a b p e s
  | .vfmax d a b p e => Sys2Proof.Machine.execVfmax d a b p e s
  | .vfdiv d a b p e r => Sys2Proof.Machine.execVfdiv d a b p e r s
  | .vfsqrt d a p e r => Sys2Proof.Machine.execVfsqrt d a p e r s
  | .vcvt d a k m p => Sys2Proof.Machine.execVcvt d a k m p s
  | .vcvtS d a k m p => Sys2Proof.Machine.execVcvtS d a k m p s
  | .vmov d a p e => Sys2Proof.Machine.execVmov d a p e s
  | .vsplat d a p e => Sys2Proof.Machine.execVsplat d a p e s
  | .vext d a b e => Sys2Proof.Machine.execVext d a b e s
  | .vins d a b e => Sys2Proof.Machine.execVins d a b e s
  | .vpermv d a b p e => Sys2Proof.Machine.execVpermv d a b p e s
  | .viota d p e => Sys2Proof.Machine.execViota d p e s
  | .pand d a b => Sys2Proof.Machine.execPand d a b s
  | .por d a b => Sys2Proof.Machine.execPor d a b s
  | .pxor d a b => Sys2Proof.Machine.execPxor d a b s
  | .pandn d a b => Sys2Proof.Machine.execPandn d a b s
  | .pmovx d a => Sys2Proof.Machine.execPmovx d a s
  | .pmovp d a => Sys2Proof.Machine.execPmovp d a s
  | .pcnt d a e => Sys2Proof.Machine.execPcnt d a e s
  | .vfcmpeq d a b p e => Sys2Proof.Machine.execVfcmpeq d a b p e s
  | .vfcmplt d a b p e => Sys2Proof.Machine.execVfcmplt d a b p e s
  | .vfcmple d a b p e => Sys2Proof.Machine.execVfcmple d a b p e s
  | .vfcmpun d a b p e => Sys2Proof.Machine.execVfcmpun d a b p e s
  | .vredadd d a p e => Sys2Proof.Machine.execVredadd d a p e s
  | .vredaddu d a p e => Sys2Proof.Machine.execVredaddu d a p e s
  | .vredmin d a p e => Sys2Proof.Machine.execVredmin d a p e s
  | .vredmax d a p e => Sys2Proof.Machine.execVredmax d a p e s
  | .vredminu d a p e => Sys2Proof.Machine.execVredminu d a p e s
  | .vredmaxu d a p e => Sys2Proof.Machine.execVredmaxu d a p e s
  | .vfredadd d a r p e => Sys2Proof.Machine.execVfredadd d a r p e s
  | .vfredmin d a p e => Sys2Proof.Machine.execVfredmin d a p e s
  | .vfredmax d a p e => Sys2Proof.Machine.execVfredmax d a p e s
  | .fmtw d a => Sys2Proof.Machine.execFmtw d a s
  | .fmtr d a => Sys2Proof.Machine.execFmtr d a s
  | .vgatherS d a b p e => Sys2Proof.Machine.execVgatherS d a b p e s
  | .vscatterS d a b p e => Sys2Proof.Machine.execVscatterS d a b p e s
  | .vgatherC d a b p e => Sys2Proof.Machine.execVgatherC d a b p e s
  | .vscatterC d a b p e => Sys2Proof.Machine.execVscatterC d a b p e s
  | .vgatherG d a b p e => Sys2Proof.Machine.execVgatherG d a b p e s
  | .vscatterG d a b p e => Sys2Proof.Machine.execVscatterG d a b p e s
  | .tshape d a k => Sys2Proof.Machine.execTshape d a k s
  | .trel d => Sys2Proof.Machine.execTrel d s
  | .tzero d => Sys2Proof.Machine.execTzero d s
  | .twrow d a b k m => Sys2Proof.Machine.execTwrow d a b k m s
  | .trdrow d a b m => Sys2Proof.Machine.execTrdrow d a b m s
  | .twcol d a b k m => Sys2Proof.Machine.execTwcol d a b k m s
  | .trdcol d a b m => Sys2Proof.Machine.execTrdcol d a b m s
  | .tmac d a b => Sys2Proof.Machine.execTmac d a b s
  | .tstat d a => Sys2Proof.Machine.execTstat d a s
  | .qand d a b e => Sys2Proof.Machine.execQand d a b e s
  | .qor d a b e => Sys2Proof.Machine.execQor d a b e s
  | .qsub d a b e => Sys2Proof.Machine.execQsub d a b e s
  | .qxlt d a e n => Sys2Proof.Machine.execQxlt d a e n s
  | .qdil d a e n => Sys2Proof.Machine.execQdil d a e n s
  | .qproj d a e m => Sys2Proof.Machine.execQproj d a e m s
  | .qsplit d a e n => Sys2Proof.Machine.execQsplit d a e n s
  | .qclip d a => Sys2Proof.Machine.execQclip d a s
  | .qbbox d a => Sys2Proof.Machine.execQbbox d a s
  | .qcnt a n => Sys2Proof.Machine.execQcnt a n s
  | .qcmp a b n => Sys2Proof.Machine.execQcmp a b n s
  | .qgetb a j n => Sys2Proof.Machine.execQgetb a j n s
  | .qmkb d a n => Sys2Proof.Machine.execQmkb d a n s
  | .qmkbs d a n => Sys2Proof.Machine.execQmkbs d a n s
  | .qrag d a n => Sys2Proof.Machine.execQrag d a n s
  | .qall d k => Sys2Proof.Machine.execQall d k s
  | .qdtbw n => Sys2Proof.Machine.execQdtbw n s
  | .qdtbr n => Sys2Proof.Machine.execQdtbr n s
  | .qld d n => Sys2Proof.Machine.execQld d n s
  | .qst a n => Sys2Proof.Machine.execQst a n s
  | .rack a b n c t pv => Sys2Proof.Machine.execRack a b n c t pv s
  | .rackT a b n c t pv => Sys2Proof.Machine.execRackT a b n c t pv s
  | .rackm a b n c t pv => Sys2Proof.Machine.execRackm a b n c t pv s
  | .rackzC a b n => Sys2Proof.Machine.execRackzC a b n s
  | .rackzD a b n c => Sys2Proof.Machine.execRackzD a b n c s
  | .relslot a b => Sys2Proof.Machine.execRelslot a b s
  | .dictld a => Sys2Proof.Machine.execDictld a s
  | .waitc a b => Sys2Proof.Machine.execWaitc a b s
  | .waitr a => Sys2Proof.Machine.execWaitr a s
  | .drainS => Sys2Proof.Machine.execDrainS s
  | .drainG => Sys2Proof.Machine.execDrainG s
  | .drainM => Sys2Proof.Machine.execDrainM s
  | .rstatState d => Sys2Proof.Machine.execRstatState d s
  | .rstatGeneration d => Sys2Proof.Machine.execRstatGeneration d s
  | .rstatFault d => Sys2Proof.Machine.execRstatFault d s
  | .rstatCredit d b => Sys2Proof.Machine.execRstatCredit d b s
  | .lease a => Sys2Proof.Machine.execLease a s
  | .unlease => Sys2Proof.Machine.execUnlease s
  | .ploadw a => Sys2Proof.Machine.execPloadw a s
  | .pstream a => Sys2Proof.Machine.execPstream a s
  | .pdrain a => Sys2Proof.Machine.execPdrain a s
  | .dleave n k g => Sys2Proof.Machine.execDleave n k g s
  | .pstatState d => Sys2Proof.Machine.execPstatState d s
  | .pstatFault d => Sys2Proof.Machine.execPstatFault d s
  | .pstatRow d b => Sys2Proof.Machine.execPstatRow d b s
  | .trcfg a => Sys2Proof.Machine.execTrcfg a s
  | .trbin a => Sys2Proof.Machine.execTrbin a s
  | .trupd a => Sys2Proof.Machine.execTrupd a s
  | .trpairs a n => Sys2Proof.Machine.execTrpairs a n s
  | .trstatState d => Sys2Proof.Machine.execTrstatState d s
  | .trstatFault d => Sys2Proof.Machine.execTrstatFault d s
  | .trstatCell d b => Sys2Proof.Machine.execTrstatCell d b s
  | .trrel => Sys2Proof.Machine.execTrrel s
  | .caskrec a => Sys2Proof.Machine.execCaskrec a s
  | .caskend d => Sys2Proof.Machine.execCaskend d s
  | .decant d b => Sys2Proof.Machine.execDecant d b s
  | .caskdrop a => Sys2Proof.Machine.execCaskdrop a s
  | .cstatTape d b => Sys2Proof.Machine.execCstatTape d b s
  | .cstatFree d => Sys2Proof.Machine.execCstatFree d s
  | .cstatNext d b => Sys2Proof.Machine.execCstatNext d b s
  | .syscall imm => Sys2Proof.Machine.execSyscall imm s
  | .brk imm => Sys2Proof.Machine.execBrk imm s
  | .resume d a b => Sys2Proof.Machine.execResume d a b s
  | .abort d a => Sys2Proof.Machine.execAbort d a s
  | .slotrd d a b => Sys2Proof.Machine.execSlotrd d a b s
  | .slotwr pv a b => Sys2Proof.Machine.execSlotwr pv a b s
  | .fqpop d a b => Sys2Proof.Machine.execFqpop d a b s
  | .fqwait d a => Sys2Proof.Machine.execFqwait d a s
  | .kret => Sys2Proof.Machine.execKret s
  | .hint imm => Sys2Proof.Machine.execHint imm s
  | .admission core => Sys2Proof.Machine.execAdmission core s
  | .candidateAging core cand => Sys2Proof.Machine.execCandidateAging core cand s
  | .mailbox msg => Sys2Proof.Machine.execMailbox msg s
  | .decrementStep a e => Sys2Proof.Machine.execDecrementStep a e s
  | .readyRingPush core => Sys2Proof.Machine.execReadyRingPush core s
  | .creditReturn a e => Sys2Proof.Machine.execCreditReturn a e s
  | .pumpAnswer launch k => Sys2Proof.Machine.execPumpAnswer launch k s
  | .loadReplyLand a e => Sys2Proof.Machine.execLoadReplyLand a e s
  | .performLoad a e => Sys2Proof.Machine.execPerformLoad a e s
  | .performStore a e => Sys2Proof.Machine.execPerformStore a e s
  | .performAtomic a e => Sys2Proof.Machine.execPerformAtomic a e s
  | .performReduction a e => Sys2Proof.Machine.execPerformReduction a e s
  | .performMessage core => Sys2Proof.Machine.execPerformMessage core s
  | .performEngineEntry a e => Sys2Proof.Machine.execPerformEngineEntry a e s
  | .fenceDone a => Sys2Proof.Machine.execFenceDone a s
  | .waitDone a => Sys2Proof.Machine.execWaitDone a s
  | .commit a => Sys2Proof.Machine.execCommit a s
  | .sealedEffectEnqueue core k => Sys2Proof.Machine.execSealedEffectEnqueue core k s
  | .roleDone core => Sys2Proof.Machine.execRoleDone core s
  | .jobStart core => Sys2Proof.Machine.execJobStart core s
  | .granuleByte press unit job g b m => Sys2Proof.Machine.execGranuleByte press unit job g b m s
  | .count core job m => Sys2Proof.Machine.execCount core job m s
  | .dictldPerform core => Sys2Proof.Machine.execDictldPerform core s
  | .leaseArbitration cluster => Sys2Proof.Machine.execLeaseArbitration cluster s
  | .leaveGiven cluster => Sys2Proof.Machine.execLeaveGiven cluster s
  | .pressCommandStart cluster => Sys2Proof.Machine.execPressCommandStart cluster s
  | .pressCommandComplete cluster => Sys2Proof.Machine.execPressCommandComplete cluster s
  | .unleaseAct core => Sys2Proof.Machine.execUnleaseAct core s
  | .leaseCycleLimit cluster => Sys2Proof.Machine.execLeaseCycleLimit cluster s
  | .leaseIdleEnd cluster => Sys2Proof.Machine.execLeaseIdleEnd cluster s
  | .drainDelivery cluster => Sys2Proof.Machine.execDrainDelivery cluster s
  | .trcfgPerform cluster => Sys2Proof.Machine.execTrcfgPerform cluster s
  | .trbinPerform cluster => Sys2Proof.Machine.execTrbinPerform cluster s
  | .trupdPerform cluster => Sys2Proof.Machine.execTrupdPerform cluster s
  | .trpairsStart cluster => Sys2Proof.Machine.execTrpairsStart cluster s
  | .emit cluster n => Sys2Proof.Machine.execEmit cluster n s
  | .trrelPerform cluster => Sys2Proof.Machine.execTrrelPerform cluster s
  | .decantRecordIssue a => Sys2Proof.Machine.execDecantRecordIssue a s
  | .faultQueueEntry cluster k => Sys2Proof.Machine.execFaultQueueEntry cluster k s
  | .missPost cluster k => Sys2Proof.Machine.execMissPost cluster k s
  | .mqpop cluster => Sys2Proof.Machine.execMqpop cluster s
  | .mqcnt cluster => Sys2Proof.Machine.execMqcnt cluster s
  | .fill cluster v => Sys2Proof.Machine.execFill cluster v s
  | .refuse cluster v => Sys2Proof.Machine.execRefuse cluster v s
  | .recpop cluster => Sys2Proof.Machine.execRecpop cluster s
  | .recfwd cluster => Sys2Proof.Machine.execRecfwd cluster s
  | .invgo v => Sys2Proof.Machine.execInvgo v s
  | .pzgo v => Sys2Proof.Machine.execPzgo v s
  | .mgo v => Sys2Proof.Machine.execMgo v s
  | .migrationCopied => Sys2Proof.Machine.execMigrationCopied s
  | .migrationAbandon => Sys2Proof.Machine.execMigrationAbandon s
  | .mend => Sys2Proof.Machine.execMend s
  | .ckrecl cluster => Sys2Proof.Machine.execCkrecl cluster s
  | .doorbell q => Sys2Proof.Machine.execDoorbell q s
  | .qreset q => Sys2Proof.Machine.execQreset q s
  | .launchRecordFetch q => Sys2Proof.Machine.execLaunchRecordFetch q s
  | .launchStart q cores => Sys2Proof.Machine.execLaunchStart q cores s
  | .groupCompletion launch => Sys2Proof.Machine.execGroupCompletion launch s
  | .sliceEnd launch => Sys2Proof.Machine.execSliceEnd launch s
  | .preq v => Sys2Proof.Machine.execPreq v s
  | .taskLevelSave launch => Sys2Proof.Machine.execTaskLevelSave launch s
  | .graceTimerExpiry launch => Sys2Proof.Machine.execGraceTimerExpiry launch s
  | .saveComplete launch => Sys2Proof.Machine.execSaveComplete launch s
  | .killTimerExpiry launch => Sys2Proof.Machine.execKillTimerExpiry launch s
  | .pkill v => Sys2Proof.Machine.execPkill v s
  | .groupResume launch cores => Sys2Proof.Machine.execGroupResume launch cores s
  | .correctedError kind => Sys2Proof.Machine.execCorrectedError kind s
  | .uncorrectableError place => Sys2Proof.Machine.execUncorrectableError place s
  | .tscld v => Sys2Proof.Machine.execTscld v s
  | .tscLoadComplete cluster => Sys2Proof.Machine.execTscLoadComplete cluster s
  | .treeResultDeliver op => Sys2Proof.Machine.execTreeResultDeliver op s
  | .reductionPacketPerform k => Sys2Proof.Machine.execReductionPacketPerform k s
  | .linkFailure peer up => Sys2Proof.Machine.execLinkFailure peer up s
  | .powerOn inp => Sys2Proof.Machine.execPowerOn inp s
  | .bootRetry inp => Sys2Proof.Machine.execBootRetry inp s
  | .kstart partition v => Sys2Proof.Machine.execKstart partition v s
  | .kernelImageVerified partition => Sys2Proof.Machine.execKernelImageVerified partition s
  | .mbTemperature => Sys2Proof.Machine.execMbTemperature s
  | .mbRail => Sys2Proof.Machine.execMbRail s
  | .mbPowerLimit watts => Sys2Proof.Machine.execMbPowerLimit watts s
  | .mbStandby => Sys2Proof.Machine.execMbStandby s
  | .mbst => Sys2Proof.Machine.execMbst s
  | .fqwaitTimeout k => Sys2Proof.Machine.execFqwaitTimeout k s
  | .registerWrite host address v => Sys2Proof.Machine.execRegisterWrite host address v s
  | .illegalInstruction w => Sys2Proof.Machine.execIllegalInstruction w s
  | .instructionFetchFault => Sys2Proof.Machine.execInstructionFetchFault s
  | .vectorQueueServe core => Sys2Proof.Machine.execVectorQueueServe core s
  | .mbcmdDone => Sys2Proof.Machine.execMbcmdDone s

end Sys2Proof.Machine
end

