-- ==== Sys2Proof/Machine/Schedule.lean ====
section
/-! DEFINITION. Which transition a step takes when the agenda names none: an enabled transition of the device, else an
instruction of an agent, else time passes (R271; log entry 31). -/

namespace Sys2Proof.Machine

/-! ### Agents -/

/-- Whether two agents are of one core. -/
def sameCore : Agent → Agent → Bool
  | .slot c _, .slot d _ => decide (c = d)
  | a, b => decide (a = b)

/-- The agents that have a context listed, which are those that can have left their reset state. -/
def State.agents (s : State) : List Agent :=
  s.ctxs.map Prod.fst

/-- Whether an agent may issue. -/
def State.mayIssue (s : State) (a : Agent) : Bool := (s.ctx a).ctl.canIssue

/-- The agents in the order in which they take turns: those after the issuing agent's core first, each core's slots in its
rotation. -/
def State.turns (s : State) : List Agent :=
  let later := (s.agents.dropWhile fun a => !sameCore a s.cur).filter fun a => !sameCore a s.cur
  let others := later ++ s.agents.filter fun a => !sameCore a s.cur
  others.flatMap (fun a => rotation a (s.core (coreNo a)).lastSlot) ++ rotation s.cur (s.core (coreNo s.cur)).lastSlot

/-- Whether the first load that keeps a slot has its data to land, or an entry that may be performed now: while it is due, the hold of
R110 has ended, and what the slot waits for comes before the turn of another (R29; log entry 5). -/
def State.loadDue (s : State) (a : Agent) : Bool :=
  match (s.ctx a).loads.find? fun r => r.own.isSome with
  | some r => r.ready || r.parts.any fun p => p.2.isNone && (s.entryReady a p.1).isSome
  | none => false

/-- An agent whose word must wait does not issue: unless a load of its slot is due, the rotation skips it for a cycle (R29, R274; log
entry 5). -/
def State.passOver (s : State) (a : Agent) : State :=
  if s.loadDue a then s
  else s.onCtx a fun c => { c with ctl := { c.ctl with late := max c.ctl.late (s.issueCycle a + 1) } }

/-- What an issue answers: where the meaning of the word leaves the state as the issue began, the word waits, and nothing has issued.
(The control of the slot is compared first, for it is what almost every word changes.) -/
def State.orWaits (s : State) (a : Agent) (u : State) (o : Host.Outcome State Fault Refusal) : Host.Outcome State Fault Refusal :=
  match o with
  | .next t => if (t.ctx a).ctl = (u.ctx a).ctl ∧ t = u then .next (s.passOver a) else .next t
  | o => o

/-- An agent issues its next instruction, when the rotation of its core comes to it: fetch, decoding, and the instruction's meaning
(R29, R64, R70). -/
noncomputable def issueStep (a : Agent) (s : State) : Host.Outcome State Fault Refusal :=
  if (s.ctx a).ctl.canIssue && s.inTurn a then
    let u := s.beginIssue a
    match u.fetch a with
    | .fails _ => s.orWaits a u (exec .instructionFetchFault u)
    | .miss => .next (u.missOf a (u.asidFor a) (u.ctx a).ctl.pc.toNat .fetch)
    | .held => .next (s.passOver a)
    | .word w =>
      let v := u.countFetch a
      let w' := (v.ctx a).ctl.issued w
      let v := v.onCtx a fun c => { c with ctl := { c.ctl.capture w with iword := w', late := v.now + lateFor w' } }
      s.orWaits a v (match decode w' with
        | some i => exec i v
        | none => exec (.illegalInstruction w') v)
  else .next s

/-- The next agent to issue: the first whose issue changes something. -/
noncomputable def State.nextAgent (s : State) : Option Agent :=
  s.turns.find? fun a => s.mayIssue a && match issueStep a s with
    | .next t => decide (t ≠ s)
    | _ => true

/-! ### Transitions that agents, cores, clusters and the device may have -/

/-- The number of a cellarer core; 0 for the others. -/
def celNo : Agent → Nat
  | .cel k => k
  | _ => 0

/-- The transitions of an agent. -/
noncomputable def State.agentMoves (s : State) (a : Agent) : List Instr :=
  let c := s.ctx a
  (c.queue.flatMap fun e =>
    match e.what with
    | .load _ _ _ _ => [.performLoad a e.id]
    | .ldf _ _ => [.performLoad a e.id]
    | .few _ _ => [.performLoad a e.id]
    | .tree _ _ => [.performLoad a e.id]
    | .status _ _ => [.performLoad a e.id]
    | .atomic _ _ _ _ _ _ => [.performAtomic a e.id]
    | .reduce _ _ _ _ => [.performReduction a e.id]
    | .decr _ _ => [.decrementStep a e.id]
    | .credit _ _ => [.creditReturn a e.id]
    | .message _ _ => []
    | .engine _ => [.performEngineEntry a e.id]
    | .store _ _ _ _ => [.performStore a e.id]
    | .empw _ => [.performStore a e.id]
    | .fulw _ => [.performStore a e.id]
    | .inject _ _ => [.performStore a e.id])
  ++ c.loads.map (fun r => .loadReplyLand a r.id)
  ++ (match c.ctl.hold with
    | some (.fence _ _ _ _ _) => [.fenceDone a]
    | some (.waitc _ _) => [.waitDone a]
    | some (.jobs _) => [.waitDone a]
    | some .commit => [.commit a]
    | some .decant => [.decantRecordIssue a]
    | some (.fqwait _ _) => [.fqwaitTimeout (celNo a)]
    | _ => [])

/-- The transitions of a job in flight: the bytes of its first unfinished granule, at most 580 with what a last cell or a
token of one word each adds, and its counts. -/
noncomputable def jobMoves (core : Nat) (j : Job) : List Instr :=
  let ms := upFrom 0 j.receivers
  let counts := ms.map fun m => Instr.count core j.id m
  match (upFrom 0 j.granules).find? fun g => !j.granuleDone g with
  | none => counts
  | some g =>
    counts ++ ms.flatMap fun m => (upFrom 0 580).flatMap fun b =>
      if j.kind.isCopy then [Instr.granuleByte false core j.id g b m]
      else [Instr.granuleByte false core j.id g b m, Instr.granuleByte false core j.id g (coderWrite + b) m]

/-- The transitions of a small core. -/
noncomputable def State.coreMoves (s : State) (n : Nat) : List Instr :=
  let k := s.core n
  [.vectorQueueServe n, .performMessage n, .jobStart n, .dictldPerform n, .unleaseAct n, .readyRingPush n, .roleDone n]
  ++ (upFrom 0 k.waitingEffects.length).map (fun i => .sealedEffectEnqueue n i)
  ++ k.inflight.flatMap (fun j => jobMoves n j.2)
  ++ (s.bids n).map (fun b => .candidateAging n b.cand)
  ++ [.admission n]

/-- The transitions of a cluster. -/
noncomputable def State.clusterMoves (s : State) (c : Nat) : List Instr :=
  let cl := s.cluster c
  (upFrom 0 cl.pending.length).map (fun i => .faultQueueEntry c i)
  ++ (upFrom 0 cl.missWaits.length).map (fun i => .missPost c i)
  ++ [.leaveGiven c, .leaseArbitration c, .drainDelivery c, .pressCommandComplete c, .pressCommandStart c,
    .leaseCycleLimit c, .leaseIdleEnd c, .trcfgPerform c, .trbinPerform c, .trupdPerform c, .trpairsStart c,
    .trrelPerform c, .emit c 2, .tscLoadComplete c]

/-! ### The dispatcher -/

/-- The dies of a group's parts, in each order there is. -/
def dieOrders : Nat → List Nat → List (List Nat)
  | 0, _ => [[]]
  | n + 1, dies => dies.flatMap fun d => (dieOrders n (dies.filter (· ≠ d))).map fun ds => d :: ds

/-- Free cores of a die for `n` roles, 16 to a cluster; none where the die has no room. -/
def State.dieCores (s : State) (part : Nat) (q : Option Nat) (n die : Nat) : Option (List Nat) :=
  let free := fun c => (coresOf c).filter (s.freeFor part q)
  let cs := upFrom (die * Config.clustersPerDie) Config.clustersPerDie
  let whole := (cs.filter fun c => decide (16 ≤ (free c).length)).take (n / 16)
  if whole.length < n / 16 then none
  else
    let cores := whole.flatMap fun c => (free c).take 16
    if n % 16 = 0 then some cores
    else
      match cs.find? fun c => !whole.contains c && decide (n % 16 ≤ (free c).length) with
      | some c => some (cores ++ (free c).take (n % 16))
      | none => none

/-- Free cores for the parts of a group on given dies. -/
def State.partCores (s : State) (part : Nat) (q : Option Nat) : List Nat → List Nat → Option (List Nat)
  | n :: ns, d :: ds =>
    match s.dieCores part q n d, s.partCores part q ns ds with
    | some cs, some rest => some (cs ++ rest)
    | _, _ => none
  | _, _ => some []

/-- Cores, by role, that a binding of `n` roles can have (R16); none where it has to wait. -/
def State.pickCores (s : State) (part : Nat) (q : Option Nat) (n : Nat) (pv : Bool) : List Nat :=
  let sizes := (upFrom 0 ((n + 1023) / 1024)).map fun m => min 1024 (n - 1024 * m)
  match (dieOrders sizes.length (upFrom 0 4)).findSome? fun ds =>
      match s.partCores part q sizes ds with
      | some cs => if s.bindable part q n pv cs then some cs else none
      | none => none with
  | some cs => cs
  | none => []

/-- The transitions of a launch queue. -/
noncomputable def State.queueMoves (s : State) (q : Nat) : List Instr :=
  let cores := match s.headImage q with
    | some (.ok img) => s.pickCores (s.qPartition q) (some q) img.nroles img.pump.isSome
    | _ => []
  (if (s.queue q).ring then [.doorbell q] else []) ++ [.launchRecordFetch q, .launchStart q cores]

/-- The transitions of a group. -/
noncomputable def State.groupMoves (s : State) (launch : Nat) (g : Group) : List Instr :=
  let queries := match g.pump with
    | some p => (upFrom 0 p.queries.length).map fun k => .pumpAnswer launch k
    | none => []
  queries
  ++ [.groupCompletion launch, .saveComplete launch, .taskLevelSave launch, .killTimerExpiry launch,
    .graceTimerExpiry launch, .sliceEnd launch]
  ++ (if g.phase = .saved then
        [.groupResume launch (s.pickCores g.partition none g.kept.length g.pump.isSome)]
      else [])

/-- The transitions of the device's own units.  Errors, failing links, a migration that is abandoned, the host's and the
network's doings are no choice of the device: only the agenda names them. -/
noncomputable def State.deviceMoves (s : State) : List Instr :=
  s.mesh.map (fun m => .mailbox m.id)
  ++ (upFrom 0 s.tree.length).map (fun i => .treeResultDeliver i)
  ++ (upFrom 0 s.packets.length).map (fun i => .reductionPacketPerform i)
  ++ s.parts.failing.map .uncorrectableError
  ++ [.migrationCopied, .mbcmdDone]
  ++ s.board.kst.map (fun p => .kernelImageVerified p.1)

/-- Every transition that might be enabled, in the order in which they are tried. -/
noncomputable def State.candidates (s : State) : List Instr :=
  s.agents.flatMap s.agentMoves
  ++ (s.cores.map Prod.fst).flatMap s.coreMoves
  ++ (s.clusters.map Prod.fst).flatMap s.clusterMoves
  ++ s.deviceMoves
  ++ (s.dispatch.queues.map Prod.fst).flatMap s.queueMoves
  ++ s.groups.flatMap fun g => s.groupMoves g.1 g.2

/-- Whether a transition is enabled: one that is not leaves the state as it is. -/
def State.enabled (s : State) (e : Instr) : Bool :=
  match exec e s with
  | .next t => decide (t ≠ s)
  | _ => true

/-- A kernel whose core has stopped is restarted by the monitor pair, and a restarted one re-adopts its tenants (R404). -/
noncomputable def State.kernelMove (s : State) : Option Move :=
  let stopped := (upFrom 0 16).find? fun k =>
    decide ((s.ctx (.cel k)).ctl.status = .stopped) && (s.board.entry.find? k).isSome
  match stopped, s.dispatch.frozen with
  | some k, _ => some (.take (.uncorrectableError (.kernel (s.partOfCel k))))
  | none, p :: _ => some (.readopt p [])
  | none, [] => none

/-- The transition that a step takes with an empty agenda. -/
noncomputable def State.nextMove (s : State) : Move :=
  match s.kernelMove with
  | some m => m
  | none =>
    match s.candidates.find? s.enabled with
    | some e => .take e
    | none =>
      match s.nextAgent with
      | some a => .issue a
      | none => .elapse 1

end Sys2Proof.Machine
end

