-- ==== Sys2Proof/Machine/Step.lean ====
section
/-! DEFINITION. One step of the device: the choice at the head of the agenda, else the model's own (R271, log entry 31). -/

namespace Sys2Proof.Machine

/-- A transition of the device. -/
noncomputable def moveStep (m : Move) (s : State) : Host.Outcome State Fault Refusal :=
  match m with
  | .issue a => issueStep a s
  | .take e => exec e s
  | .elapse n => .next { s with now := s.now + n }
  | .readopt part lost => .next (s.readopt part lost)
  | .packet p => .next (s.packetArrives p)

/-- One step: the head of the agenda, or the model's own choice; a device without power makes none but POWER_ON (R417, R421). -/
noncomputable def step (s : State) : Host.Outcome State Fault Refusal :=
  if !s.board.powered then
    match s.agenda with
    | .take (.powerOn inp) :: rest => exec (.powerOn inp) { s with agenda := rest }
    | _ => .fault .noPower
  else
    match s.agenda with
    | m :: rest => moveStep m { s with agenda := rest }
    | [] => moveStep s.nextMove s

/-- The agent that runs a placed word: a system word that only a cellarer core executes runs on cellarer core 0
(Table 18-13), every other on slot 0 of core 0. -/
def probeAgent (w : Nat) : Agent :=
  if bits w 31 26 = 0x30 ∧ 2 ≤ bits w 25 20 then .cel 0 else .slot 0 0

/-- The context of an agent that fetches from a place and has just been admitted. -/
def probeCtx (c : Ctx) (pc : Addr) : Ctx :=
  { c with
    ctl := { Control.reset .running with pc := pc }
    sp := { c.sp with pl := true } }

/-- `s` with an instruction stored where `step` fetches its next one: in device memory, on an agent that runs there
(log entry 32). -/
def State.withFetchWord (s : State) (_nbits w : Nat) : State :=
  let word := BitVec.ofNat 32 w
  match probeAgent w with
  | .slot core n =>
    let s := { s with
      mem := s.mem.writeL 0x400000 (wordBytes word)
      poison := s.poison.filter (· ≠ 0x400000 / 64)
      groups := s.groups.put 1 ⟨0, 0, 1, 0, 0, [], [0], 1, [core], [], [], none, .run, 0, 0, 0, 0, 0, false, 0, none, [], []⟩ }
    let s := s.onCore core fun k =>
      { k with binding := some ⟨1, 0, 0, 0, 1, 1, 1, 1, false, false, true⟩, lastSlot := 7 }
    let s := s.onCluster (clusterOf core) fun c =>
      { c with tlb := [⟨toWord (0x400000 + 1), toWord (2 ^ 63 + 2 ^ 60 + 2 ^ 58 + 2 ^ 57 + 0x400000 + 2 ^ 13), 0, false⟩] }
    { s.onCtx (.slot core n) fun c => probeCtx c 0x400000 with
      cur := .slot core n
      agenda := [.issue (.slot core n)] }
  | a =>
    let s := { s with
      mem := s.mem.writeL 0x400000 (wordBytes word)
      poison := s.poison.filter (· ≠ 0x400000 / 64) }
    { s.onCtx a fun c => probeCtx c 0x400000 with cur := a, agenda := [.issue a] }

end Sys2Proof.Machine
end

