-- ==== Sys2Proof/Certificates/Slice0/Obligations.lean ====
section
/-! DEFINITION. The statements about the model, for the provers, and the words they are said in. -/

namespace Sys2Proof.Claims

open Sys2Proof.Machine

/-! ### The words of the statements -/

/-- The issuing agent is RUNNING, and no load that keeps its slot has still to land: such a load holds the instructions behind it
until it can no longer trap (R110, R174; log entry 18, the model's choice of when). -/
def Running (s : State) : Prop :=
  s.me.ctl.status = .running ∧ s.me.owed = false

/-- The issuing agent goes on (`Running`), and the registers named are full and not poisoned. -/
def Ready (s : State) (rs : List RegName) : Prop :=
  Running s ∧ ∀ r ∈ rs, s.me.isEmpty r = false ∧ s.me.isPoisoned r = false

/-- The word stands neither in a repeat frame nor in a delay slot. -/
def Straight (s : State) : Prop :=
  s.me.ctl.frame = none ∧ s.me.ctl.redirect = none

/-- The word stands outside repeat frames. -/
def NoFrame (s : State) : Prop :=
  s.me.ctl.frame = none

/-- As `Ready`, outside repeat frames. -/
def Alone (s : State) (rs : List RegName) : Prop :=
  Ready s rs ∧ NoFrame s

/-- Beside the issuing context, which becomes `c`, nothing is changed: no other context, no register of any unit, and no byte
of any memory (`nextId` is a counter of the model's own, for the numbers of entries). -/
def OnlyMine (s t : State) (c : Ctx) : Prop :=
  t.ctx s.cur = c ∧ (∀ b, b ≠ s.cur → t.ctx b = s.ctx b) ∧ { t with ctxs := s.ctxs, nextId := s.nextId } = s
    ∧ ∀ p, t.readLoc p = s.readLoc p

/-- Beside the X registers and the flow of control, a context is as it was; no register has become empty. -/
def SameButX (c c' : Ctx) : Prop :=
  { c'.regs with x := c.regs.x, xEmpty := c.regs.xEmpty } = c.regs ∧ { c' with regs := c.regs, ctl := c.ctl } = c
    ∧ ∀ r, c'.isEmpty r = c.isEmpty r

/-- X[d] := v, with X0 discarding the write, and the flow of control `k`; nothing else is changed. -/
def WroteXAt (s t : State) (k : Control) (d : BitVec 5) (v : Word) : Prop :=
  ∃ c, OnlyMine s t c ∧ SameButX s.me c ∧ c.ctl = k ∧ ∀ n, c.x n = if n = d ∧ d ≠ 0 then v else s.me.x n

/-- X[d] := v and the step past the instruction; nothing else is changed. -/
def WroteX (s t : State) (d : BitVec 5) (v : Word) : Prop :=
  WroteXAt s t s.me.ctl.advance d v

/-- The step past the instruction, and nothing else. -/
def Passed (s t : State) : Prop :=
  OnlyMine s t { s.me with ctl := s.me.ctl.advance }

/-- The flow of control after a taken branch or jump at A: A + 4 is next, and after the second delay slot the target. -/
def goesTo (k : Control) (target : Addr) : Control :=
  { k with pc := k.pc + 4, redirect := some ⟨target, 2⟩, hold := none, refusal := none, stallOn := none }

/-- The issuing agent is slot `n` of `core`, which runs a role of a group. -/
def OnCore (s : State) (core n : Nat) (b : Binding) : Prop :=
  s.cur = .slot core n ∧ (s.core core).binding = some b ∧ s.coreOf? b.launch b.role = some core

/-- The record of a trap that slot `n` of `core` takes (Table 18-10), from its trap registers. -/
def recordOf (s : State) (core n : Nat) (r : TrapRegs) : FaultRec :=
  ⟨toWord (r.seq.toNat * 2 ^ 48 + n * 2 ^ 16 + hwidOf core), toWord (r.cause.toNat % 2 ^ 9), r.faddr, r.epc, r.btgt, r.prog, r.frame,
    match (s.core core).binding with
    | some b => toWord (b.launch * 2 ^ 32 + b.role)
    | none => 0⟩

/-- Whether a trap ends the frame in flight: an ILLEGAL whose word is of a function that R74 allocates does (R83; log entry 105, the
model's reading). -/
def endsFrame (cause : Nat) (faddr : Word) : Bool :=
  decide (cause = 0x01) && fnAllocated (faddr.setWidth 32)

/-- The trap registers that a trap leaves (R348), with `prog` in C.PROG.  C.FRAME tells of the frame in flight; that it tells of none
where the trap ends the frame is the model's reading (R83, R84; log entry 105). -/
def trapRegs (c : Ctx) (pl : Bool) (cause : Nat) (faddr prog : Word) : TrapRegs :=
  { c.trap with
    cause := toWord (b2n pl * 256 + cause)
    faddr := faddr
    epc := c.ctl.pc.setWidth 64
    btgt := btgtOf c.ctl.redirect
    frame := if endsFrame cause faddr then 0 else frameWord c.ctl.frame
    prog := prog
    seq := c.trap.seq + 1 }

/-- C.PROG after a trap of the slot's word: 0, but a word of major VMEM leaves it (R156, R348). -/
def progOf (c : Ctx) : Word :=
  if c.ctl.iword.extractLsb' 26 6 = 0x24 then c.trap.prog else 0

/-- The slot has taken a trap (R348): its trap registers tell of it, it is PARKED with everything else as it was, its record
waits at its cluster as one of this cycle, and a tape that it decanted is PAUSED; nothing else is changed. -/
def ParkedSlot (s t : State) (core n cause : Nat) (faddr prog : Word) : Prop :=
  let r := trapRegs s.me s.me.sp.pl cause faddr prog
  (t.ctx s.cur).trap = r ∧ (t.ctx s.cur).ctl.status = .parked ∧ { t.ctx s.cur with trap := s.me.trap, ctl := s.me.ctl } = s.me
    ∧ (∀ b, b ≠ s.cur → t.ctx b = s.ctx b) ∧ { t with ctxs := s.ctxs, clusters := s.clusters } = s
    ∧ (∀ k, k ≠ clusterOf core → t.cluster k = s.cluster k)
    ∧ t.cluster (clusterOf core)
        = { (s.cluster (clusterOf core)).pauseTape s.cur with
            pending := (s.cluster (clusterOf core)).pending ++ [⟨recordOf s core n r, s.now, core, false⟩] }

/-- The cellarer core or TSC has taken a trap (R359): it goes on at C.KTVEC at SUPERVISOR, or stops where NEST stands.  That a repeat
frame which the trap interrupts is dropped is the model's choice (log entry 125). -/
def TrappedServicer (s t : State) (cause : Nat) (faddr : Word) : Prop :=
  if s.me.sp.kstat.getLsbD 0 ∧ s.me.sp.kstat.getLsbD 2 then
    OnlyMine s t { s.me with
      ctl := { s.me.ctl with status := .stopped, frame := if endsFrame cause faddr then none else s.me.ctl.frame } }
  else
    ∃ c, OnlyMine s t c ∧ c.regs = s.me.regs ∧ c.sp = { s.me.sp with kstat := kstatEntry s.me.sp.kstat }
      ∧ c.trap = trapRegs s.me (s.me.supervisor s.cur) cause faddr 0
      ∧ c.ctl = { s.me.ctl with
          pc := BitVec.ofNat 56 (s.me.sp.ktvec.toNat / 4 % 2 ^ 54 * 4), redirect := none, frame := none, hold := none, refusal := none,
          stallOn := none, awaits := none }

/-- The agent has taken a trap that is no EMPTY, with `prog` in a slot's C.PROG (R348, R359). -/
def TrappedWith (s t : State) (cause : Nat) (faddr prog : Word) : Prop :=
  match s.cur with
  | .slot core n => ParkedSlot s t core n cause faddr prog
  | _ => TrappedServicer s t cause faddr

/-- The agent's instruction has taken a trap that is no EMPTY (R348, R359). -/
def Trapped (s t : State) (cause : Nat) (faddr : Word) : Prop :=
  TrappedWith s t cause faddr (progOf s.me)

/-- V[d] := v and the step past the instruction; nothing else is changed. -/
def WroteV (s t : State) (d : BitVec 5) (v : VReg) : Prop :=
  ∃ c, OnlyMine s t c ∧ { c.regs with v := s.me.regs.v, vEmpty := s.me.regs.vEmpty } = s.me.regs
    ∧ { c with regs := s.me.regs, ctl := s.me.ctl } = s.me ∧ (∀ r, c.isEmpty r = s.me.isEmpty r)
    ∧ c.ctl = s.me.ctl.advance ∧ ∀ n, c.v n = if n = d then v else s.me.v n

/-- One entry, made from its number, has entered the slot's access queue; the slot has stepped past the instruction, and
nothing else is changed. -/
def Posted (s t : State) (e : Nat → Entry) : Prop :=
  OnlyMine s t { s.me with queue := s.me.queue ++ [e s.nextId], ctl := s.me.ctl.advance }

/-- An entry and the load record that collects its answer for register `r` have been made, and `r` is empty (R54, R169); `so` says
that the load reads an SO page. -/
def awaiting (s : State) (r : RegName) (dst : LoadDst) (nib : Option Bool) (so : Bool) (e : Nat → Nat → Entry) : Ctx :=
  ({ s.me with
      queue := s.me.queue ++ [e s.nextId (s.nextId + 1)]
      loads := s.me.loads ++ [⟨s.nextId, dst, [(s.nextId + 1, none)], nib, none, so, none, none⟩] : Ctx }.makeEmpty r).advance

/-- An entry and the load record of a load that keeps its slot have been made, and its register is full as it was (R110, R174); the
record holds the control with which the load issued, at which it traps (log entry 18). -/
def keeping (s : State) (dst : LoadDst) (nib : Option Bool) (e : Nat → Nat → Entry) : Ctx :=
  { s.me with
    queue := s.me.queue ++ [e s.nextId (s.nextId + 1)]
    loads := s.me.loads ++ [⟨s.nextId, dst, [(s.nextId + 1, none)], nib, none, false, some s.me.ctl, none⟩]
    ctl := s.me.ctl.advance }

/-- Every byte of an own-slice access lies in a footprint box of the activation (R31). -/
def Within (s : State) (off n : Nat) : Prop :=
  ∀ o, off ≤ o → o < off + n → ∃ x ∈ s.boxes s.cur, x.1 ≤ o ∧ o < x.2

/-- No byte of a run of a core's slice is poisoned (R174). -/
def Clean (s : State) (core off n : Nat) : Prop :=
  ∀ o, off ≤ o → o < off + n → o / 8 ∉ (s.core core).poisonWords

/-- Beside contexts and bytes of memory, with their full/empty, poison and dirty marks, nothing is changed. -/
def SameButMemory (s t : State) : Prop :=
  { t with ctxs := s.ctxs, cores := s.cores, mem := s.mem, poison := s.poison, peers := s.peers, peerPoison := s.peerPoison,
           nextId := s.nextId } = s
    ∧ ∀ n, { t.core n with
        slice := (s.core n).slice, emptyWords := (s.core n).emptyWords, poisonWords := (s.core n).poisonWords,
        dirty := (s.core n).dirty } = s.core n

/-- Every memory has its canonical form (an invariant: every step keeps it). -/
def Canonical (s : State) : Prop :=
  s.mem.wf = true ∧ (∀ n, (s.core n).slice.wf = true) ∧ ∀ d, (s.peer d).wf = true

/-- The bytes at a place are `bs`, the words of a slice that they touch are full, and every other byte and full/empty bit of
every memory is as it was. -/
def StoredAt (s t : State) (p : Loc) (bs : List Byte) : Prop :=
  (∀ c o, (t.core c).slice.read o = match p with
    | .slice l r off => if s.coreOf? l r = some c ∧ off ≤ o ∧ o < off + bs.length then bs.getD (o - off) 0
        else (s.core c).slice.read o
    | _ => (s.core c).slice.read o) ∧
  (∀ c o, (t.core c).isFull o = match p with
    | .slice l r off => (s.core c).isFull o || (s.coreOf? l r == some c && decide (0 < bs.length) && decide (off / 8 ≤ o / 8)
        && decide (o / 8 ≤ (off + bs.length - 1) / 8))
    | _ => (s.core c).isFull o) ∧
  (∀ o, t.mem.read o = match p with
    | .mem pa => if pa ≤ o ∧ o < pa + bs.length then bs.getD (o - pa) 0 else s.mem.read o
    | _ => s.mem.read o) ∧
  ∀ d o, (t.peer d).read o = match p with
    | .peer d' pa => if d = d' ∧ pa ≤ o ∧ o < pa + bs.length then bs.getD (o - pa) 0 else (s.peer d).read o
    | _ => (s.peer d).read o

/-- The issuing context becomes `c` and every other context stands. -/
def MineIs (s t : State) (c : Ctx) : Prop :=
  t.ctx s.cur = c ∧ ∀ b, b ≠ s.cur → t.ctx b = s.ctx b

/-- As `WroteX` says of the contexts, whatever happens to memory. -/
def WroteXBeside (s t : State) (d : BitVec 5) (v : Word) : Prop :=
  ∃ c, MineIs s t c ∧ SameButX s.me c ∧ c.ctl = s.me.ctl.advance ∧ ∀ n, c.x n = if n = d ∧ d ≠ 0 then v else s.me.x n

/-- The new value of a word of an atomic (Table 7-6), on bit vectors of the operand's width. -/
def rmw {w : Nat} (op : AtomOp) (old y cmp : BitVec w) : BitVec w :=
  match op with
  | .swap => y
  | .cas => if old = cmp then y else old
  | .add => old + y
  | .and => old &&& y
  | .or => old ||| y
  | .xor => old ^^^ y
  | .min => if old.toInt ≤ y.toInt then old else y
  | .max => if old.toInt ≤ y.toInt then y else old
  | .minu => if old.toNat ≤ y.toNat then old else y
  | .maxu => if old.toNat ≤ y.toNat then y else old
  | .fadd => BitVec.ofNat w (atomFadd (decide (w = 64)) old.toNat y.toNat)
  | .minp =>
    let key := fun (v : BitVec w) => (v.extractLsb' 32 32).toInt
    let load := fun (v : BitVec w) => (v.extractLsb' 0 32).toNat
    if key y < key old ∨ (key y = key old ∧ load y < load old) then y else old

/-- The width of an operand whose field Z is given: 32 or 64 bits (R177). -/
def zWidth (z : BitVec 1) : Nat := if z = 1 then 64 else 32

/-- The old word of `w` bits at an address of a memory, and its new bytes under an atomic. -/
def newBytes (m : Memory) (at_ : Nat) (op : AtomOp) (w : Nat) (y cmp : Word) : Word × List Byte :=
  let old : BitVec w := BitVec.ofNat w (fromBytes (m.readN at_ (w / 8)))
  (old.setWidth 64, toBytes (w / 8) (rmw op old (y.setWidth w) (cmp.setWidth w)).toNat)

/-- A cellar address names bytes of a role of the group, whole and aligned (R21, R179). -/
def CellarWord (b : Binding) (addr n : Nat) : Prop :=
  addr < 2 ^ 30 ∧ caRole addr < b.nroles ∧ caOff addr + n ≤ 0x3FF00 ∧ addr % n = 0

/-- The returning atomics of an operand size, with their operations. -/
def atomics (d a b : BitVec 5) (k m c z : BitVec 1) : List (Instr × AtomOp) :=
  [(.aswap d a b k m c z, .swap), (.acas d a b k m c z, .cas), (.aadd d a b k m c z, .add), (.aand d a b k m c z, .and),
    (.aor d a b k m c z, .or), (.axor d a b k m c z, .xor), (.amin d a b k m c z, .min), (.amax d a b k m c z, .max),
    (.aminu d a b k m c z, .minu), (.amaxu d a b k m c z, .maxu), (.afadd d a b k m c z, .fadd)]
    ++ if z = 1 then [(.aminp d a b k m c, .minp)] else []

/-- The non-returning reductions of an operand size, with their operations. -/
def reductions (a b : BitVec 5) (k m c z : BitVec 1) : List (Instr × AtomOp) :=
  [(.redadd a b k m c z, .add), (.redand a b k m c z, .and), (.redor a b k m c z, .or), (.redxor a b k m c z, .xor),
    (.redmin a b k m c z, .min), (.redmax a b k m c z, .max), (.redminu a b k m c z, .minu),
    (.redmaxu a b k m c z, .maxu), (.redfadd a b k m c z, .fadd)]
    ++ if z = 1 then [(.redminp a b k m c, .minp)] else []

/-- Beside the issuing context, which becomes `c`, an access through a translation has changed micro-TLBs, and counts and
waiting misses of TLBs, alone (R365, R374). -/
def Translated (s t : State) (c : Ctx) : Prop :=
  MineIs s t c ∧ { t with ctxs := s.ctxs, cores := s.cores, clusters := s.clusters, nextId := s.nextId } = s
    ∧ (∀ n, { t.core n with utlb := (s.core n).utlb } = s.core n)
    ∧ (∀ k, { t.cluster k with tlb := (s.cluster k).tlb, missWaits := (s.cluster k).missWaits } = s.cluster k)
    ∧ ∀ p, t.readLoc p = s.readLoc p

/-- An access of `n` bytes at `va` stays in one page, which a translation of the slot's core gives, and no access to an SO page
keeps it waiting (R173, R274). -/
def OnePage (s : State) (core va n : Nat) (kind : AccessKind) (loc : Loc) (page : PageKind) (ent : Word × Word) : Prop :=
  va < 2 ^ 56 ∧ 0 < n ∧ va / 2 ^ 16 = (va + n - 1) / 2 ^ 16
    ∧ s.xlate s.cur (s.asidOf core) va kind = .hit loc page ent ∧ (page = .so → s.soPending s.cur = false) ∧ page ≠ .cellar

/-- The strongest kind of pages: SO, then RC, then UN (R25). -/
def strongestOf (ps : List Part) : PageKind :=
  if ps.any fun p => p.page == .so then .so
  else if ps.any fun p => p.page == .rc then .rc
  else if ps.any fun p => p.page == .un then .un
  else .cellar

/-- An access of `n` bytes at `va` straddles two pages, which translate: its parts are the two runs of bytes, or the one run that two
neighbouring places of one translation make; a .V access is ordered by the stronger of its pages (R25, R173, R274). -/
def Straddles (s : State) (core va n : Nat) (kind : AccessKind) (vec : Bool) (ps : List Part) : Prop :=
  let m := 2 ^ 16 - va % 2 ^ 16
  ∃ p q, s.xlate s.cur (s.asidOf core) va kind = .hit p.loc p.page p.ent
    ∧ s.xlate s.cur (s.asidOf core) (va + m) kind = .hit q.loc q.page q.ent
    ∧ p.va = va ∧ p.n = m ∧ q.va = va + m ∧ q.n = n - m ∧ va < 2 ^ 56 ∧ m < n ∧ n ≤ 64 ∧ p.page ≠ .cellar ∧ q.page ≠ .cellar
    ∧ (p.page = .so ∨ q.page = .so → s.soPending s.cur = false)
    ∧ ps = (let parts := if p.ent = q.ent ∧ p.loc.add m = q.loc then [{ p with n := n }] else [p, q]
        if vec then parts.map fun r => { r with page := strongestOf parts } else parts)

/-- Lane `i` of `w` bits of a vector register (R139). -/
def lane (w : Nat) (v : VReg) (i : Nat) : BitVec w := v.extractLsb' (w * i) w

/-- Beside the issuing context, which becomes `c`, an instruction of the vector engine has taken its place in the engine's queue,
and nothing else is changed (R12, R141). -/
def Entered (s t : State) (core n : Nat) (c : Ctx) : Prop :=
  MineIs s t c ∧ { t with ctxs := s.ctxs, cores := s.cores } = s
    ∧ (∀ m, t.core m = if m = core then { s.core core with vecQueue := (s.core core).vecQueue ++ [n] } else s.core m)
    ∧ ∀ p, t.readLoc p = s.readLoc p

/-- The vector engine's queue of the slot's core has room (R12). -/
def VecRoom (s : State) (core n : Nat) : Prop :=
  s.cur = .slot core n ∧ (s.core core).vecQueue.length < 2

/-- V[d] := v on the vector engine; nothing else is changed. -/
def VectorWroteV (s t : State) (core n : Nat) (d : BitVec 5) (v : VReg) : Prop :=
  ∃ c, Entered s t core n c ∧ { c.regs with v := s.me.regs.v, vEmpty := s.me.regs.vEmpty } = s.me.regs
    ∧ { c with regs := s.me.regs, ctl := s.me.ctl } = s.me ∧ (∀ r, c.isEmpty r = s.me.isEmpty r)
    ∧ c.ctl = s.me.ctl.advance ∧ ∀ m, c.v m = if m = d then v else s.me.v m

/-- X[d] := v on the vector engine; nothing else is changed. -/
def VectorWroteX (s t : State) (core n : Nat) (d : BitVec 5) (v : Word) : Prop :=
  ∃ c, Entered s t core n c ∧ SameButX s.me c ∧ c.ctl = s.me.ctl.advance ∧ ∀ m, c.x m = if m = d ∧ d ≠ 0 then v else s.me.x m

/-- P[d] := v on the vector engine, with P0 discarding the write; nothing else is changed. -/
def VectorWroteP (s t : State) (core n : Nat) (d : BitVec 3) (v : Word) : Prop :=
  ∃ c, Entered s t core n c ∧ { c.regs with p := s.me.regs.p } = s.me.regs ∧ { c with regs := s.me.regs, ctl := s.me.ctl } = s.me
    ∧ c.ctl = s.me.ctl.advance ∧ ∀ m, c.p m = if m = d ∧ d ≠ 0 then v else s.me.p m

/-- Each active lane of `v` holds `f`'s result, and each other lane what the register `old` held (R142). -/
def Lanes (w : Nat) (p : Word) (old v : VReg) (f : Nat → BitVec w) : Prop :=
  ∀ i, i < 512 / w → lane w v i = if active p w i then f i else lane w old i

/-- A predicate that holds a relation: in each byte lane, whether its element is active and related (R145). -/
def Related (w : Nat) (p v : Word) (rel : Nat → Bool) : Prop :=
  ∀ j, j < 64 → v.getLsbD j = (active p w (j / (w / 8)) && rel (j / (w / 8)))

/-- A signed result saturated to `w` bits (Table 6-3). -/
def saturated (w : Nat) (n : Int) : BitVec w :=
  BitVec.ofInt w (if n < -2 ^ (w - 1) then -2 ^ (w - 1) else if 2 ^ (w - 1) ≤ n then 2 ^ (w - 1) - 1 else n)

/-- The gather and the scatter of a space. -/
def gatherOf (sp : VSpace) (d a b : BitVec 5) (p : BitVec 3) (e : BitVec 2) : Instr :=
  match sp with
  | .own => .vgatherS d a b p e
  | .cellar => .vgatherC d a b p e
  | .global => .vgatherG d a b p e

/-- The scatter of a space. -/
def scatterOf (sp : VSpace) (d a b : BitVec 5) (p : BitVec 3) (e : BitVec 2) : Instr :=
  match sp with
  | .own => .vscatterS d a b p e
  | .cellar => .vscatterC d a b p e
  | .global => .vscatterG d a b p e

/-- V[d] marked empty by a gather that waits for another home (R158). -/
def markedV (d : BitVec 5) (empties : Bool) (c : Ctx) : Ctx :=
  if empties then c.makeEmpty (.v d) else c

/-- A change of the issuing context alone, through translations for global memory. -/
def Reached (sp : VSpace) (s t : State) (c : Ctx) : Prop :=
  match sp with
  | .global => Translated s t c
  | _ => OnlyMine s t c

/-- An instruction of the vector engine that uses tile `d`: beside the issuing context and the engine's queue, tile `d` alone
may be changed, and it is `u` after it. -/
def TileBecame (s t : State) (core n : Nat) (d : BitVec 3) (c : Ctx) (u : Tile) : Prop :=
  MineIs s t c ∧ { t with ctxs := s.ctxs, cores := s.cores } = s ∧ (∀ m, m ≠ core → t.core m = s.core m)
    ∧ { t.core core with vecQueue := (s.core core).vecQueue, tiles := (s.core core).tiles } = s.core core
    ∧ (t.core core).vecQueue = (s.core core).vecQueue ++ [n]
    ∧ ∀ k, k < 8 → (t.core core).tile k = if k = d.toNat then u else (s.core core).tile k

/-- The tile is RESIDENT for the slot with a shape (R160). -/
def Resident (s : State) (d : BitVec 3) (w : Word) : Prop :=
  s.me.view d = ⟨1, w⟩

/-- 1 or 0. -/
def flag (p : Bool) : Word := if p then 1 else 0

/-- The 32-bit value of a .W form, sign-extended. -/
def w32 (x : BitVec 32) : Word := x.signExtend 64

/-- The low 32 bits. -/
def lo32 (x : Word) : BitVec 32 := x.setWidth 32

/-- Byte `i` of a word. -/
def byteAt (x : Word) (i : Nat) : Word := x >>> (8 * i) &&& 0xFF

end Sys2Proof.Claims

open Sys2Proof Sys2Proof.Machine Sys2Proof.Claims

/-! ### Scalar instructions -/

/-- R111: each OPA word with two sources writes the function of Table 5-4 to X[d] and changes nothing else; it may stand in a
delay slot and in a repeat frame.
R113: the multiply and divide words, with the quotient of a zero divisor all ones and its remainder the dividend. -/
def Sys2Proof.Claims.ArithmeticWrites : Prop :=
  (∀ (s : State) (d a b : BitVec 5) (k m : BitVec 1), Ready s [.x a, .x b, .x d] →
      let x := s.me.x a
      let y := s.me.x b
      ∀ p ∈ ([(.add d a b k m, x + y), (.sub d a b k m, x - y),
          (.addW d a b k m, w32 (lo32 x + lo32 y)), (.subW d a b k m, w32 (lo32 x - lo32 y)),
          (.addsl1 d a b k m, x + 2 * y), (.addsl2 d a b k m, x + 4 * y), (.addsl3 d a b k m, x + 8 * y),
          (.mkca d a b k m, BitVec.ofNat 64 (x.toNat % 2 ^ 12 * 2 ^ 18 + y.toNat % 2 ^ 18)),
          (.and d a b k m, x &&& y), (.or d a b k m, x ||| y), (.xor d a b k m, x ^^^ y),
          (.andn d a b k m, x &&& ~~~y), (.orn d a b k m, x ||| ~~~y), (.xnor d a b k m, ~~~(x ^^^ y)),
          (.sll d a b k m, x <<< (y.toNat % 64)), (.srl d a b k m, x >>> (y.toNat % 64)),
          (.sra d a b k m, x.sshiftRight (y.toNat % 64)), (.ror d a b k m, x.rotateRight (y.toNat % 64)),
          (.sllW d a b k m, w32 (lo32 x <<< (y.toNat % 32))), (.srlW d a b k m, w32 (lo32 x >>> (y.toNat % 32))),
          (.sraW d a b k m, w32 ((lo32 x).sshiftRight (y.toNat % 32))),
          (.seq d a b k m, flag (x == y)), (.sne d a b k m, flag (x != y)),
          (.slt d a b k m, flag (decide (x.toInt < y.toInt))), (.sltu d a b k m, flag (decide (x.toNat < y.toNat))),
          (.sge d a b k m, flag (decide (y.toInt ≤ x.toInt))), (.sgeu d a b k m, flag (decide (y.toNat ≤ x.toNat))),
          (.min d a b k m, if x.toInt ≤ y.toInt then x else y), (.max d a b k m, if x.toInt ≤ y.toInt then y else x),
          (.minu d a b k m, if x.toNat ≤ y.toNat then x else y), (.maxu d a b k m, if x.toNat ≤ y.toNat then y else x)]
          : List (Instr × Word)),
        ∃ t, exec p.1 s = .next t ∧ WroteX s t d p.2) ∧
  (∀ (s : State) (d a b : BitVec 5) (k m : BitVec 1), Ready s [.x a, .x b, .x d] →
      let x := s.me.x a
      let y := s.me.x b
      ∀ p ∈ ([(.mul d a b k m, BitVec.ofInt 64 (x.toInt * y.toInt)),
          (.mulh d a b k m, BitVec.ofInt 64 (x.toInt * y.toInt / 2 ^ 64)),
          (.mulhu d a b k m, BitVec.ofNat 64 (x.toNat * y.toNat / 2 ^ 64)),
          (.mulW d a b k m, w32 (lo32 x * lo32 y)),
          (.div d a b k m, if y = 0 then BitVec.allOnes 64 else BitVec.ofInt 64 (x.toInt.tdiv y.toInt)),
          (.divu d a b k m, if y = 0 then BitVec.allOnes 64 else x / y),
          (.rem d a b k m, if y = 0 then x else BitVec.ofInt 64 (x.toInt.tmod y.toInt)),
          (.remu d a b k m, if y = 0 then x else x % y)] : List (Instr × Word)),
        ∃ t, exec p.1 s = .next t ∧ WroteX s t d p.2)

/-- R114: the words with the one source X[a].  R75: HINT is a NOP whatever its bits and registers, but ILLEGAL in a repeat frame.
R111: CMOVZ and CMOVNZ write X[a] to X[d] when X[b] is zero, or is not; otherwise X[d] is left. -/
def Sys2Proof.Claims.ImmediatesAndMovesWrite : Prop :=
  (∀ (s : State) (d a : BitVec 5) (k : BitVec 1) (i : BitVec 15) (n : BitVec 6), Ready s [.x a, .x d] →
      let x := s.me.x a
      ∀ p ∈ ([(.addi d a k i, x + i.signExtend 64), (.andi d a k i, x &&& i.setWidth 64),
          (.ori d a k i, x ||| i.setWidth 64), (.xori d a k i, x ^^^ i.setWidth 64),
          (.slti d a k i, flag (decide (x.toInt < i.toInt))),
          (.sltiu d a k i, flag (decide (x.toNat < (i.signExtend 64).toNat))),
          (.slli d a k n, x <<< n.toNat), (.srli d a k n, x >>> n.toNat), (.srai d a k n, x.sshiftRight n.toNat),
          (.rori d a k n, x.rotateRight n.toNat), (.cati d a k i, x <<< 15 ||| i.setWidth 64),
          (.clz d a k, x.clz), (.ctz d a k, x.reverse.clz), (.popc d a k, x.cpop), (.brev d a k, x.reverse),
          (.bswap d a k, byteAt x 0 <<< 56 ||| byteAt x 1 <<< 48 ||| byteAt x 2 <<< 40 ||| byteAt x 3 <<< 32
            ||| byteAt x 4 <<< 24 ||| byteAt x 5 <<< 16 ||| byteAt x 6 <<< 8 ||| byteAt x 7)] : List (Instr × Word)),
        ∃ t, exec p.1 s = .next t ∧ WroteX s t d p.2) ∧
  (∀ (s : State) (d a b : BitVec 5) (k m : BitVec 1), Ready s [.x a, .x b, .x d] →
      (∃ t, exec (.cmovz d a b k m) s = .next t ∧ if s.me.x b = 0 then WroteX s t d (s.me.x a) else Passed s t) ∧
      ∃ t, exec (.cmovnz d a b k m) s = .next t ∧ if s.me.x b = 0 then Passed s t else WroteX s t d (s.me.x a)) ∧
  ∀ (s : State) (i : BitVec 26), Running s →
    (NoFrame s → ∃ t, exec (.hint i) s = .next t ∧ Passed s t) ∧
    (¬ NoFrame s → ∃ t, exec (.hint i) s = .next t ∧ Trapped s t 0x01 (s.me.ctl.iword.setWidth 64))

/-- R111 and R113 (`ArithmeticWrites`): the words with two sources.
R75 and R114 (`ImmediatesAndMovesWrite`): the words with one source, the conditional moves, and HINT. -/
def Obligations.ScalarResults : Prop :=
  ArithmeticWrites ∧ ImmediatesAndMovesWrite

/-! ### Branches, jumps, repeat frames -/

/-- R79 and R116: a branch at A goes on at A + 4, and after two delay slots at its target A + 4 × disp when its condition
holds, at A + 12 otherwise; it writes nothing.  The tests of a full/empty bit and of a P register block on nothing. -/
def Sys2Proof.Claims.BranchesGo : Prop :=
  ∀ (s : State) (a : BitVec 5) (p : BitVec 3) (i : BitVec 17), Running s → Straight s →
    let x := s.me.x a
    let A := s.me.ctl.pc
    let goes := fun (i : Instr) (cond : Bool) (disp : Addr) =>
      ∃ t, exec i s = .next t
        ∧ OnlyMine s t { s.me with ctl := goesTo s.me.ctl (if cond then A + 4 * disp else A + 12) }
    (∀ b ∈ ([(.b i, true), (.bFull a i, !s.me.isEmpty (.x a)), (.bEmpty a i, s.me.isEmpty (.x a)),
        (.bPany p i, s.me.p p != 0), (.bPnone p i, s.me.p p == 0)] : List (Instr × Bool)),
      goes b.1 b.2 (i.signExtend 56)) ∧
    (Ready s [.x a] → ∀ b ∈ ([(.bEqz a i, x == 0), (.bNez a i, x != 0), (.bLtz a i, decide (x.toInt < 0)),
        (.bGez a i, decide (0 ≤ x.toInt)), (.bGtz a i, decide (0 < x.toInt)), (.bLez a i, decide (x.toInt ≤ 0)),
        (.bBc a i, !x.getLsbD 0), (.bBs a i, x.getLsbD 0)] : List (Instr × Bool)),
      goes b.1 b.2 (i.signExtend 56)) ∧
    ∀ i : BitVec 26, goes (.j i) true (i.signExtend 56)

/-- R117 and R118: the linking jumps write A + 12 to their register, and a register jump goes to X[a] as it stood before, its
bits 1:0 cleared, modulo 2^56. -/
def Sys2Proof.Claims.JumpsGo : Prop :=
  ∀ (s : State) (d a : BitVec 5) (k : BitVec 1) (i : BitVec 26), Running s → Straight s →
    let A := s.me.ctl.pc
    let link : Word := (A + 12).setWidth 64
    let target : Addr := BitVec.ofNat 56 ((s.me.x a).toNat / 4 * 4)
    (Ready s [.x 31] → ∃ t, exec (.jl i) s = .next t ∧ WroteXAt s t (goesTo s.me.ctl (A + 4 * i.signExtend 56)) 31 link) ∧
    (Ready s [.x a] → ∃ t, exec (.jr a k) s = .next t ∧ OnlyMine s t { s.me with ctl := goesTo s.me.ctl target }) ∧
    (Ready s [.x a, .x d] → ∃ t, exec (.jlr d a k) s = .next t ∧ WroteXAt s t (goesTo s.me.ctl target) d link)

/-- R79 and R116 (`BranchesGo`): the branches.
R117 and R118 (`JumpsGo`): the linking jumps and the register jumps. -/
def Obligations.BranchAndJumpResults : Prop :=
  BranchesGo ∧ JumpsGo

/-- R79: the words at A + 4 and A + 8 follow a taken branch at A, and then the word at its target.
R82 to R84: REPF starts a frame of N words and M passes.  Word i of pass j is fetched from A + 4 + 4 i, and after
N × M words the slot goes on behind the body; REPF is ILLEGAL in the EMPTY handler, in a delay slot and in a frame.
R82: in pass j a body word issues with its d field raised by j × SD, its a field by j × SA and, in the O and V forms, its
b field by j × SB, each modulo 32; the rest of the word stands. -/
def Obligations.DelaySlotsAndRepeatFrames : Prop :=
  (∀ (k : Control) (T : Addr), k.frame = none → k.redirect = none →
      let k1 := goesTo k T
      k1.pc = k.pc + 4 ∧ k1.advance.pc = k.pc + 8 ∧ k1.advance.redirect = some ⟨T, 1⟩
        ∧ k1.advance.advance.pc = T ∧ k1.advance.advance.redirect = none ∧ k.advance.pc = k.pc + 4) ∧
  (∀ (s : State) (n m : BitVec 4) (x y z : BitVec 2),
      let A := s.me.ctl.pc
      let N := n.toNat + 1
      let M := m.toNat + 1
      (Running s → Straight s → s.me.trap.uh = false →
        ∃ t, exec (.repf n m x y z) s = .next t ∧
          OnlyMine s t { s.me with
            ctl := { s.me.ctl.advance with frame := some ⟨A, N, M, x.toNat, y.toNat, z.toNat, 0, 0, []⟩ } } ∧
          (∀ q, q < N * M → ∃ k, Nat.repeat Control.advance q t.me.ctl = k ∧ k.pc = A + 4 + BitVec.ofNat 56 (4 * (q % N))
            ∧ k.frame = some ⟨A, N, M, x.toNat, y.toNat, z.toNat, q / N, q % N, []⟩) ∧
          ∃ k, Nat.repeat Control.advance (N * M) t.me.ctl = k ∧ k.pc = A + 4 + BitVec.ofNat 56 (4 * N) ∧ k.frame = none) ∧
      (Running s → s.me.trap.uh = true ∨ ¬ Straight s →
        ∃ t, exec (.repf n m x y z) s = .next t ∧ Trapped s t 0x01 (s.me.ctl.iword.setWidth 64))) ∧
  (∀ (f : Frame) (k : Control) (w : IWord), k.frame = some f →
      let i := k.issued w
      let step := fun (n : Nat) => BitVec.ofNat 5 (f.j * n)
      fld i 26 6 = fld w 26 6 ∧ fld i 21 5 = fld w 21 5 + step f.sd ∧ fld i 16 5 = fld w 16 5 + step f.sa
        ∧ fld i 11 5 = (if hasBField w then fld w 11 5 + step f.sb else fld w 11 5) ∧ fld i 0 11 = fld w 0 11)

/-! ### Control registers -/

/-- The control registers of bank 0 of slot `n` of a small core, with what each reads as (Tables 5-9 to 5-12).  C.CYCLE counts from
the core's release from reset, which the model puts at the later of its binding's base and the start of the small cores (log
entry 114). -/
def Sys2Proof.Claims.bankZero (s : State) (core n : Nat) (b : Binding) : List (BitVec 5 × Word) :=
  let c := s.me
  let start := match s.hostPort.coresOn with
    | some t => t
    | none => s.now
  [(0, c.trap.cause), (1, c.trap.faddr), (2, c.trap.epc), (3, c.trap.prog), (4, c.trap.btgt), (5, c.trap.utvec),
    (6, toWord (b2n c.trap.uh * 256 + c.sp.eprio % 8 * 16 + n % 8)),
    (7, toWord (b.nroles * 2 ^ 32 + b.srank * 2 ^ 16 + b.role)),
    (8, toWord (b.nstages * 2 ^ 32 + b.sroles * 2 ^ 16 + b.stage)), (9, c.sp.tcb), (10, c.sp.seed),
    (11, (s.core core).sched), (12, c.sp.fstat), (13, leaseWord (s.core core).lease s.now),
    (14, toWord (s.now - max (s.core core).cycleBase start))]

/-- R119 and Tables 5-9, 18-5: what a small core's control registers read as. -/
def Obligations.ControlRegisterReads : Prop :=
  ∀ (s : State) (core n : Nat) (b : Binding) (d : BitVec 5), OnCore s core n b → Alone s [.x d] →
    let c := s.me
    (∀ p ∈ bankZero s core n b, ∃ t, exec (.crr d p.1) s = .next t ∧ WroteX s t d p.2) ∧
    (c.sp.pl = true → ∀ p ∈ ([(0, toWord (hwidOf core)), (1, c.trap.frame), (2, c.trap.uepc), (3, c.trap.ubtgt),
        (4, c.trap.uframe), (5, 1)] : List (BitVec 5 × Word)),
      (∃ t, exec (.crrBank1 d p.1) s = .next t ∧ WroteX s t d p.2) ∧
      ∀ a k, Alone s [.x a] → (∃ t, exec (.crwBank1 a p.1 k) s = .next t ∧ Passed s t)
        ∧ ∃ t, exec (.crrwBank1 d a p.1 k) s = .next t ∧ WroteX s t d p.2) ∧
    (c.sp.pl = false → ∀ p, p < (6 : BitVec 5) → ∃ t, exec (.crrBank1 d p) s = .next t ∧ Trapped s t 0x02 0)

/-- A slot's context after a write of `v` to its control register `r` of bank 0 (R8, Table 5-9): C.UTVEC keeps its RO bits zero,
C.SEED takes all of `v`, C.FSTAT loses the bits that are ones in `v`, and a register that is RO throughout ignores the write. -/
def Sys2Proof.Claims.slotWritten (c : Ctx) (r : BitVec 5) (v : Word) : Ctx :=
  if r = 5 then { c with trap := { c.trap with utvec := v &&& 0x00FFFFFFFFFFFFFD } }
  else if r = 10 then { c with sp := { c.sp with seed := v } }
  else if r = 12 then { c with sp := { c.sp with fstat := c.sp.fstat &&& ~~~v &&& 0xF } }
  else c

/-- A servicer's context after a write of `v` at SUPERVISOR to control register `r` of a bank (R8, R345, Tables 18-1 to 18-5, 18-8):
C.KSTAT.PL is read only, and the bits that a layout reserves are zero. -/
def Sys2Proof.Claims.servicerWritten (c : Ctx) (bank1 : Bool) (r : BitVec 5) (v : Word) : Ctx :=
  match bank1, r.toNat with
  | false, 0 => { c with trap := { c.trap with cause := v &&& 0x1FF } }
  | false, 1 => { c with trap := { c.trap with faddr := v } }
  | false, 2 => { c with trap := { c.trap with epc := v &&& 0x00FFFFFFFFFFFFFC } }
  | false, 4 => { c with trap := { c.trap with btgt := v &&& 0x00FFFFFFFFFFFFFF } }
  | true, 6 => { c with sp := { c.sp with ktvec := v &&& 0x00FFFFFFFFFFFFFC } }
  | true, 7 => { c with sp := { c.sp with kstat := (v &&& 6) ||| (c.sp.kstat &&& 1) } }
  | true, 8 => { c with sp := { c.sp with kscr := v } }
  | true, 9 => { c with sp := { c.sp with fqw := c.sp.fqw.set 0 v } }
  | true, 10 => { c with sp := { c.sp with fqw := c.sp.fqw.set 1 v } }
  | true, 11 => { c with sp := { c.sp with fqw := c.sp.fqw.set 2 v } }
  | true, 12 => { c with sp := { c.sp with fqw := c.sp.fqw.set 3 v } }
  | true, 13 => { c with sp := { c.sp with fqw := c.sp.fqw.set 4 (v &&& 0xFFFF) } }
  | _, _ => c

/-- The control registers of a cellarer core, with what each reads as (R345, Table 18-5). -/
def Sys2Proof.Claims.servicerReads (s : State) (k : Nat) : List (Bool × BitVec 5 × Word) :=
  let c := s.me
  [(false, 0, c.trap.cause), (false, 1, c.trap.faddr), (false, 2, c.trap.epc), (false, 4, c.trap.btgt),
    (false, 14, toWord (s.now - c.sp.cycleBase)), (true, 0, toWord (2 ^ 15 + k)), (true, 6, c.sp.ktvec), (true, 7, c.sp.kstat),
    (true, 8, c.sp.kscr), (true, 9, c.sp.fqw[0]), (true, 10, c.sp.fqw[1]), (true, 11, c.sp.fqw[2]), (true, 12, c.sp.fqw[3]),
    (true, 13, c.sp.fqw[4])]

/-- X[d] := `v` in a context that is `c` otherwise, with the step past the instruction. -/
def Sys2Proof.Claims.WithX (k : Control) (c c' : Ctx) (d : BitVec 5) (v : Word) : Prop :=
  SameButX c c' ∧ c'.ctl = k.advance ∧ ∀ n, c'.x n = if n = d ∧ d ≠ 0 then v else c.x n

/-- R8, R119 and Table 5-9: CRW of a small core completes for every register of bank 0: it writes C.UTVEC, C.SEED and C.SCHED, clears
the bits of C.FSTAT that are ones in X[a], and leaves every other register; CRRW does the same and answers what stood there
before.  Nothing else is changed.
R344, R345 and Table 18-5: a cellarer core at SUPERVISOR reads and writes its own registers of both banks, in one step; at USER its
four trap registers are read only. -/
def Obligations.ControlRegisterWrites : Prop :=
  (∀ (s : State) (core n : Nat) (b : Binding) (a : BitVec 5) (k : BitVec 1), OnCore s core n b → Alone s [.x a] →
      let v := s.me.x a
      let others := fun (t : State) (r : BitVec 5) =>
        (∀ g, g ≠ s.cur → t.ctx g = s.ctx g) ∧ { t with ctxs := s.ctxs, cores := s.cores } = s
          ∧ (∀ m, m ≠ core ∨ r ≠ 11 → t.core m = s.core m) ∧ (r = 11 → (t.core core).sched = v &&& 0x701)
          ∧ { t.core core with
              sched := (s.core core).sched, ringSince := (s.core core).ringSince, ringAged := (s.core core).ringAged } = s.core core
      ∀ p ∈ bankZero s core n b,
        (∃ t, exec (.crw a p.1 k) s = .next t ∧ others t p.1
          ∧ t.ctx s.cur = { slotWritten s.me p.1 v with ctl := s.me.ctl.advance }) ∧
        ∀ d, Alone s [.x d] → ∃ t, exec (.crrw d a p.1 k) s = .next t ∧ others t p.1
          ∧ WithX s.me.ctl (slotWritten s.me p.1 v) (t.ctx s.cur) d p.2) ∧
  (∀ (s : State) (c : Nat) (d a : BitVec 5) (k : BitVec 1), s.cur = .cel c → Alone s [.x a, .x d] →
      let v := s.me.x a
      ∀ p ∈ servicerReads s c,
        let read := if p.1 then Instr.crrBank1 d p.2.1 else .crr d p.2.1
        let write := if p.1 then Instr.crwBank1 a p.2.1 k else .crw a p.2.1 k
        let swap := if p.1 then Instr.crrwBank1 d a p.2.1 k else .crrw d a p.2.1 k
        (s.me.sp.kstat.getLsbD 0 = true →
          (∃ t, exec read s = .next t ∧ WroteX s t d p.2.2) ∧
          (∃ t, exec write s = .next t ∧ OnlyMine s t { servicerWritten s.me p.1 p.2.1 v with ctl := s.me.ctl.advance }) ∧
          ∃ t c', exec swap s = .next t ∧ OnlyMine s t c'
            ∧ WithX s.me.ctl (servicerWritten s.me p.1 p.2.1 v) c' d p.2.2) ∧
        (s.me.sp.kstat.getLsbD 0 = false → p.1 = false →
          (∃ t, exec read s = .next t ∧ WroteX s t d p.2.2) ∧ (∃ t, exec write s = .next t ∧ Passed s t) ∧
          ∃ t, exec swap s = .next t ∧ WroteX s t d p.2.2))

/-! ### Traps and returns -/

/-- R348, R354, R359: SYSCALL and BREAK trap with their immediate in C.FADDR; a word that is no instruction traps with the word,
and a fetch that fails with its address.
R55, R70, R80, R174, R344: a word out of place is ILLEGAL, a system word below SUPERVISOR raises PRIV, a poisoned register raises
POISON, and an empty source raises EMPTY under its k bit and blocks the slot otherwise. -/
def Obligations.TrapsByInstruction : Prop :=
  ∀ (s : State), Running s →
    (Straight s → ∀ i : BitVec 20, (∃ t, exec (.syscall i) s = .next t ∧ Trapped s t 0x15 (i.setWidth 64))
      ∧ ∃ t, exec (.brk i) s = .next t ∧ Trapped s t 0x14 (i.setWidth 64)) ∧
    (∀ w, ∃ t, exec (.illegalInstruction w) s = .next t ∧ Trapped s t 0x01 (w.setWidth 64)) ∧
    (∀ cause, cause ≠ 0x07 → s.fetch s.cur = .fails cause →
      ∃ t, exec .instructionFetchFault s = .next t ∧ TrappedWith s t cause (s.me.ctl.pc.setWidth 64) 0) ∧
    let traps := fun (i : Instr) (cause : Nat) (faddr : Word) => ∃ t, exec i s = .next t ∧ Trapped s t cause faddr
    let word := s.me.ctl.iword.setWidth 64
    (¬ Straight s → ∀ (i : BitVec 26) (j : BitVec 20), ∀ p ∈ [Instr.j i, .jl i, .syscall j, .brk j], traps p 0x01 word) ∧
    (∀ d a b, ∀ p ∈ [Instr.kret, .resume d a b], (∀ core n, s.cur = .slot core n → traps p 0x01 word) ∧
      (Straight s → ∀ c, s.cur = .cel c → s.me.sp.kstat.getLsbD 0 = false → traps p 0x02 0)) ∧
    ∀ (d a b : BitVec 5) (k m : BitVec 1), let named := [RegName.x a, .x b, .x d]
      (∀ r, named.find? s.me.isPoisoned = some r → traps (.add d a b k m) 0x0A (s.me.heldAddress r)) ∧
      (named.find? s.me.isPoisoned = none → s.me.isEmpty (.x a) = true →
        exec (.add d a b 1 m) s = .next (s.trap s.cur 0x07 (toWord a.toNat)) ∧ ∃ t, exec (.add d a b 0 0) s = .next t
          ∧ OnlyMine s t { s.me with ctl := { s.me.ctl with status := .blocked, awaits := some (.x a) } })

/-- R57, R125, R348: an EMPTY that the slot takes itself fills its return record and goes on at C.UTVEC, and URET goes back to
the word that trapped, with the redirect it had.
R359: KRET of a cellarer core at SUPERVISOR goes back to C.EPC with the redirect of C.BTGT and the level of PPL. -/
def Obligations.HandlerAndKernelReturn : Prop :=
  (∀ (s : State) (core n : Nat) (faddr : Word), s.cur = .slot core n → Running s → s.me.ctl.hold = none →
      s.me.ctl.pc.toNat % 4 = 0 → s.me.trap.utvec.getLsbD 0 = true → s.me.trap.uh = false →
      (∀ r, s.me.ctl.redirect = some r → r.target.toNat % 4 = 0 ∧ 1 ≤ r.nds ∧ r.nds ≤ 3) →
      let t := s.trap s.cur 0x07 faddr
      t.me.ctl.status = .running ∧ t.me.ctl.pc = BitVec.ofNat 56 (s.me.trap.utvec.toNat / 4 % 2 ^ 54 * 4) ∧ t.me.trap.uh = true
        ∧ t.me.ctl.redirect = none ∧ t.me.ctl.frame = none ∧ t.me.regs = s.me.regs ∧ t.me.trap.faddr = faddr
        ∧ ∃ u, exec .uret t = .next u ∧ u.me.ctl.pc = s.me.ctl.pc ∧ u.me.ctl.redirect = s.me.ctl.redirect
          ∧ u.me.trap.uh = false ∧ u.me.regs = s.me.regs) ∧
  (∀ (s : State) (c : Nat), s.cur = .cel c → Running s → Straight s → s.me.sp.kstat.getLsbD 0 = true →
      ∃ t x, exec .kret s = .next t ∧ OnlyMine s t x ∧ x.regs = s.me.regs ∧ x.trap = s.me.trap
        ∧ { x.sp with kstat := s.me.sp.kstat } = s.me.sp
        ∧ x.sp.kstat = toWord (2 * (s.me.sp.kstat.toNat / 2 % 4) + s.me.sp.kstat.toNat / 2 % 2)
        ∧ x.ctl.pc = BitVec.ofNat 56 (s.me.trap.epc.toNat / 4 % 2 ^ 54 * 4) ∧ x.ctl.redirect = redirectOf s.me.trap.btgt)

/-! ### Memory -/

/-- A load that keeps its slot, issued with the queue empty and no load in flight, is performed and lands; `bs` are its bytes. -/
def Sys2Proof.Claims.LoadsThrough (s t : State) (w : State) : Prop :=
  ∃ u, exec (.performLoad s.cur (s.nextId + 1)) t = .next u ∧ exec (.loadReplyLand s.cur s.nextId) u = .next w

/-- R110, R167 to R169, R174: LDS, and LDC of the own role, post a load that keeps the slot; performed and landed, it has the bytes
at its address in its register, little-endian and zero-extended, a .N load its nibble, and nothing else is changed.
R122, R124: LDF is the load of an own word, and FEW of the own role answers whether the word is full.
R406: a load of a TEXT word is such an entry, TRES taking the head result away as it is performed; a TINJ word is read at issue.
That such a load is an entry, which later instructions may pass once it cannot trap any more, is the model's reading of R110 and
R174 (log entry 18); that a load of TRES is an acquire whether or not a result waits is another choice of its own (log entry 138).
Nothing is performed at a core that is about to be quarantined (R19). -/
def Obligations.SliceLoads : Prop :=
  (∀ (s : State) (core n : Nat) (b : Binding) (d a : BitVec 5) (k : BitVec 1) (o : BitVec 2) (sz : BitVec 3) (i : BitVec 10),
      OnCore s core n b → Alone s [.x a, dataReg sz d] →
      let ea := (effAddr (s.me.x a) sz i).toNat
      let loads := fun (j : Instr) (off : Nat) =>
        off + sizeBytes sz ≤ 0x3FF00 → Within s off (sizeBytes sz) →
        ∃ t, exec j s = .next t ∧ OnlyMine s t (keeping s (loadDst sz d) (nibbleOf sz i) fun r id =>
            ⟨id, ordAcq o, ordRel o, .cellar, b.role * 2 ^ 18 + off,
              .load r (.slice b.launch b.role off) (sizeBytes sz) s.me.act.buffer.length, none, none⟩) ∧
          (s.me.queue = [] → s.me.loads = [] → s.failing core = false → Clean s core off (sizeBytes sz) →
            let v := loadValue (nibbleOf sz i) ((s.core core).slice.readN off (sizeBytes sz))
            ∃ w, LoadsThrough s t w ∧ if sz = 4 then WroteV s w d (BitVec.ofNat 512 v) else WroteX s w d (toWord v))
      loads (.lds d a k o sz i) ea ∧
      (ea < 2 ^ 30 → caRole ea = b.role → b.role < b.nroles → loads (.ldc d a k o sz i) (caOff ea))) ∧
  (∀ (s : State) (core n : Nat) (b : Binding) (d a : BitVec 5) (k : BitVec 1) (o : BitVec 2) (i : BitVec 10),
      OnCore s core n b → Alone s [.x a, .x d] →
      (let ea := (effAddr (s.me.x a) 3 i).toNat;
        let off := ea / 8 * 8;
        ea < 0x3FF00 → Within s off 8 →
        ∃ t, exec (.ldf d a k o i) s = .next t ∧ OnlyMine s t (keeping s (.x d) none fun r id =>
            ⟨id, ordAcq o, ordRel o, .cellar, b.role * 2 ^ 18 + off, .ldf r (.slice b.launch b.role off), none, none⟩) ∧
          (s.me.queue = [] → s.me.loads = [] → s.failing core = false → Clean s core off 8 → (s.core core).isFull off = true →
            ∃ w, LoadsThrough s t w ∧ WroteX s w d ((s.core core).slice.word off))) ∧
      (let ca := (s.me.x a).toNat;
        let off := caOff (ca / 8 * 8);
        ca < 2 ^ 30 → caRole ca = b.role → b.role < b.nroles → caOff ca < 0x3FF00 → Within s (caOff ca / 8 * 8) 8 →
        ∃ t, exec (.few d a k) s = .next t ∧ OnlyMine s t (keeping s (.x d) none fun r id =>
            ⟨id, false, false, .cellar, ca / 8 * 8, .few r (.slice b.launch (caRole (ca / 8 * 8)) off), none, none⟩) ∧
          (s.me.queue = [] → s.me.loads = [] → s.failing core = false →
            ∃ w, LoadsThrough s t w ∧ WroteX s w d (flag ((s.core core).isFull off))))) ∧
  (∀ (s : State) (core n : Nat) (b : Binding) (d a : BitVec 5) (k : BitVec 1) (o : BitVec 2) (i : BitVec 10),
      OnCore s core n b → Alone s [.x a, .x d] →
      let ea := (effAddr (s.me.x a) 3 i).toNat
      let results := (s.core core).text
      0x3FF00 ≤ ea → ea < 0x40000 → ea % 8 = 0 →
      (ea < 0x3FF80 → s.me.queue = [] → ∃ t, exec (.lds d a k o 3 i) s = .next t
        ∧ WroteX s t d (if ea = 0x3FF00 then s.me.sp.tctl else 0)) ∧
      (0x3FF80 ≤ ea → ∃ t, exec (.lds d a k o 3 i) s = .next t ∧ OnlyMine s t (keeping s (.x d) none fun r id =>
            ⟨id, ordAcq o || ea == 0x3FF88, ordRel o, .cellar, b.role * 2 ^ 18 + ea, .tree r (.slice b.launch b.role ea), none,
              none⟩) ∧
        (s.me.queue = [] → s.me.loads = [] → s.failing core = false →
          ∃ w, LoadsThrough s t w ∧
            (∀ r rest, results = r :: rest → ea = 0x3FF88 → (w.core core).text = rest
              ∧ (w.core core).treeOpen = (s.core core).treeOpen - 1
              ∧ ∀ m, w.me.x m = if m = d ∧ d ≠ 0 then r.value else s.me.x m) ∧
            (results = [] ∨ ea ≠ 0x3FF88 → WroteX s w d (match results with
              | r :: _ => if ea = 0x3FF80 then toWord (2 ^ 63 + r.status.toNat % 2 ^ 63 + results.length % 8 * 2 ^ 8) else 0
              | [] => 0)))))

/-- R167 to R170, R122: STS and STC post a store of their data register's low bytes, and EMPW and FULW a mark of a word; the
entry is what the slot adds, and no byte changes until it is performed.
R406, R407: a store to TCTL writes it, a store to TOP posts an injection and opens an operation, and a store to any other TINJ or TEXT
word is ignored. -/
def Obligations.PostedSliceStores : Prop :=
  ∀ (s : State) (core n : Nat) (b : Binding) (d a : BitVec 5) (k : BitVec 1) (o : BitVec 2) (sz : BitVec 3) (i : BitVec 10),
    OnCore s core n b → Alone s [.x a, dataReg sz d] →
    let ea := (effAddr (s.me.x a) sz i).toNat
    let len := sizeBytes sz
    let data := s.me.storeData sz d
    (sz = 4 → s.me.act.source = 0 → d.toNat < 24) →
    (ea + len ≤ 0x3FF00 → Within s ea len →
      ∃ t, exec (.sts d a k o sz i) s = .next t ∧ Posted s t fun id =>
        ⟨id, ordAcq o, ordRel o, .cellar, b.role * 2 ^ 18 + ea, .store (.slice b.launch b.role ea) data (nibbleOf sz i) (sz == 4),
          none, none⟩) ∧
    (ea < 2 ^ 30 → caRole ea < b.nroles → caOff ea + len ≤ 0x3FF00 → Within s (caOff ea) len →
      ∃ t, exec (.stc d a k o sz i) s = .next t ∧ Posted s t fun id =>
        ⟨id, ordAcq o, ordRel o, .cellar, ea, .store (.slice b.launch (caRole ea) (caOff ea)) data (nibbleOf sz i) (sz == 4),
          none, none⟩) ∧
    (sz = 3 → 0x3FF00 ≤ ea → ea < 0x40000 → ea % 8 = 0 →
      (ea ≠ 0x3FF08 → ∃ t, exec (.sts d a k o sz i) s = .next t ∧ OnlyMine s t { s.me with
        sp := if ea = 0x3FF00 then { s.me.sp with tctl := s.me.x d } else s.me.sp, ctl := s.me.ctl.advance }) ∧
      (ea = 0x3FF08 → tctlBad s.me.sp.tctl = false → (s.core core).treeOpen < 4 → ∃ t, exec (.sts d a k o sz i) s = .next t
        ∧ MineIs s t { s.me with
            queue := s.me.queue ++ [⟨s.nextId, ordAcq o, true, .cellar, 0, .inject s.me.sp.tctl (s.me.x d), none, none⟩]
            ctl := s.me.ctl.advance }
        ∧ { t with ctxs := s.ctxs, cores := s.cores, nextId := s.nextId } = s
        ∧ ∀ m, t.core m = if m = core then { s.core core with treeOpen := (s.core core).treeOpen + 1 } else s.core m)) ∧
    let ca := (s.me.x a).toNat
    let word := ca / 8 * 8
    (ca < 2 ^ 30 → caRole ca < b.nroles → caOff ca < 0x3FF00 → Within s (caOff ca / 8 * 8) 8 →
      (∃ t, exec (.empw a k) s = .next t ∧ Posted s t fun id =>
        ⟨id, false, false, .cellar, word, .empw (.slice b.launch (caRole word) (caOff word)), none, none⟩) ∧
      ∃ t, exec (.fulw a k) s = .next t ∧ Posted s t fun id =>
        ⟨id, false, false, .cellar, word, .fulw (.slice b.launch (caRole word) (caOff word)), none, none⟩)

/-- R54, R169, R173: a load that leaves its slot (LDC and FEW of another role, LD) makes an entry and empties its register; an LD that
straddles two pages makes an entry for each part, which its record collects. -/
def Obligations.LoadsInFlight : Prop :=
  ∀ (s : State) (core n : Nat) (b : Binding) (d a : BitVec 5) (k : BitVec 1) (o : BitVec 2) (sz : BitVec 3) (i : BitVec 10),
    OnCore s core n b →
    let ea := (effAddr (s.me.x a) sz i).toNat
    let len := sizeBytes sz
    (Alone s [.x a, dataReg sz d] → ea < 2 ^ 30 → caRole ea < b.nroles → caRole ea ≠ b.role → caOff ea + len ≤ 0x3FF00 →
      Within s (caOff ea) len →
      ∃ t, exec (.ldc d a k o sz i) s = .next t ∧ OnlyMine s t
        (awaiting s (dataReg sz d) (loadDst sz d) (nibbleOf sz i) false fun r id =>
          ⟨id, ordAcq o, ordRel o, .cellar, ea, .load r (.slice b.launch (caRole ea) (caOff ea)) len s.me.act.buffer.length,
            none, none⟩)) ∧
    (Alone s [.x a, dataReg sz d] → ∀ loc page ent, OnePage s core ea len .load loc page ent →
      ∃ t, exec (.ld d a k o sz i) s = .next t ∧ Translated s t
        (awaiting s (dataReg sz d) (loadDst sz d) (nibbleOf sz i) (page == .so) fun r id =>
          ⟨id, ordAcq o && page != .un, ordRel o && page != .un, page, ea, .load r loc len s.me.act.buffer.length, none,
            some ent⟩)) ∧
    (Alone s [.x a, dataReg sz d] → ∀ ps, Straddles s core ea len .load (sz == 4) ps →
      ∃ t, exec (.ld d a k o sz i) s = .next t ∧ Translated s t (({ s.me with
        queue := s.me.queue ++ ps.mapIdx fun j p => ⟨s.nextId + 1 + j, ordAcq o && p.page != .un, ordRel o && p.page != .un, p.page,
          p.va, .load s.nextId p.loc p.n s.me.act.buffer.length, none, some p.ent⟩
        loads := s.me.loads ++ [⟨s.nextId, loadDst sz d, (upFrom 0 ps.length).map fun j => (s.nextId + 1 + j, none), nibbleOf sz i,
          none, ps.any fun p => p.page == .so, none, none⟩] : Ctx }.makeEmpty (dataReg sz d)).advance)) ∧
    let ca := (s.me.x a).toNat
    let word := ca / 8 * 8
    (Alone s [.x a, .x d] → ca < 2 ^ 30 → caRole ca < b.nroles → caRole ca ≠ b.role → caOff ca < 0x3FF00 →
      Within s (caOff ca / 8 * 8) 8 →
      ∃ t, exec (.few d a k) s = .next t ∧ OnlyMine s t (awaiting s (.x d) (.x d) none false fun r id =>
        ⟨id, false, false, .cellar, word, .few r (.slice b.launch (caRole word) (caOff word)), none, none⟩))

/-- R169, R173, R175: ST posts a store of its data at the place its page gives, one that straddles two pages a store for each part; in
an atomic task the retire buffer takes it whole. -/
def Obligations.GlobalStores : Prop :=
  ∀ (s : State) (core n : Nat) (b : Binding) (d a : BitVec 5) (k : BitVec 1) (o : BitVec 2) (sz : BitVec 3) (i : BitVec 10)
    (loc : Loc) (page : PageKind) (ent : Word × Word), OnCore s core n b → Alone s [.x a, dataReg sz d] →
    let ea := (effAddr (s.me.x a) sz i).toNat
    let len := sizeBytes sz
    let data := s.me.storeData sz d
    (sz = 4 → s.me.act.source = 0 → d.toNat < 24) →
    (s.me.act.ctl.getLsbD 63 = false → OnePage s core ea len .store loc page ent →
      ∃ t, exec (.st d a k o sz i) s = .next t ∧ Translated s t { s.me with
        queue := s.me.queue ++ [⟨s.nextId, ordAcq o && page != .un, ordRel o && page != .un, page, ea,
          .store loc data (nibbleOf sz i) (sz == 4), none, some ent⟩]
        ctl := s.me.ctl.advance }) ∧
    (s.me.act.ctl.getLsbD 63 = false → ∀ ps, Straddles s core ea len .store (sz == 4) ps →
      ∃ t, exec (.st d a k o sz i) s = .next t ∧ Translated s t { s.me with
        queue := s.me.queue ++ ps.mapIdx fun j p => ⟨s.nextId + j, ordAcq o && p.page != .un, ordRel o && p.page != .un, p.page, p.va,
          .store p.loc ((data.drop (p.va - ea)).take p.n) (nibbleOf sz i) (sz == 4), none, some p.ent⟩
        ctl := s.me.ctl.advance }) ∧
    (s.me.act.ctl.getLsbD 63 = true →
      OnePage s core ea len .store loc page ent ∨ (∃ ps, Straddles s core ea len .store (sz == 4) ps) →
        s.me.act.used + 8 + 8 * ((len + 7) / 8) ≤ 4096 →
      ∃ t, exec (.st d a k o sz i) s = .next t ∧ OnlyMine s t { s.me with
        act := { s.me.act with
          used := s.me.act.used + (8 + 8 * ((len + 7) / 8)), buffer := s.me.act.buffer ++ [.store ea data (nibbleOf sz i) (sz == 4)] }
        ctl := s.me.ctl.advance })

/-- R363, R398: LD and ST of a cellarer core or a TSC reach device-physical memory: the load answers with the bytes, the store
is posted.  That the load is performed as it issues is the model's choice (log entry 17); so are its readings that no such access is
translated, that none is refused for another partition's HBM, and that all are ordered as on an RC page (log entry 27). -/
def Obligations.ServicerMemory : Prop :=
  ∀ (s : State) (d a : BitVec 5) (k : BitVec 1) (o : BitVec 2) (sz : BitVec 3) (i : BitVec 10), isSmall s.cur = false →
    Alone s [.x a, .x d] → s.me.queue = [] → sz ≠ 4 →
    let ea := (effAddr (s.me.x a) sz i).toNat
    let len := sizeBytes sz
    winOf ea = none → inMemory ea len = true →
    (s.poisonAt (.mem ea) len = none → ∃ t, exec (.ld d a k o sz i) s = .next t
      ∧ WroteX s t d (toWord (loadValue (nibbleOf sz i) (s.mem.readN ea len)))) ∧
    ∃ t, exec (.st d a k o sz i) s = .next t ∧ Posted s t fun id =>
      ⟨id, ordAcq o, ordRel o, .rc, ea, .store (.mem ea) (s.me.storeData sz d) (nibbleOf sz i) false, none, none⟩

/-- R177 to R180 and Table 7-6: a returning atomic on an aligned word of the own slice is an entry that is an acquire and a release
and keeps its slot; performed in one step, it writes its new value, and its old one lands in X[d].
R179, R180: an atomic on a word of another role, and one on a global page, is an entry that is an acquire and a release (on a UN page
neither), and empties X[d]; a reduction on a slice is a plain posted entry, and in an atomic task a global one is buffered, 16 bytes.
R184, R363: a global atomic of a cellarer core or a TSC is performed on device-physical memory, and a reduction posted there; C = 1 is
ILLEGAL.  That an own-slice atomic is an entry is the model's reading of R110 (log entry 18); that an atomic of a cellarer core or a TSC
is performed as it issues is its choice (log entry 17), and that it is untranslated and ordered as on an RC page its reading (log entry
27). -/
def Obligations.AtomicsAndReductions : Prop :=
  (∀ (s : State) (core n : Nat) (bd : Binding) (d a b : BitVec 5) (k m z : BitVec 1), OnCore s core n bd →
      Alone s [.x a, .x b, .x d] →
      let ca := (s.me.x a).toNat
      let w := zWidth z
      CellarWord bd ca (w / 8) → caRole ca = bd.role → Within s (caOff ca) (w / 8) →
      ∀ p ∈ atomics d a b k m 1 z,
        ∃ t, exec p.1 s = .next t ∧ OnlyMine s t (keeping s (.x d) none fun r id =>
            ⟨id, true, true, .cellar, ca,
              .atomic r (.slice bd.launch bd.role (caOff ca)) p.2 (z == 1) (s.me.x b) (s.me.x d), none, none⟩) ∧
          (s.me.queue = [] → s.me.loads = [] → s.failing core = false → Canonical s → Clean s core (caOff ca) (w / 8) →
            let r := newBytes (s.core core).slice (caOff ca) p.2 w (s.me.x b) (s.me.x d)
            ∃ u v, exec (.performAtomic s.cur (s.nextId + 1)) t = .next u ∧ exec (.loadReplyLand s.cur s.nextId) u = .next v
              ∧ WroteXBeside s v d r.1 ∧ StoredAt s v (.slice bd.launch bd.role (caOff ca)) r.2 ∧ SameButMemory s v)) ∧
  (∀ (s : State) (core n : Nat) (bd : Binding) (d a b : BitVec 5) (k m z : BitVec 1), OnCore s core n bd →
      let addr := (s.me.x a).toNat
      let w := zWidth z
      let y := s.me.x b
      (CellarWord bd addr (w / 8) → Within s (caOff addr) (w / 8) →
        let loc := Loc.slice bd.launch (caRole addr) (caOff addr)
        (Alone s [.x a, .x b, .x d] → caRole addr ≠ bd.role → ∀ p ∈ atomics d a b k m 1 z,
          ∃ t, exec p.1 s = .next t ∧ OnlyMine s t (awaiting s (.x d) (.x d) none false fun r id =>
            ⟨id, true, true, .cellar, addr, .atomic r loc p.2 (z == 1) y (s.me.x d), none, none⟩)) ∧
        (Alone s [.x a, .x b] → ∀ p ∈ reductions a b k m 1 z,
          ∃ t, exec p.1 s = .next t ∧ Posted s t fun id =>
            ⟨id, false, false, .cellar, addr, .reduce loc p.2 (z == 1) y, none, none⟩)) ∧
      (s.me.act.ctl.getLsbD 63 = false → addr % (w / 8) = 0 → ∀ loc page ent, OnePage s core addr (w / 8) .store loc page ent →
        (Alone s [.x a, .x b, .x d] → ∀ p ∈ atomics d a b k m 0 z,
          ∃ t, exec p.1 s = .next t ∧ Translated s t (awaiting s (.x d) (.x d) none false fun r id =>
            ⟨id, page != .un, page != .un, page, addr, .atomic r loc p.2 (z == 1) y (s.me.x d), none, some ent⟩)) ∧
        (Alone s [.x a, .x b] → ∀ p ∈ reductions a b k m 0 z,
          ∃ t, exec p.1 s = .next t ∧ Translated s t { s.me with
            queue := s.me.queue ++ [⟨s.nextId, false, false, page, addr, .reduce loc p.2 (z == 1) y, none, some ent⟩]
            ctl := s.me.ctl.advance })) ∧
      (s.me.act.ctl.getLsbD 63 = true → addr % (w / 8) = 0 → s.me.act.used + 16 ≤ 4096 →
        ∀ loc page ent, OnePage s core addr (w / 8) .store loc page ent → Alone s [.x a, .x b] → ∀ p ∈ reductions a b k m 0 z,
          ∃ t, exec p.1 s = .next t ∧ OnlyMine s t { s.me with
            act := { s.me.act with used := s.me.act.used + 16, buffer := s.me.act.buffer ++ [.reduce addr p.2 (z == 1) y] }
            ctl := s.me.ctl.advance })) ∧
  (∀ (s : State) (d a b : BitVec 5) (k m z : BitVec 1), isSmall s.cur = false →
      let addr := (s.me.x a).toNat
      let w := zWidth z
      let y := s.me.x b
      (Alone s [.x a, .x b, .x d] → ∀ p ∈ atomics d a b k m 1 z,
        ∃ t, exec p.1 s = .next t ∧ Trapped s t 0x01 (s.me.ctl.iword.setWidth 64)) ∧
      (Alone s [.x a, .x b] → ∀ p ∈ reductions a b k m 1 z,
        ∃ t, exec p.1 s = .next t ∧ Trapped s t 0x01 (s.me.ctl.iword.setWidth 64)) ∧
      (addr % (w / 8) = 0 → winOf addr = none → isMemory addr = true →
        (Alone s [.x a, .x b, .x d] → s.me.queue = [] → Canonical s → s.poisonAt (.mem addr) (w / 8) = none →
          ∀ p ∈ atomics d a b k m 0 z,
            let r := newBytes s.mem addr p.2 w y (s.me.x d)
            ∃ t, exec p.1 s = .next t ∧ WroteXBeside s t d r.1 ∧ StoredAt s t (.mem addr) r.2 ∧ SameButMemory s t) ∧
        (Alone s [.x a, .x b] → ∀ p ∈ reductions a b k m 0 z,
          ∃ t, exec p.1 s = .next t ∧ Posted s t fun id =>
            ⟨id, false, false, .rc, addr, .reduce (.mem addr) p.2 (z == 1) y, none, none⟩)))

/-! ### Fences and the end of waits -/

/-- The role, or the stretch of global memory, that is the home of what an entry does, and whether a FENCE.ACQ waits for it. -/
inductive Sys2Proof.Claims.Home where
  | role (r : Nat)
  | device
  | beyond

/-- Whether a home lies within a scope of a role, the scopes numbered as Table 3-13 has them (R26, Table 11-2): SLOT holds none,
CORE the role itself, CLUSTER its 16, DIE its 1,024, and DEVICE every role and the memory of the device. -/
def Sys2Proof.Claims.Home.near (h : Home) (scope own : Nat) : Bool :=
  match h, scope with
  | _, 0 => false
  | .role r, 1 => r == own
  | .role r, 2 => r / 16 == own / 16
  | .role r, 3 => r / 1024 == own / 1024
  | .role _, _ => true
  | .device, n => decide (4 ≤ n)
  | .beyond, n => decide (5 ≤ n)

/-- Table 11-5 and R272: which entries a fence waits for, by the kind of entry, its home, the spaces the fence names (`sp` the
slices, `g` global memory) and its scope. -/
def Sys2Proof.Claims.FenceSets : Prop :=
  ∀ (e : Entry) (loads sp g : Bool) (scope own : Nat), scope ≤ 5 →
    let inSet := inFence loads scope sp g own e
    (∀ (r id k l n h o : Nat) (bs : List Byte) (nib : Option Bool) (vec dbl : Bool) (op : AtomOp) (y c : Word) (m : Msg),
      let at_ := Loc.slice l h o
      (∀ p ∈ ([(.load id at_ n k, true), (.ldf id at_, true), (.few id at_, true), (.tree id at_, true),
          (.atomic id at_ op dbl y c, true),
          (.store at_ bs nib vec, false), (.reduce at_ op dbl y, false), (.empw at_, false), (.fulw at_, false),
          (.decr at_ n, false)] : List (Payload × Bool)),
        e.what = p.1 → inSet = (sp && (Home.role h).near scope own && (!loads || p.2))) ∧
      (∀ p ∈ ([.message r m, .credit r n] : List Payload),
        e.what = p → inSet = (sp && (Home.role r).near scope own && !loads)) ∧
      (e.what = .inject y c → inSet = (sp && (Home.role own).near scope own && !loads)) ∧
      (e.what = .status id y → inSet = false) ∧
      (∀ q, e.what = .engine q → inSet = false)) ∧
    ∀ (id k n pa dv : Nat) (bs : List Byte) (nib : Option Bool) (vec dbl : Bool) (op : AtomOp) (y c : Word),
      ∀ q ∈ ([(.mem pa, if 0x02000000000000 ≤ pa ∧ pa < 0xFF000000000000 then .beyond else .device), (.peer dv pa, .beyond)]
          : List (Loc × Home)),
      ∀ p ∈ ([(.load id q.1 n k, true), (.atomic id q.1 op dbl y c, true), (.store q.1 bs nib vec, false),
          (.reduce q.1 op dbl y, false)] : List (Payload × Bool)),
        e.what = p.1 → inSet = (g && q.2.near scope own && (!loads || p.2))

/-- R181, R182, R279 and Table 11-5: a fence holds its slot over the entries that stand before it, and FENCE_DONE lets the slot
go on exactly when no entry of the fence's set is left, unless a pre-emption has halted the slot (R185); at SLOT scope a fence
completes at once.
R184, R279: on a cellarer core a scope narrower than DEVICE acts as DEVICE, and a fence that names space s raises ILLEGAL. -/
def Sys2Proof.Claims.FencesHold : Prop :=
  (∀ (s : State) (core n : Nat) (b : Binding) (sc : BitVec 5) (x : BitVec 2), OnCore s core n b → Alone s [] →
    (∀ p ∈ ([(.fence sc x, false), (.fenceAcq sc x, true), (.fenceRel sc x, false)] : List (Instr × Bool)),
      ∃ t, exec p.1 s = .next t ∧ if sc = 0 then Passed s t else
        OnlyMine s t { s.me with
          ctl := { s.me.ctl with hold := some (.fence p.2 sc.toNat (x.getLsbD 0) (x.getLsbD 1) s.nextId) } }) ∧
    ∀ loads sp g before, s.me.ctl.hold = some (.fence loads sc.toNat sp g before) →
      ∃ t, exec (.fenceDone s.cur) s = .next t ∧
        if s.me.ctl.quiesced = false ∧ ∀ e ∈ s.me.queue, e.id < before → inFence loads sc.toNat sp g b.role e = false
        then Passed s t else t = s) ∧
  ∀ (s : State) (c : Nat) (sc : BitVec 5) (x : BitVec 2), s.cur = .cel c → Alone s [] →
    ∀ p ∈ ([(.fence sc x, false), (.fenceAcq sc x, true), (.fenceRel sc x, false)] : List (Instr × Bool)),
      ∃ t, exec p.1 s = .next t ∧
        if x.getLsbD 0 then Trapped s t 0x01 (s.me.ctl.iword.setWidth 64)
        else OnlyMine s t { s.me with
          ctl := { s.me.ctl with hold := some (.fence p.2 (max sc.toNat 4) false (x.getLsbD 1) s.nextId) } }

/-- `FencesHold` and `FenceSets`: what a fence does, and what it waits for. -/
def Obligations.Fences : Prop :=
  FencesHold ∧ FenceSets

/-! ### Activations and messages -/

/-- R36, R52, R58, R129, R130: YIELD leaves the slot YIELDED behind its word.  RETIRE of a streaming task frees the slot with its
registers as they are, counts the activation in TCB.ACTS, consumes the message that it was admitted for (HEAD advances, and PEND
stays set or is set while messages are left), ends its channel's run and posts its join decrement; DONE does so too, and ends the
role.  An atomic task seals its buffer and waits for the commit; DONE of one ends the role at once. -/
def Obligations.ActivationEnds : Prop :=
  ∀ (s : State) (core n : Nat) (b : Binding), OnCore s core n b → n < 8 → Alone s [] → Straight s →
    let h := (s.core core).handler s.me.act.source
    let held := s.me.act.named && !s.me.act.forgotten
    let emptyBut := ∀ ch, ch < 64 → ((s.core core).handler ch).count = 0
      ∨ (ch = s.me.act.source ∧ held = true ∧ ((s.core core).handler ch).count = 1)
    (∃ t c, exec .yield s = .next t ∧ OnlyMine s t c ∧ c.regs = s.me.regs ∧ c.ctl = { s.me.ctl.advance with status := .yielded }
      ∧ c.act.yieldedAt = s.now) ∧
    (let tcb := s.me.sp.tcb.toNat % 2 ^ 18;
      let acts := fromBytes ((s.core core).slice.readN (tcb + 24) 4);
      Canonical s → s.me.act.ctl.getLsbD 63 = false → s.me.firstPoison = none → s.me.rackFault = 0 → s.me.pressFault = 0 →
      s.me.trelFault = 0 → h.head < 512 → h.tail < 512 →
      ∀ p ∈ ([(.retire, false), (.done, true)] : List (Instr × Bool)), (p.2 = true → emptyBut) → ∃ t, exec p.1 s = .next t
        ∧ t.me.ctl.status = .free ∧ t.me.regs.x = s.me.regs.x ∧ t.me.regs.v = s.me.regs.v
        ∧ (∀ m o, (t.core m).slice.read o = if m = core ∧ tcb + 24 ≤ o ∧ o < tcb + 28
            then (toBytes 4 ((acts + 1) % 2 ^ 32)).getD (o - (tcb + 24)) 0 else (s.core m).slice.read o)
        ∧ (∀ a, a ≠ s.cur → p.2 = false ∨ (s.ctx a).ctl.stallOn ≠ some .ring → t.ctx a = s.ctx a)
        ∧ t.mem = s.mem ∧ t.groups = s.groups
        ∧ (s.me.act.source < 64 →
            let h' := (t.core core).handler s.me.act.source
            let head := if held then (h.head + 1) % 512 else h.head
            h'.run = false ∧ h'.head = head ∧ h'.pend = (h.pend || head != h.tail))
        ∧ t.me.queue.length = s.me.queue.length + b2n (s.me.act.join.getLsbD 63)
        ∧ (t.core core).binding = some { b with ended := b.ended || p.2 }) ∧
    (s.me.act.ctl.getLsbD 63 = true →
      let sealed := fun (isDone : Bool) => { s.me with
        act := { s.me.act with sealed := true, done := isDone }, ctl := { s.me.ctl with hold := some .commit } }
      (∃ t, exec .retire s = .next t ∧ OnlyMine s t (sealed false)) ∧
      (b.ended = false → emptyBut → s.me.ctl.stallOn = none → ∃ t, exec .done s = .next t ∧ t.me = sealed true
        ∧ (t.core core).binding = some { b with ended := true } ∧ (t.core core).ring = [] ∧ (t.core core).ringInput = []
        ∧ (∀ a, a ≠ s.cur → (s.ctx a).ctl.stallOn ≠ some .ring → t.ctx a = s.ctx a) ∧ ∀ p, t.readLoc p = s.readLoc p))

/-- The role that a designator names (R18, Table 5-13): a role number, or the role of a stage, absolute or relative, that has a stage
rank; none where it is refused. -/
def Sys2Proof.Claims.designated (g : Group) (b : Binding) (x : Nat) : Option Nat :=
  let stg : Nat := x / 2 ^ 14 % 32
  let ranked := fun (stage : Int) =>
    if 0 ≤ stage ∧ stage < b.nstages then
      ((List.range g.stages.length).filter fun r => decide (((g.stages[r]?.getD 0 : Nat) : Int) = stage))[x % 4096]?
    else none
  if 2 ^ 19 ≤ x then none
  else
    match x / 4096 % 4 with
    | 0 => if x % 4096 < b.nroles then some (x % 4096) else none
    | 1 => ranked stg
    | 2 => ranked ((b.stage : Int) + (if stg < 16 then (stg : Int) else (stg : Int) - 32))
    | _ => none

/-- R18, R126, R127, R131 to R134, R136: the words by which a task reaches other roles.  RSLV answers the role a designator names, and
raises PROTECT where it names none.  SEND places a message, with its payload from the own slice, in the send queue, or in the retire
buffer of an atomic task; to channel 63 it raises PRIV below SUPERVISOR.  SPAWN writes TCB.JOIN and pushes a codelet, DECR posts a
decrement, PUMPQ empties its answer word and posts a query. -/
def Obligations.TaskMessages : Prop :=
  ∀ (s : State) (core n : Nat) (bd : Binding) (d a b : BitVec 5) (k m : BitVec 1), OnCore s core n bd →
    let x := s.me.x a
    let y := s.me.x b
    (∀ g, s.group? bd.launch = some g → Alone s [.x a, .x d] → ∃ t, exec (.rslv d a k) s = .next t ∧
      match designated g bd x.toNat with
      | some r => WroteX s t d (toWord r)
      | none => Trapped s t 0x05 x) ∧
    (∀ g r len, s.group? bd.launch = some g → Alone s [.x a, .x b, .x d] → designated g bd x.toNat = some r → len ≤ 60 →
      y.toNat = 63 + 256 * len → s.me.sp.pl = false → ∃ t, exec (.send d a b k m) s = .next t ∧ Trapped s t 0x02 0) ∧
    (∀ g r ch len, s.group? bd.launch = some g → Alone s [.x a, .x b, .x d] → designated g bd x.toNat = some r → ch < 64 → len ≤ 60 →
      y.toNat = ch + 256 * len → (ch = 63 → s.me.sp.pl = true) →
      let off := (s.me.x d).toNat
      (0 < len → off + len ≤ 0x3FF00 ∧ Within s off len ∧ Clean s core off len ∧ s.me.queue = []) →
      let msg : Msg := ⟨0, len, bd.role, 0, ch, if len = 0 then [] else (s.core core).slice.readN off len⟩
      (s.me.act.ctl.getLsbD 63 = false → (s.core core).sendRoom = true → ∃ t, exec (.send d a b k m) s = .next t
        ∧ t.me = { s.me with
            queue := s.me.queue ++ [⟨s.nextId, false, true, .cellar, 0, .message r msg, none, none⟩]
            ctl := s.me.ctl.advance }
        ∧ t.core core = { s.core core with sendQueue := (s.core core).sendQueue ++ [(s.nextId, r, msg)] }) ∧
      (s.me.act.ctl.getLsbD 63 = true → s.me.act.used + 72 ≤ 4096 → ∃ t, exec (.send d a b k m) s = .next t
        ∧ OnlyMine s t { s.me with
            act := { s.me.act with used := s.me.act.used + 72, buffer := s.me.act.buffer ++ [.message r msg] }
            ctl := s.me.ctl.advance })) ∧
    (Canonical s → Alone s [.x a, .x b] → s.me.queue = [] → x.toNat % 64 = 0 → x.toNat ≤ 0x3FE80 →
      (b ≠ 0 → y.toNat < 2 ^ 30 ∧ caRole y.toNat < bd.nroles) →
      Within s (x.toNat + 8) 8 → bd.ended = false → (s.core core).ringInput = [] → (s.core core).ring.length < 256 →
      ∃ t, exec (.spawn a b k m) s = .next t ∧ (t.core core).ring = (s.core core).ring ++ [x.toNat / 64]
        ∧ StoredAt s t (.slice bd.launch bd.role (x.toNat + 8)) (toBytes 8 (if b = 0 then 0 else 2 ^ 63 + y.toNat))
        ∧ t.me = { s.me with ctl := s.me.ctl.advance }) ∧
    (Alone s [.x a, .x b] → x.toNat < 2 ^ 30 → caRole x.toNat < bd.nroles → caOff x.toNat < 0x3FF00 →
      Within s (caOff x.toNat / 8 * 8) 8 → (b ≠ 0 → y ≠ 0) →
      ∃ t, exec (.decr a b k m) s = .next t ∧ Posted s t fun id =>
        ⟨id, false, true, .cellar, x.toNat / 8 * 8,
          .decr (.slice bd.launch (caRole (x.toNat / 8 * 8)) (caOff (x.toNat / 8 * 8))) (if b = 0 then 1 else y.toNat),
          none, none⟩) ∧
    (Alone s [.x a] → s.me.queue = [] → s.me.act.ctl.getLsbD 63 = false → x.toNat < 0x3FF00 →
      Within s (x.toNat / 8 * 8) 8 → (s.core core).pumpOut < 16 → ∀ g p, s.group? bd.launch = some g → g.pump = some p →
      ∃ t, exec (.pumpq a k) s = .next t ∧ (t.core core).isFull x.toNat = false
        ∧ (t.core core).pumpOut = (s.core core).pumpOut + 1 ∧ t.me = { s.me with ctl := s.me.ctl.advance }
        ∧ t.group? bd.launch
            = some { g with pump := some { p with queries := p.queries ++ [⟨core, bd.role, x.toNat / 8 * 8⟩] } })

/-- R32, R33, R135, Tables 5-17 and 5-18: HTSET writes one field group of a channel's entry, and HTGET reads its words; a write of
the mailbox group empties the mailbox, and the activations that its messages started forget them.  For channel 63 HTSET raises PRIV
below SUPERVISOR, its PRIO is always 7, and HTGET is permitted at every level.
R138: a message that arrives in the cycle in which HTSET clears PEND arrives after it. -/
def Obligations.HandlerTable : Prop :=
  ∀ (s : State) (core n : Nat) (b : Binding) (d x y : BitVec 5) (k m : BitVec 1) (ch : Nat), OnCore s core n b →
    ch < 64 → let h := (s.core core).handler ch
    let v := s.me.x y
    let arrived := match (s.core core).mailLast.find? ch with
      | some p => p.1 == s.now
      | none => false
    let permitted := ch = 63 → s.me.sp.pl = true
    let writes := fun (t : State) (f : Handler → Handler) =>
      { (t.core core).handler ch with since := h.since, aged := h.aged } = { f h with since := h.since, aged := h.aged }
        ∧ (∀ c, c ≠ ch → (t.core core).handler c = (s.core core).handler c) ∧ ∀ p, t.readLoc p = s.readLoc p
    let sets := fun (g : Nat) (f : Handler → Handler) => permitted → Alone s [.x x, .x y] → s.me.x x = toWord (g * 256 + ch) →
      ∃ t, exec (.htset x y k m) s = .next t ∧ t.me = { s.me with ctl := s.me.ctl.advance } ∧ writes t f
        ∧ { t.core core with handlers := (s.core core).handlers } = s.core core
    (v.toNat < 2 → sets 0 fun h => { h with en := v == 1 }) ∧ 
    (v.toNat < 2 → sets 1 fun h => { h with pend := if v = 0 ∧ arrived = true then h.pend else v == 1 }) ∧
    (∀ g, g < 6 → ch = 63 → s.me.sp.pl = false → Alone s [.x x, .x y] → s.me.x x = toWord (g * 256 + ch) →
      ∃ t, exec (.htset x y k m) s = .next t ∧ Trapped s t 0x02 0) ∧
    (v.toNat < 8 → sets 2 fun h => { h with prio := if ch = 63 then 7 else v.toNat }) ∧
    (v.toNat < 2 ^ 56 → v.toNat % 4 = 0 → sets 3 fun h => { h with haddr := v.toNat / 4 }) ∧
    (v.toNat ≤ 0x3FE80 → v.toNat % 64 = 0 → sets 4 fun h => { h with tcbp := v.toNat / 64 }) ∧
    (∀ mbase mlog mv, mbase < 4096 → mlog ≤ 8 → mv < 2 → v.toNat = mbase * 64 + mlog * 2 ^ 20 + mv * 2 ^ 24 →
      (mv = 1 → mbase * 64 + 64 * 2 ^ mlog ≤ 0x3FF00) → permitted → Alone s [.x x, .x y] → s.me.x x = toWord (5 * 256 + ch) →
      ∃ t, exec (.htset x y k m) s = .next t ∧ t.me.regs = s.me.regs ∧ t.me.ctl = s.me.ctl.advance
        ∧ (writes t fun h => { h with mbase := mbase, mlog := mlog, mv := mv == 1, head := 0, tail := 0 })
        ∧ ∀ i, i < 8 → let c := s.ctx (.slot core i)
          (t.ctx (.slot core i)).act
            = if c.ctl.status ≠ .free ∧ c.act.source = ch then { c.act with forgotten := true } else c.act) ∧
    (Alone s [.x x, .x d] → h.prio < 8 →
      (s.me.x x = toWord ch → ∃ t, exec (.htget d x k) s = .next t ∧ WroteX s t d (toWord (b2n h.en * 2 ^ 63
        + b2n h.pend * 2 ^ 62 + h.prio * 2 ^ 59 + b2n h.run * 2 ^ 58 + h.haddr * 4))) ∧
      (s.me.x x = toWord (256 + ch) → ∃ t, exec (.htget d x k) s = .next t ∧ WroteX s t d (toWord (h.tcbp * 2 ^ 52
        + h.mbase * 2 ^ 40 + h.mlog * 2 ^ 36 + b2n h.mv * 2 ^ 35 + h.head * 2 ^ 16 + h.tail))))

/-! ### The vector engine -/

/-- R142, R144 and Table 6-3: each integer VOP word writes its function of the lanes to every active lane of V[d], lane by
lane and at each element width; the other lanes, and everything else, stand. -/
def Obligations.VectorIntegerResults : Prop :=
  ∀ (s : State) (core n : Nat) (d a b : BitVec 5) (p : BitVec 3) (e : BitVec 2), VecRoom s core n →
    Ready s [.v a, .v b, .v d] →
    let w := widthOf e
    ∀ q ∈ ([(.vadd d a b p e, fun x y _ => x + y), (.vsub d a b p e, fun x y _ => x - y),
        (.vadds d a b p e, fun x y _ => saturated w (x.toInt + y.toInt)),
        (.vsubs d a b p e, fun x y _ => saturated w (x.toInt - y.toInt)),
        (.vaddus d a b p e, fun x y _ => if 2 ^ w ≤ x.toNat + y.toNat then BitVec.allOnes w else x + y),
        (.vsubus d a b p e, fun x y _ => if x.toNat < y.toNat then 0 else x - y),
        (.vmul d a b p e, fun x y _ => x * y), (.vmulh d a b p e, fun x y _ => BitVec.ofInt w (x.toInt * y.toInt / 2 ^ w)),
        (.vmulhu d a b p e, fun x y _ => BitVec.ofNat w (x.toNat * y.toNat / 2 ^ w)),
        (.vmacc d a b p e, fun x y z => z + x * y),
        (.vmin d a b p e, fun x y _ => if x.toInt ≤ y.toInt then x else y),
        (.vmax d a b p e, fun x y _ => if x.toInt ≤ y.toInt then y else x),
        (.vminu d a b p e, fun x y _ => if x.toNat ≤ y.toNat then x else y),
        (.vmaxu d a b p e, fun x y _ => if x.toNat ≤ y.toNat then y else x),
        (.vand d a b p e, fun x y _ => x &&& y), (.vor d a b p e, fun x y _ => x ||| y),
        (.vxor d a b p e, fun x y _ => x ^^^ y), (.vandn d a b p e, fun x y _ => x &&& ~~~y),
        (.vsll d a b p e, fun x y _ => x <<< (y.toNat % w)), (.vsrl d a b p e, fun x y _ => x >>> (y.toNat % w)),
        (.vsra d a b p e, fun x y _ => x.sshiftRight (y.toNat % w)),
        (.vabs d a p e, fun x _ _ => if x.toInt < 0 then -x else x)]
        : List (Instr × (BitVec w → BitVec w → BitVec w → BitVec w))),
      ∃ t v, exec q.1 s = .next t ∧ VectorWroteV s t core n d v ∧
        Lanes w (s.me.p p) (s.me.v d) v fun i => q.2 (lane w (s.me.v a) i) (lane w (s.me.v b) i) (lane w (s.me.v d) i)

/-- R145: a compare writes its relation to the byte lanes of each active element of P[d], and zeros elsewhere; P0 discards it. -/
def Obligations.VectorCompareResults : Prop :=
  ∀ (s : State) (core n : Nat) (d : BitVec 3) (a b : BitVec 5) (p : BitVec 3) (e : BitVec 2), VecRoom s core n →
    Ready s [.v a, .v b] →
    let w := widthOf e
    let f := fpOf e
    let num := fun (x : BitVec w) => decodeF f x.toNat
    let ok := fun (x y : BitVec w) => !(num x).isNaN && !(num y).isNaN
    let does := fun (q : Instr × (BitVec w → BitVec w → Bool)) =>
      ∃ t v, exec q.1 s = .next t ∧ VectorWroteP s t core n d v ∧
        Related w (s.me.p p) v fun i => q.2 (lane w (s.me.v a) i) (lane w (s.me.v b) i)
    (∀ q ∈ ([(.vcmpeq d a b p e, fun x y => x == y), (.vcmpne d a b p e, fun x y => x != y),
        (.vcmplt d a b p e, fun x y => decide (x.toInt < y.toInt)),
        (.vcmpltu d a b p e, fun x y => decide (x.toNat < y.toNat)),
        (.vcmple d a b p e, fun x y => decide (x.toInt ≤ y.toInt)),
        (.vcmpleu d a b p e, fun x y => decide (x.toNat ≤ y.toNat))] : List (Instr × (BitVec w → BitVec w → Bool))),
      does q) ∧
    (e ≠ 0 → ∀ q ∈ ([(.vfcmpeq d a b p e, fun x y => ok x y && !ltV (num x) (num y) && !ltV (num y) (num x)),
        (.vfcmplt d a b p e, fun x y => ok x y && ltV (num x) (num y)),
        (.vfcmple d a b p e, fun x y => ok x y && !ltV (num y) (num x)),
        (.vfcmpun d a b p e, fun x y => !ok x y)] : List (Instr × (BitVec w → BitVec w → Bool))), does q)

/-- R150 and Table 6-6: moves between lanes, lanes of X registers, predicates and FMT registers. -/
def Obligations.VectorMoveResults : Prop :=
  ∀ (s : State) (core n : Nat) (d a b : BitVec 5) (p dp ap bp : BitVec 3) (q : BitVec 4) (e : BitVec 2), VecRoom s core n →
    let w := widthOf e
    let pick := fun (m : Nat) => m % (512 / w)
    let lanes := fun (i : Instr) (f : Nat → BitVec w) =>
      ∃ t v, exec i s = .next t ∧ VectorWroteV s t core n d v ∧ Lanes w (s.me.p p) (s.me.v d) v f
    (Ready s [.v a, .v d] → lanes (.vmov d a p e) fun i => lane w (s.me.v a) i) ∧
    (Ready s [.x a, .v d] → lanes (.vsplat d a p e) fun _ => (s.me.x a).setWidth w) ∧
    (Ready s [.v a, .v b, .v d] →
      lanes (.vpermv d a b p e) fun i => lane w (s.me.v a) (pick (lane w (s.me.v b) i).toNat)) ∧
    (Ready s [.v d] → lanes (.viota d p e) fun i => BitVec.ofNat w i) ∧
    (Ready s [.x a, .x b, .v d] → ∃ t v, exec (.vins d a b e) s = .next t ∧ VectorWroteV s t core n d v ∧ ∀ i, i < 512 / w →
      lane w v i = if i = pick (s.me.x b).toNat then (s.me.x a).setWidth w else lane w (s.me.v d) i) ∧
    (Ready s [.v a, .x b, .x d] → ∃ t, exec (.vext d a b e) s = .next t
      ∧ VectorWroteX s t core n d ((lane w (s.me.v a) (pick (s.me.x b).toNat)).signExtend 64)) ∧
    (Ready s [] → ∀ r ∈ ([(.pand dp ap bp, s.me.p ap &&& s.me.p bp), (.por dp ap bp, s.me.p ap ||| s.me.p bp),
        (.pxor dp ap bp, s.me.p ap ^^^ s.me.p bp), (.pandn dp ap bp, s.me.p ap &&& ~~~s.me.p bp)] : List (Instr × Word)),
      ∃ t, exec r.1 s = .next t ∧ VectorWroteP s t core n dp r.2) ∧
    (Ready s [.x a] → (∃ t, exec (.pmovx dp a) s = .next t ∧ VectorWroteP s t core n dp (s.me.x a)) ∧
      ∃ t, exec (.fmtw q a) s = .next t ∧ t.me.regs.x = s.me.regs.x
        ∧ ∀ m, t.me.fmt m = if m = q then (s.me.x a).setWidth 32 else s.me.fmt m) ∧
    (Ready s [.x d] → ∀ r ∈ ([(.pmovp d ap, s.me.p ap), (.fmtr d q, (s.me.fmt q).setWidth 64),
        (.pcnt d ap e, BitVec.ofNat 64 (((upFrom 0 (512 / w)).filter fun i => (s.me.p ap).getLsbD (i * (w / 8))).length))]
        : List (Instr × Word)),
      ∃ t, exec r.1 s = .next t ∧ VectorWroteX s t core n d r.2)

/-- The value of a finite number as a whole number of units of 2^`k`. -/
def Sys2Proof.Claims.inUnit (k : Int) (neg : Bool) (m : Nat) (e : Int) : Int :=
  (if neg then -1 else 1) * (m * 2 ^ (e - k).toNat : Nat)

/-- `n` units of 2^`q` are the number m × 2^e of a sign rounded to a whole number of those units in a mode, with the draw `d` of RSR
(Table 4-7, R99). -/
def Sys2Proof.Claims.Rounds (mode : RMode) (d : Nat) (neg : Bool) (m : Nat) (e : Int) (n : Nat) (q : Int) : Prop :=
  let k := min e q
  let x : Nat := m * 2 ^ (e - k).toNat
  let u : Nat := 2 ^ (q - k).toNat
  let y : Nat := n * u
  let down := y ≤ x ∧ x < y + u
  let up := x ≤ y ∧ y < x + u
  match mode with
  | .rne => 2 * x ≤ 2 * y + u ∧ 2 * y ≤ 2 * x + u ∧ (2 * x = 2 * y + u ∨ 2 * y = 2 * x + u → n % 2 = 0)
  | .rz => down
  | .rd => if neg then up else down
  | .ru => if neg then down else up
  | .rsr => ∃ t rest, rest < u ∧ x = t * u + rest ∧ n = t + if rest ≠ 0 ∧ 2 ^ 32 ≤ rest * 2 ^ 32 / u + d then 1 else 0

/-- The result of a finite overflow of an IEEE-encoded format without SAT, whose largest value is `F` (Table 4-8). -/
def Sys2Proof.Claims.overflows (mode : RMode) (neg : Bool) (F : Bool → FVal) : FVal :=
  match mode with
  | .rne => .inf neg
  | .rsr => .inf neg
  | .rz => F neg
  | .rd => if neg then .inf true else F false
  | .ru => if neg then F true else .inf false

/-- R97 to R99: Round into the IEEE-encoded formats.  A finite value is rounded to the precision of the format, with subnormals, in its
mode; it is inexact when that changed it, tiny when the value rounded with an unbounded exponent range is below the least normal
value, and a finite overflow when it passes the largest value.  NaN and infinities stay. -/
def Sys2Proof.Claims.RoundIsRight : Prop :=
  ∀ f ∈ [fp16, bf16, fp32, fp64], ∀ (mode : RMode) (d : Nat), d < 2 ^ 32 →
    roundF f mode false d .nan = (.nan, 0) ∧ (∀ neg, roundF f mode false d (.inf neg) = (.inf neg, 0)) ∧
    (∀ neg e, (roundF f mode false d (.fin neg 0 e)) = (.fin neg 0 0, 0)) ∧
    ∀ (neg : Bool) (m : Nat) (e : Int), 0 < m →
      let r := roundF f mode false d (.fin neg m e)
      let top := e + m.log2
      let emin : Int := 1 - f.bias
      let q := max (top - f.m) (emin - f.m)
      let eF : Int := f.bias - f.m
      let F := fun (neg : Bool) => FVal.fin neg (2 ^ (f.m + 1) - 1) eF
      ∃ n, Rounds mode d neg m e n q ∧ n ≤ 2 ^ (f.m + 1) ∧
        if inUnit (min q eF) false (2 ^ (f.m + 1) - 1) eF < inUnit (min q eF) false n q then
          r = (overflows mode neg F, 5)
        else
          let inexact := inUnit (min e q) false n q ≠ inUnit (min e q) false m e
          r.1 = .fin neg n q ∧ r.2.getLsbD 3 = false ∧ r.2.getLsbD 2 = false ∧ (r.2.getLsbD 0 = true ↔ inexact)
            ∧ ∃ n0, Rounds mode d neg m e n0 (top - f.m) ∧
              (r.2.getLsbD 1 = true ↔ inexact ∧ top < emin ∧ n0 < 2 ^ (emin - top + f.m).toNat)

/-- `t` in units of 2^h stands for a positive number whose place among the multiples of the unit `below` and `above` say: an even `t` is
the number, and an odd one says that the number lies strictly between its neighbours.  With at least 129 bits in `t`, more than any
rounding looks at, that number rounds as `t` does. -/
def Sys2Proof.Claims.StandsFor (t : Nat) (equals : Nat → Prop) (below above : Nat → Prop) : Prop :=
  2 ^ 128 ≤ t ∧ (t % 2 = 0 → equals t) ∧ (t % 2 = 1 → above (t - 1) ∧ below (t + 1))

/-- R101, R146: the quotients and square roots that VFDIV and VFSQRT round stand for the exact ones: x / y = t × 2^h, and √x = t × 2^h, or
strictly between (t − 1) × 2^h and (t + 1) × 2^h.  0 / 0, ∞ / ∞ and the root of a negative number give NaN and NV. -/
def Sys2Proof.Claims.QuotientsAndRootsAreExact : Prop :=
  (∀ x, divV .nan x = (.nan, 0) ∧ divV x .nan = (.nan, 0)) ∧ sqrtV .nan = (.nan, 0) ∧
  (∀ a b m e, divV (.inf a) (.inf b) = (.nan, 8) ∧ divV (.inf a) (.fin b m e) = (.inf (a != b), 0)
    ∧ divV (.fin b m e) (.inf a) = (.fin (b != a) 0 0, 0) ∧ sqrtV (.inf a) = (if a then (.nan, 8) else (.inf false, 0))
    ∧ sqrtV (.fin a 0 e) = (.fin a 0 0, 0) ∧ (m ≠ 0 → sqrtV (.fin true m e) = (.nan, 8))) ∧
  (∀ a m e b g, divV (.fin a m e) (.fin b 0 g) = if m = 0 then (.nan, 8) else (.inf (a != b), 0)) ∧
  (∀ a e b n g, n ≠ 0 → divV (.fin a 0 e) (.fin b n g) = (.fin (a != b) 0 0, 0)) ∧
  (∀ a m e b n g, 0 < m → 0 < n → ∃ (t j : Nat) (h : Int), divV (.fin a m e) (.fin b n g) = (.fin (a != b) t h, 0) ∧ e - g = h + j ∧
    StandsFor t (fun k => m * 2 ^ j = k * n) (fun k => m * 2 ^ j < k * n) (fun k => k * n < m * 2 ^ j)) ∧
  ∀ m e, 0 < m → ∃ (t j : Nat) (h : Int), sqrtV (.fin false m e) = (.fin false t h, 0) ∧ e = 2 * h + j ∧
    StandsFor t (fun k => m * 2 ^ j = k * k) (fun k => m * 2 ^ j < k * k) (fun k => k * k < m * 2 ^ j)

/-- R101: the exact sums, products and fused sums that arithmetic rounds, and minimum and maximum.  A NaN operand gives NaN and no
flag; ∞ − ∞ and 0 × ∞ give NaN and NV; the sign of an exact zero sum is that of IEEE 754. -/
def Sys2Proof.Claims.ArithmeticIsExact : Prop :=
  ∀ (mode : RMode),
    (∀ x, addV mode .nan x = (.nan, 0) ∧ addV mode x .nan = (.nan, 0) ∧ mulV .nan x = (.nan, 0) ∧ mulV x .nan = (.nan, 0)) ∧
    (∀ a b, addV mode (.inf a) (.inf b) = (if a = b then (.inf a, 0) else (.nan, 8))
      ∧ mulV (.inf a) (.inf b) = (.inf (a != b), 0)) ∧
    (∀ a b m e, addV mode (.inf a) (.fin b m e) = (.inf a, 0) ∧ addV mode (.fin b m e) (.inf a) = (.inf a, 0)
      ∧ mulV (.inf a) (.fin b m e) = (if m = 0 then (.nan, 8) else (.inf (a != b), 0))
      ∧ mulV (.fin b m e) (.inf a) = (if m = 0 then (.nan, 8) else (.inf (a != b), 0))) ∧
    (∀ a m e b n g, mulV (.fin a m e) (.fin b n g) = (.fin (a != b) (m * n) (e + g), 0) ∧
      let k := min e g
      let sum := inUnit k a m e + inUnit k b n g
      ∃ c t h, addV mode (.fin a m e) (.fin b n g) = (.fin c t h, 0) ∧ (sum ≠ 0 → h = k ∧ inUnit k c t h = sum) ∧
        (sum = 0 → t = 0 ∧ c = if m = 0 ∧ n = 0 ∧ a = b then a else mode == .rd)) ∧
    (∀ x y z, z ≠ .nan → fmaV mode x y z = ((addV mode (mulV x y).1 z).1, (mulV x y).2 ||| (addV mode (mulV x y).1 z).2)) ∧
    (∀ x y, fmaV mode x y .nan = (.nan, 0)) ∧
    ∀ (big : Bool) (x y : FVal), pickV big .nan y = y ∧ pickV big x .nan = x ∧
      (x ≠ .nan → y ≠ .nan → (pickV big x y = x ∨ pickV big x y = y) ∧
        (ltV x y = true → pickV big x y = if big then y else x) ∧ (ltV y x = true → pickV big x y = if big then x else y) ∧
        ∀ e g, x = .fin true 0 e → y = .fin false 0 g → pickV big x y = (if big then y else x) ∧ pickV big y x = if big then y else x)

/-- R99 to R102, R142, R146: a floating word rounds the exact result of each active lane once in its mode, ORs its flags into
C.FSTAT, and draws once in RSR. -/
def Sys2Proof.Claims.FloatLanes : Prop :=
  ∀ (s : State) (core n : Nat) (d a b : BitVec 5) (p : BitVec 3) (e : BitVec 2) (r : BitVec 3), VecRoom s core n → e ≠ 0 → r < 5 →
    let w := widthOf e
    let f := fpOf e
    let num := fun (v : VReg) (i : Nat) => decodeF f (lane w v i).toNat
    let does := fun (i : Instr) (m : RMode) (op : FVal → FVal → FVal → FVal × Flags) =>
      let out := fun (i : Nat) =>
        let x := op (num (s.me.v a) i) (num (s.me.v b) i) (num (s.me.v d) i)
        (roundF f m false (s.me.drawAt i) x.1, x.2)
      let on := (upFrom 0 (512 / w)).filter fun i => active (s.me.p p) w i
      ∃ t v, exec i s = .next t ∧ t.me.v d = v
        ∧ (Lanes w (s.me.p p) (s.me.v d) v fun i => BitVec.ofNat w (encodeF f (out i).1.1))
        ∧ t.me.sp.fstat = s.me.sp.fstat ||| (on.foldl (fun acc i => acc ||| ((out i).2 ||| (out i).1.2)) (0 : Flags)).setWidth 64
        ∧ (t.me.sp.seed = if m = .rsr ∧ on ≠ [] then toWord (s.me.sp.seed.toNat / 2 ^ 32 * 2 ^ 32
            + (s.me.sp.seed.toNat + 1) % 2 ^ 32) else s.me.sp.seed)
        ∧ t.me.regs.x = s.me.regs.x ∧ (∀ m, m ≠ d → t.me.v m = s.me.v m) ∧ t.me.ctl = s.me.ctl.advance
    (Ready s [.v a, .v b, .v d] → does (.vfadd d a b p e r) (modeOf r) (fun x y _ => addV (modeOf r) x y)
      ∧ does (.vfsub d a b p e r) (modeOf r) (fun x y _ => addV (modeOf r) x (negV y))
      ∧ does (.vfmul d a b p e r) (modeOf r) (fun x y _ => mulV x y)
      ∧ does (.vfdiv d a b p e r) (modeOf r) (fun x y _ => divV x y)
      ∧ does (.vfma d a b p e r) (modeOf r) (fun x y z => fmaV (modeOf r) x y z)
      ∧ does (.vfmin d a b p e) .rne (fun x y _ => (pickV false x y, 0))
      ∧ does (.vfmax d a b p e) .rne (fun x y _ => (pickV true x y, 0))) ∧
    (Ready s [.v a, .v d] → does (.vfsqrt d a p e r) (modeOf r) fun x _ _ => sqrtV x)

/-- R94, R99, R102, R147 to R149: VCVT converts the elements that its predicate selects by its two descriptors, keeps every other bit
of V[d], ORs the flags into C.FSTAT and draws once in RSR.  A descriptor that R94 refuses, that names I4G or block scales, or a
destination of KIND 8, and a part that the widths do not have, raise FORMAT; which of two refused descriptors C.FADDR holds is the
model's choice (log entry 122). -/
def Sys2Proof.Claims.ConversionResults : Prop :=
  ∀ (s : State) (core n : Nat) (d a : BitVec 5) (p k : BitVec 3) (part : BitVec 4), VecRoom s core n → Alone s [.v a, .v d] →
    let src := s.me.fmt (k.setWidth 4 <<< 1)
    let dst := s.me.fmt (k.setWidth 4 <<< 1 ||| 1)
    let ws := fWidth src
    let wd := fWidth dst
    let cnt := vcvtCount ws wd
    let srcBad := fKind src = 7 ∨ fMx src ≠ 0
    let dstBad := fKind dst = 7 ∨ fKind dst = 8 ∨ fMx dst ≠ 0
    ∀ q ∈ ([(.vcvt d a k p part, false), (.vcvtS d a k p part, true)] : List (Instr × Bool)),
      let refused := fun (f : Word) => ∃ t, exec q.1 s = .next t ∧ Trapped s t 0x17 f
      (fmtBad src = true → refused (src.setWidth 64)) ∧
      (fmtBad src = false → fmtBad dst = true → refused (dst.setWidth 64)) ∧
      (fmtBad src = false → fmtBad dst = false → srcBad → refused (src.setWidth 64)) ∧
      (fmtBad src = false → fmtBad dst = false → ¬ srcBad → dstBad → refused (dst.setWidth 64)) ∧
      (fmtBad src = false → fmtBad dst = false → ¬ srcBad → ¬ dstBad →
        (vcvtPartBad ws wd part.toNat = true → refused (part.setWidth 64)) ∧
        (vcvtPartBad ws wd part.toNat = false →
          let on := (upFrom 0 cnt).filter fun i => (s.me.p p).getLsbD i
          let place := fun (i : Nat) => sideOffset cnt wd part.toNat + i * wd
          let out := fun (i : Nat) => convertElem (numFmt src) dst q.2 (s.me.drawAt i)
            ((s.me.v a).toNat / 2 ^ (sideOffset cnt ws part.toNat + i * ws) % 2 ^ ws)
          ∃ t, exec q.1 s = .next t ∧ t.me.ctl = s.me.ctl.advance ∧ t.me.regs.x = s.me.regs.x
            ∧ (∀ m, m ≠ d → t.me.v m = s.me.v m)
            ∧ (∀ i ∈ on, (t.me.v d).toNat / 2 ^ place i % 2 ^ wd = (out i).1 % 2 ^ wd)
            ∧ (∀ j, j < 512 → (∀ i ∈ on, ¬ (place i ≤ j ∧ j < place i + wd)) → (t.me.v d).getLsbD j = (s.me.v d).getLsbD j)
            ∧ t.me.sp.fstat = s.me.sp.fstat ||| (on.foldl (fun acc i => acc ||| (out i).2) (0 : Flags)).setWidth 64
            ∧ t.me.sp.seed = if fRm dst = 4 ∧ on ≠ [] then toWord (s.me.sp.seed.toNat / 2 ^ 32 * 2 ^ 32
                + (s.me.sp.seed.toNat + 1) % 2 ^ 32) else s.me.sp.seed))

/-- `FloatLanes` and `ConversionResults`: the words; `RoundIsRight`, `ArithmeticIsExact` and `QuotientsAndRootsAreExact`: the numbers that
they compute with. -/
def Obligations.VectorFloatResults : Prop :=
  FloatLanes ∧ ConversionResults ∧ RoundIsRight ∧ ArithmeticIsExact ∧ QuotientsAndRootsAreExact

/-- R152, R153: reductions of the active lanes of V[a] into X[d], from the identity of each operation. -/
def Obligations.VectorReductionResults : Prop :=
  ∀ (s : State) (core n : Nat) (d a : BitVec 5) (p : BitVec 3) (e : BitVec 2), VecRoom s core n → Ready s [.v a, .x d] →
    let w := widthOf e
    let on := (upFrom 0 (512 / w)).filter fun i => active (s.me.p p) w i
    let sgn := on.map fun i => (lane w (s.me.v a) i).toInt
    let uns := on.map fun i => ((lane w (s.me.v a) i).toNat : Int)
    let nums := on.map fun i => decodeF (fpOf e) (lane w (s.me.v a) i).toNat
    (∀ r ∈ ([(.vredadd d a p e, sgn.sum), (.vredaddu d a p e, uns.sum),
        (.vredmin d a p e, sgn.foldl (fun x y => if y < x then y else x) (2 ^ (w - 1) - 1)),
        (.vredmax d a p e, sgn.foldl (fun x y => if x < y then y else x) (-(2 ^ (w - 1)))),
        (.vredminu d a p e, uns.foldl (fun x y => if y < x then y else x) (2 ^ w - 1)),
        (.vredmaxu d a p e, uns.foldl (fun x y => if x < y then y else x) 0)] : List (Instr × Int)),
      ∃ t, exec r.1 s = .next t ∧ VectorWroteX s t core n d (BitVec.ofInt 64 r.2)) ∧
    (e ≠ 0 → ∀ r ∈ ([(.vfredmin d a p e, false), (.vfredmax d a p e, true)] : List (Instr × Bool)),
      ∃ t, exec r.1 s = .next t ∧ VectorWroteX s t core n d (toWord (encodeF (fpOf e) (nums.foldl (pickV r.2) .nan)))) ∧
    ∀ r, r < (5 : BitVec 3) → e ≠ 0 →
      let all := (upFrom 0 (512 / w)).map fun i =>
        if active (s.me.p p) w i then decodeF (fpOf e) (lane w (s.me.v a) i).toNat else .fin true 0 0
      let tree := addTree (fpOf e) (modeOf r) s.me.drawAt (512 / w).log2 0 all
      ∃ t, exec (.vfredadd d a r p e) s = .next t ∧ t.me.ctl = s.me.ctl.advance
        ∧ (∀ m, t.me.x m = if m = d ∧ d ≠ 0 then toWord (encodeF (fpOf e) tree.1) else s.me.x m)
        ∧ t.me.sp.fstat = s.me.sp.fstat ||| tree.2.setWidth 64

/-- R154 to R158, R173: a gather makes a load for each part of each active element, in order, and holds its slot until they land; a
scatter makes a store for each, in order, and goes on; an element that straddles two pages has two parts, and all are ordered by the
strongest kind of page among them.  With no active element each only clears C.PROG.  Where an element is refused, those
before it are accessed all the same, and the trap has that element's number in C.PROG: a gather takes it once they have landed, a
scatter at once. -/
def Sys2Proof.Claims.ElementsIssue : Prop :=
  ∀ (s : State) (core n : Nat) (bd : Binding) (sp : VSpace) (d a b : BitVec 5) (p : BitVec 3) (e : BitVec 2)
    (P : Nat → List Part) (js post : List Nat) (stop : Option (Nat × Nat × Word)), OnCore s core n bd →
    Alone s [.v a, .x b, .v d] → (sp = .global → s.me.act.ctl.getLsbD 63 = false) →
    let all := (js.mapIdx fun i j => (P j).map fun q => (i, q)).flatten
    let page := strongestOf (all.map Prod.snd)
    (page = .so → s.soPending s.cur = false) → s.me.vmemElems p e = js ++ post →
    let tlb := fun (q : Part) => if q.page = .cellar then none else some q.ent
    let recordOf := fun (i : Nat) => s.nextId + i + ((js.take i).map fun j => (P j).length).sum
    let loadId := fun (k : Nat) => s.nextId + k + (match all[k]? with
      | some q => q.1 + 1
      | none => 0)
    let before := fun (k : Nat) (first : Option Nat) (id : Nat → Nat) => if k = 0 then first else some (id (k - 1))
    let dataOf := fun (i : Nat) (q : Part) =>
      let bytes := toBytes (elemBytes e) (lane (widthOf e) (s.me.v d) (js.getD i 0)).toNat
      let first := match P (js.getD i 0) with
        | r :: _ => r.va
        | [] => 0
      (bytes.drop (q.va - first)).take q.n
    let empties := match sp with
      | .own => false
      | .cellar => all.any fun q => decide (caRole q.2.va ≠ bd.role)
      | .global => true
    let parts := s.elemParts s.cur sp
    let at_ := fun (j : Nat) => elemAddr (s.me.x b) (s.me.v a) e j
    let passes := fun (kind : AccessKind) => (∀ j ∈ js, parts (at_ j) (elemBytes e) kind = .ok (P j)) ∧
      match stop with
      | none => post = []
      | some (j, c, f) => post.head? = some j ∧ c ≠ 0x01 ∧ c ≠ 0x07 ∧ ∃ va, parts (at_ j) (elemBytes e) kind = .trap c va
          ∧ f = toWord va
    let isOver := { s.me with trap := { s.me.trap with prog := 0 }, ctl := s.me.ctl.advance }
    (passes .load → ∃ t, exec (gatherOf sp d a b p e) s = .next t ∧
      if js = [] then
        match stop with
        | none => OnlyMine s t isOver
        | some (j, c, f) => TrappedWith s t c f (toWord j)
      else Reached sp s t (markedV d empties { s.me with
        queue := s.me.queue ++ all.mapIdx fun k q => ⟨loadId k, false, false, page, q.2.va,
          .load (recordOf q.1) q.2.loc q.2.n s.me.act.buffer.length, before k none loadId, tlb q.2⟩
        loads := s.me.loads ++ js.mapIdx fun i j => ⟨recordOf i, .elem d (elemBytes e) j,
          (upFrom 0 (P j).length).map fun h => (recordOf i + 1 + h, none), none, none, page == .so, none, none⟩
        ctl := { s.me.ctl with hold := some (.gather d empties ((upFrom 0 js.length).map recordOf) stop) } })) ∧
    ((s.me.act.source = 0 → d.toNat < 24) → passes .store →
      let queue := s.me.queue ++ all.mapIdx fun k q => ⟨s.nextId + k, false, false, page, q.2.va,
        .store q.2.loc (dataOf q.1 q.2) none false, before k s.me.scatter fun k => s.nextId + k, tlb q.2⟩
      ∃ t, exec (scatterOf sp d a b p e) s = .next t ∧
        match stop with
        | none => Reached sp s t { isOver with queue := queue, scatter := none }
        | some (j, c, f) => t.me.queue = queue ∧ t.me.trap = trapRegs s.me s.me.sp.pl c f (toWord j)
            ∧ t.me.ctl.status = .parked ∧ t.me.regs = s.me.regs ∧ ∀ p, t.readLoc p = s.readLoc p)

/-- R156, R158, R173: the load of a part of a gather's element is performed: with the last of its parts the element is in V[d], and no
other byte of it is changed; until then nothing of it is.  With the last element the gather completes, C.PROG zero and V[d] full, or takes
the trap of the element that stopped it, with its number in C.PROG. -/
def Sys2Proof.Claims.ElementsLand : Prop :=
  ∀ (s : State) (core n id r w j m seen : Nat) (d : BitVec 5) (e : Entry) (loc : Loc) (emptied so : Bool) (recs : List Nat)
    (parts : List (Nat × Option (List Byte))) (stop : Option (Nat × Nat × Word)), s.entryReady (.slot core n) id = some e →
    let g := Agent.slot core n
    let c := s.ctx g
    e.what = .load r loc m seen → c.loadOf? r = some ⟨r, .elem d w j, parts, none, none, so, none, none⟩ → (id, none) ∈ parts →
    c.ctl.status = .running → c.ctl.hold = some (.gather d emptied recs stop) → c.act.buffer = [] → earlier c.queue id = [] →
    s.noRoute loc = false → (∀ i, i < m → s.poisonAt (loc.add i) 1 = none) → j * w + w ≤ 64 →
    let bytes := (upFrom 0 m).map fun i => (s.readLoc (loc.add i)).getD 0
    let read := fun (ps : List (Nat × Option (List Byte))) => ps.map fun x => if x.1 = id then (id, some bytes) else x
    let got := read parts
    let data := (got.map fun x => x.2.getD []).flatten
    let rest := recs.filter (· ≠ r)
    ∃ t, exec (.performLoad g id) s = .next t ∧ let c' := t.ctx g
      c'.queue = c.queue.filter (fun e => decide (e.id ≠ id)) ∧ (∀ b, b ≠ g → t.ctx b = s.ctx b)
      ∧ ((∃ x ∈ got, x.2 = none) → c'.regs = c.regs ∧ c'.ctl = c.ctl ∧ c'.trap = c.trap
          ∧ c'.loads = c.loads.map fun x => if x.id = r then { x with parts := read x.parts } else x) ∧
      ((∀ x ∈ got, x.2 ≠ none) → (∀ i, i < 64 → lane 8 (c'.v d) i
          = if j * w ≤ i ∧ i < j * w + w then data.getD (i - j * w) 0 else lane 8 (c.v d) i)
      ∧ (rest ≠ [] → c'.ctl = { c.ctl with hold := some (.gather d emptied rest stop) })
      ∧ (rest = [] → (emptied = true → c'.isEmpty (.v d) = false) ∧
          match stop with
          | none => c'.ctl = c.ctl.advance ∧ c'.trap = { c.trap with prog := 0 }
          | some (k, cause, f) => cause ≠ 0x01 → cause ≠ 0x07 →
            c'.trap = trapRegs c c.sp.pl cause f (toWord k) ∧ c'.ctl.status = .parked))

/-- `ElementsIssue` and `ElementsLand`: gathers and scatters as they issue, and as a gather's elements land. -/
def Obligations.GathersAndScatters : Prop :=
  ElementsIssue ∧ ElementsLand

/-! ### Tiles -/

/-- One level of the tree of R164 in FP32, with its flags: adjacent values added and rounded, an odd last value passing up. -/
def Sys2Proof.Claims.treeLevel (p : List FVal × Flags) : List FVal × Flags :=
  let sum := fun (h : Nat) =>
    let x := addV .rne (p.1.getD (2 * h) .nan) (p.1.getD (2 * h + 1) .nan)
    let y := roundF fp32 .rne false 0 x.1
    (y.1, x.2 ||| y.2)
  let pairs := (upFrom 0 (p.1.length / 2)).map sum
  (pairs.map Prod.fst ++ (if p.1.length % 2 = 1 then [p.1.getLastD .nan] else []),
    pairs.foldl (fun acc y => acc ||| y.2) p.2)

/-- The FP32 element of TMAC and its flags: the exact products, the tree over them, and one rounded sum into the element (R164). -/
def Sys2Proof.Claims.fpElement (old : BitVec 32) (prods : List (BitVec 32 × BitVec 32)) : BitVec 32 × Flags :=
  let ps := prods.map fun p => mulV (decodeF fp32 p.1.toNat) (decodeF fp32 p.2.toNat)
  let top := Nat.repeat treeLevel 4 (ps.map Prod.fst, ps.foldl (fun acc p => acc ||| p.2) 0)
  let x := addV .rne (decodeF fp32 old.toNat) (top.1.headD .nan)
  let y := roundF fp32 .rne false 0 x.1
  (BitVec.ofNat 32 (encodeF fp32 y.1), top.2 ||| x.2 ||| y.2)

/-- R160 to R164 and Table 6-9: what each TILE word does with tiles that are resident for its slot; TMAC multiplies in integers or in
FP32, whose flags it ORs into C.FSTAT.
R160, R161, R163: TSHAPE takes a zeroed tile; a slot that held it dirty posts a save of its rows to its SAVE area, and its
view becomes OUT. -/
def Sys2Proof.Claims.TilesResident : Prop :=
  (∀ (s : State) (core n : Nat) (d a b : BitVec 3) (x y : BitVec 5) (k m : BitVec 1) (w : Word), VecRoom s core n → NoFrame s →
      n < 8 → Resident s d w →
      let u := (s.core core).tile d.toNat
      let next := { s.me with ctl := s.me.ctl.advance }
      let X := (s.me.x y).toNat
      let cells := fun (f : Nat → Nat → BitVec 32) (v : Tile) => v.owner = u.owner ∧ v.dirty = true ∧
        ∀ r c, r < 16 → c < 16 → v.at r c = f r c
      let row := fun (f : Nat → BitVec 32) (bound : Nat) (v : VReg) =>
        ∀ i, i < 16 → lane 32 v i = if i < bound then f i else 0
      (Ready s [] → (∃ t v, exec (.tzero d) s = .next t ∧ TileBecame s t core n d next v ∧ cells (fun _ _ => 0) v)
        ∧ ∃ t, exec (.trel d) s = .next t ∧ TileBecame s t core n d (next.setView d ⟨0, 0⟩)
            (if u.owner = some n then { u with owner := none, dirty := false } else u)) ∧
      (Ready s [.v x, .x y] →
        (X < tRows w → ∃ t v, exec (.twrow d x y k m) s = .next t ∧ TileBecame s t core n d next v
          ∧ cells (fun r c => if r = X ∧ c < tCols w then lane 32 (s.me.v x) c else u.at r c) v) ∧
        (X < tCols w → ∃ t v, exec (.twcol d x y k m) s = .next t ∧ TileBecame s t core n d next v
          ∧ cells (fun r c => if c = X ∧ r < tRows w then lane 32 (s.me.v x) r else u.at r c) v)) ∧
      (Ready s [.v x, .x y] →
        (X < tRows w → ∃ t v, exec (.trdrow x d y m) s = .next t ∧ VectorWroteV s t core n x v
          ∧ row (fun i => u.at X i) (tCols w) v) ∧
        (X < tCols w → ∃ t v, exec (.trdcol x d y m) s = .next t ∧ VectorWroteV s t core n x v
          ∧ row (fun i => u.at i X) (tRows w) v)) ∧
      (Ready s [.x x] → ∃ t, exec (.tstat x d) s = .next t ∧ VectorWroteX s t core n x
        (toWord (2 ^ 63 + 2 ^ 62 + b2n u.dirty * 2 ^ 61 + w.toNat % 2 ^ 61))) ∧
      (Ready s [] → ∀ wa wb, Resident s a wa → Resident s b wb → tKind wa = tKind w → tKind wb = tKind w → tRows wa = tRows w →
        tCols wb = tCols w → tCols wa = tRows wb →
        let ta := (s.core core).tile a.toNat
        let tb := (s.core core).tile b.toNat
        let prods := fun (r c : Nat) => (upFrom 0 (tCols wa)).map fun i => (ta.at r i, tb.at i c)
        let inside := fun (r c : Nat) => decide (r < tRows w) && decide (c < tCols w)
        (tKind w = 1 → ∃ t v, exec (.tmac d a b) s = .next t ∧ TileBecame s t core n d next v ∧ cells (fun r c =>
          if inside r c then u.at r c + ((prods r c).map fun p => p.1 * p.2).foldr (· + ·) 0 else u.at r c) v) ∧
        (tKind w = 0 → ∃ t v c', exec (.tmac d a b) s = .next t ∧ TileBecame s t core n d c' v
          ∧ cells (fun r c => if inside r c then (fpElement (u.at r c) (prods r c)).1 else u.at r c) v
          ∧ c' = { next with sp := { next.sp with fstat := c'.sp.fstat } }
          ∧ ∀ f, f < 64 → (c'.sp.fstat.getLsbD f = true ↔ s.me.sp.fstat.getLsbD f = true ∨ ∃ r c, inside r c = true ∧
            f < 4 ∧ (fpElement (u.at r c) (prods r c)).2.getLsbD f = true))) ∧
      (Ready s [.v x, .x y] → (tRows w ≤ X → ∀ i ∈ [Instr.twrow d x y k m, .trdrow x d y m],
          ∃ t, exec i s = .next t ∧ Trapped s t 0x05 (s.me.x y)) ∧
        (tCols w ≤ X → ∀ i ∈ [Instr.twcol d x y k m, .trdcol x d y m], ∃ t, exec i s = .next t ∧ Trapped s t 0x05 (s.me.x y)))) ∧
  (∀ (s : State) (core n o : Nat) (b : Binding) (d : BitVec 3) (x : BitVec 5) (k : BitVec 1) (sh : Word),
      OnCore s core n b → VecRoom s core n → n < 8 → Alone s [.x x] → s.shapeBad (s.me.x x) = none → o < 8 → o ≠ n →
      let u := (s.core core).tile d.toNat
      let next := ({ s.me with ctl := s.me.ctl.advance }).setView d ⟨1, s.me.x x⟩
      let fresh : Tile := ⟨some n, true, Vector.replicate 256 0⟩
      (u.owner = none ∨ u.owner = some n → ∃ t, exec (.tshape d x k) s = .next t ∧ TileBecame s t core n d next fresh) ∧
      (u.owner = some o → u.dirty = true → (s.ctx (.slot core o)).view d = ⟨1, sh⟩ →
        let was := s.ctx (.slot core o)
        ∃ t, exec (.tshape d x k) s = .next t ∧ t.me = next ∧ (t.core core).tile d.toNat = fresh
          ∧ (t.ctx (.slot core o)).view d = ⟨2, sh⟩ ∧ (t.ctx (.slot core o)).regs = was.regs
          ∧ (t.ctx (.slot core o)).queue = was.queue ++ (saveRuns sh u).mapIdx fun i r =>
            ⟨s.nextId + i, false, false, .cellar, b.role * 2 ^ 18 + r.1, .store (.slice b.launch b.role r.1) r.2 none false, none,
              none⟩))

/-- R165: a TILE word other than TSHAPE, TREL and TSTAT that names a tile whose view is UNCONF raises TILE_UNCONF with its number; of
several, TMAC names the first of d, a, b, which is the model's choice (log entry 102).  A tile that is OUT is restored from its save
area first, and then the word acts; a poisoned word of that area raises POISON with its cellar address, the model's form of the
address (log entry 100), and leaves the tile resident for no slot. -/
def Sys2Proof.Claims.TilesTaken : Prop :=
  ∀ (s : State) (core n : Nat) (b : Binding) (d e f : BitVec 3) (x y : BitVec 5) (k m : BitVec 1), OnCore s core n b →
    VecRoom s core n → NoFrame s → n < 8 → Ready s [.v x, .x y] →
    let unconf := fun (t : BitVec 3) => (s.me.view t).state = 0
    let raises := fun (i : Instr) (t : BitVec 3) => ∃ u, exec i s = .next u ∧ Trapped s u 0x08 (t.setWidth 64)
    (unconf d → ∀ i ∈ [Instr.tzero d, .twrow d x y k m, .trdrow x d y m, .twcol d x y k m, .trdcol x d y m, .tmac d e f],
      raises i d) ∧
    (¬ unconf d → unconf e → raises (.tmac d e f) e) ∧ (¬ unconf d → ¬ unconf e → unconf f → raises (.tmac d e f) f) ∧
    ∀ w, s.me.view d = ⟨2, w⟩ → s.me.queue = [] →
      let X := (s.me.x y).toNat
      let u := (s.core core).tile d.toNat
      let save := wbits w 33 16
      let row := fun (r : Nat) => save + 64 + 64 * r
      X < tRows w → u.owner = none ∨ u.owner = some n →
      ((∀ r, r < tRows w → Clean s core (row r) (4 * tCols w)) →
        ∃ t v, exec (.trdrow x d y m) s = .next t ∧ t.me = ({ s.me.setV x v with ctl := s.me.ctl.advance }).setView d ⟨1, w⟩
          ∧ (∀ i, i < 16 → lane 32 v i
              = if i < tCols w then BitVec.ofNat 32 (fromBytes ((s.core core).slice.readN (row X + 4 * i) 4)) else 0)
          ∧ ((t.core core).tile d.toNat).owner = some n ∧ ((t.core core).tile d.toNat).dirty = false
          ∧ ∀ r c, r < 16 → c < 16 → ((t.core core).tile d.toNat).at r c
              = if r < tRows w ∧ c < tCols w then BitVec.ofNat 32 (fromBytes ((s.core core).slice.readN (row r + 4 * c) 4)) else 0) ∧
      ∀ r o, r < tRows w → (∀ q, q < r → Clean s core (row q) (4 * tCols w)) → row r ≤ o → o < row r + 4 * tCols w →
        o / 8 ∈ (s.core core).poisonWords → Clean s core (row r) (o - row r) → u.owner = none →
        ∃ t, exec (.trdrow x d y m) s = .next t ∧ Trapped s t 0x0A (toWord (b.role * 2 ^ 18 + o))

/-- R160 and Table 6-9: TSTAT and TREL of a tile whatever its view is.  TSTAT reads zero where it is UNCONF and the shape with bit 63 alone
where it is OUT; TREL leaves it UNCONF, and resident for no slot where it was resident for this one, with nothing saved. -/
def Sys2Proof.Claims.TilesAway : Prop :=
  ∀ (s : State) (core n : Nat) (d : BitVec 3) (x : BitVec 5), VecRoom s core n → NoFrame s → n < 8 →
    let v := s.me.view d
    let u := (s.core core).tile d.toNat
    (Ready s [.x x] → (v.state = 0 → ∃ t, exec (.tstat x d) s = .next t ∧ VectorWroteX s t core n x 0) ∧
      (v.state = 2 → ∃ t, exec (.tstat x d) s = .next t ∧ VectorWroteX s t core n x (toWord (2 ^ 63 + v.shape.toNat % 2 ^ 61)))) ∧
    (Ready s [] → ∃ t, exec (.trel d) s = .next t ∧ TileBecame s t core n d (({ s.me with ctl := s.me.ctl.advance }).setView d ⟨0, 0⟩)
      (if u.owner = some n then { u with owner := none, dirty := false } else u))

/-- `TilesResident`, `TilesTaken` and `TilesAway`: the TILE words on resident tiles, what taking a tile does, and the words that take
none. -/
def Obligations.TileWords : Prop :=
  TilesResident ∧ TilesTaken ∧ TilesAway

/-! ### Regions -/

namespace Sys2Proof.Claims

/-- As `Alone`, on a slot of a small core. -/
def OnSlot (s : State) (rs : List RegName) : Prop :=
  isSmall s.cur = true ∧ Alone s rs

/-- The register holds dense boxes of its rank, exactly. -/
def PlainQ (q : Region) : Prop :=
  q.isOver = false ∧ q.strided = false ∧ q.ragged = false ∧ ∀ b ∈ q.boxes, b.length = q.rank ∧ ∀ d ∈ b, d.st = 0

/-- The boxes have the register's rank, and STRIDED says whether one has a step. -/
def Shaped (q : Region) : Prop :=
  q.strided = q.boxes.any Box.stepped ∧ ∀ b ∈ q.boxes, b.length = q.rank

/-- The boxes have the register's rank and, dimension by dimension, bounds that are members (R194). -/
def TightQ (q : Region) : Prop :=
  Shaped q ∧ ∀ b ∈ q.boxes, ∀ d ∈ b, d.tight = some d

/-- The descriptor `desc` is what an instruction reads for an operand. -/
def Told (s : State) (q : Region) (num : Nat) (desc : Desc) : Prop :=
  ∀ f, s.withOperandDesc s.cur q num f = f desc

/-- A ragged operand's descriptor is read (R199). -/
def Readable (s : State) (q : Region) (num : Nat) : Prop :=
  q.ragged = true → ∃ desc, Told s q num desc

/-- Q[d] := r, and the step past the instruction; nothing else is changed. -/
def WroteQ (s t : State) (d : BitVec 4) (r : Region) : Prop :=
  OnlyMine s t ((s.me.setQ d r).advance)

/-- `j` is the smallest dense box around boxes of a rank: in each dimension its bounds hold theirs, and are the bounds of some
of them (R192, R205). -/
def IsBBox (rank : Nat) (boxes : List Box) (j : Box) : Prop :=
  j.length = rank ∧ ∀ (i : Nat) (v : Dim), j[i]? = some v → v.st = 0 ∧ v.ph = 0
    ∧ (∀ u ∈ boxes, ∀ z : Dim, u[i]? = some z → v.lo ≤ z.lo ∧ z.hi ≤ v.hi)
    ∧ (∃ u ∈ boxes, ∃ z : Dim, u[i]? = some z ∧ z.lo = v.lo) ∧ ∃ u ∈ boxes, ∃ z : Dim, u[i]? = some z ∧ z.hi = v.hi

/-- Slab canonical form (R191): slabs in rising order, each with a cross-section that is not empty and is itself in that form; slabs that
touch have different cross-sections. -/
def SlabForm : Nat → List Box → Prop
  | 0, l => l = [] ∨ l = [[]]
  | r + 1, l => ∃ slabs : List (Int × Int × List Box),
      l = slabs.flatMap (fun p => p.2.2.map fun (b : Box) => dense p.1 p.2.1 :: b)
        ∧ (∀ p ∈ slabs, p.1 < p.2.1 ∧ p.2.2 ≠ [] ∧ SlabForm r p.2.2)
        ∧ ∀ (i : Nat) (p q : Int × Int × List Box), slabs[i]? = some p → slabs[i + 1]? = some q →
          p.2.1 ≤ q.1 ∧ (p.2.1 = q.1 → p.2.2 ≠ q.2.2)

/-- The boxes `l` as a register gets them from Fit: all of them, or seven and the box around the rest, with OVER (R192). -/
def FitsAs (didx rank : Nat) (isOver : Bool) (l : List Box) (r : Region) : Prop :=
  if 8 < l.length then ∃ j, IsBBox rank (l.drop 7) j ∧ r = ⟨didx, rank, true, false, false, 0, 0, l.take 7 ++ [j]⟩
  else r = ⟨didx, rank, isOver, false, false, 0, 0, l⟩

/-- The boxes `l` as Q[d] gets them: eight of them at most, the last joined and OVER set where there are more; under the exact
form REGION_OVER instead (R192). -/
def Fitted (s : State) (i : Instr) (e : BitVec 1) (d : BitVec 4) (didx rank : Nat) (l : List Box) : Prop :=
  ∃ t, exec i s = .next t ∧
    if e = 1 ∧ 8 < l.length then Trapped s t 0x09 (toWord (0x100 + d.toNat))
    else ∃ r, FitsAs didx rank false l r ∧ WroteQ s t d r

/-- Coordinates added to a cell's. -/
def shift (c o : List Int) : List Int := (c.zip o).map fun p => p.1 + p.2

/-- The cells of dense boxes, box after box, the last coordinate fastest. -/
def cellsOf : Box → List (List Int)
  | [] => [[]]
  | d :: b => ((upFrom 0 (d.hi - d.lo).toNat).map fun (i : Nat) => d.lo + (i : Int)).flatMap fun i => (cellsOf b).map (i :: ·)

/-- The cells of a box that Cut keeps of its first `m` (R204): whole rows of dimension 0 where it has one, or else a cut of the first
row. -/
def cutCount : Box → Nat → Nat
  | [], _ => 0
  | [_], m => m
  | _ :: rest, m =>
    let row := (cellsOf rest).length
    if row ≤ m then m / row * row else cutCount rest m

/-- The cells in the first piece of at most `left` cells: whole boxes, then a cut of the next (R204). -/
def splitCount : List Box → Nat → Nat
  | [], _ => 0
  | b :: l, left =>
    let n := (cellsOf b).length
    if n ≤ left then n + splitCount l (left - n) else if 0 < left then cutCount b left else 0

/-- The boxes of a result: dense, of a rank, and each with cells. -/
def DenseBoxes (rank : Nat) (l : List Box) : Prop :=
  ∀ b ∈ l, b.length = rank ∧ ∀ d ∈ b, d.st = 0 ∧ d.lo < d.hi

/-- The three set operations. -/
def setOps (d a b : BitVec 4) (e : BitVec 1) : List (Instr × SetOp) :=
  [(.qand d a b e, .and), (.qor d a b e, .or), (.qsub d a b e, .sub)]

/-- The number of distinct cells of boxes of a rank. -/
def Counts (rank : Nat) (l : List Box) (n : Nat) : Prop :=
  ∃ cells : List (List Int), cells.Nodup ∧ cells.length = n ∧ ∀ c, c ∈ cells ↔ c.length = rank ∧ Box.within l c = true

end Sys2Proof.Claims

/-- R186, R191, R192, R200: on dense operands QAND, QOR and QSUB answer exactly the intersection, union and difference of their sets of
cells, in slab canonical form; past eight boxes of that form, seven of them and the box around the rest, marked OVER; under .X they trap
rather than answer a superset.  Two lists in that form with the same cells are the same list, so equal sets have equal registers. -/
def Obligations.RegionSetOperations : Prop :=
  (∀ (rank : Nat) (l l' : List Box), SlabForm rank l → SlabForm rank l' →
    (∀ c, c.length = rank → Box.within l c = Box.within l' c) → l = l') ∧
  ∀ (s : State) (d a b : BitVec 4) (e : BitVec 1), OnSlot s [] →
    let x := s.me.q a
    let y := s.me.q b
    PlainQ x → PlainQ y → x.rank = y.rank → ∀ p ∈ setOps d a b e, p.2 ≠ .or ∨ a ≠ b →
      ∃ l, SlabForm x.rank l ∧ Fitted s p.1 e d x.didx x.rank l
        ∧ ∀ c, c.length = x.rank → Box.within l c = p.2.keep (Box.within x.boxes c) (Box.within y.boxes c)

/-- R193 to R196, R199, R200: on any operands of one rank a set operation without .X answers no cell too few, OVER where its operands
are, and QOR and QSUB answer it in slab canonical form, fitted (R191, R192); QOR of a register with itself copies it (a STRIDED or RAGGED
one too, under .X as well: the model's choice, log entry 117); operands of different ranks raise FORMAT; and a set to be subtracted that
is not known exactly, or any such operand under .X, raises REGION_OVER with its Q number (qa's where both are such: the model's choice,
log entry 118). -/
def Obligations.RegionSupersets : Prop :=
  ∀ (s : State) (d a b : BitVec 4) (e : BitVec 1), OnSlot s [] →
    let x := s.me.q a
    let y := s.me.q b
    (x.rank ≠ y.rank → ∀ p ∈ setOps d a b e, ∃ t, exec p.1 s = .next t ∧ Trapped s t 0x17 (toWord b.toNat)) ∧
    (Readable s x a.toNat → Readable s y b.toNat → x.rank = y.rank →
      (Shaped x → Shaped y → ∀ p ∈ setOps d a b 0, (p.2 = .sub → PlainQ y) → ∃ t r, exec p.1 s = .next t ∧ WroteQ s t d r
        ∧ r.didx = x.didx ∧ r.rank = x.rank ∧ (x.isOver = true → r.isOver = true) ∧ (p.2 ≠ .sub → y.isOver = true → r.isOver = true)
        ∧ (p.2 ≠ .and → p.2 ≠ .or ∨ a ≠ b → ∃ l o, SlabForm x.rank l ∧ FitsAs x.didx x.rank o l r)
        ∧ ∀ c, c.length = x.rank → p.2.keep (Box.within x.boxes c) (Box.within y.boxes c) = true → Box.within r.boxes c = true) ∧
      (x.isOver = false ∨ e = 0 → ∃ t, exec (.qor d a a e) s = .next t ∧ WroteQ s t d x) ∧
      (y.isOver = true ∨ y.special = true → x.isOver = false → x.special = false →
        ∃ t, exec (.qsub d a b e) s = .next t ∧ Trapped s t 0x09 (toWord b.toNat)) ∧
      (x.isOver = true → ∀ p ∈ setOps d a b 1, ∃ t, exec p.1 s = .next t ∧ Trapped s t 0x09 (toWord a.toNat)))

/-- R201: QXLT moves every cell by the offsets in X[n], X[n+1], …, and refuses with PROTECT an offset that takes a box out of the
range of coordinates.  That the bounds of a RAGGED box count whether or not a cell lies there, and that a sum of RSH0 or RSHI wraps, are
the model's choices (log entries 119 and 120). -/
def Sys2Proof.Claims.RegionsMove : Prop :=
  ∀ (s : State) (d a : BitVec 4) (e : BitVec 1) (n : BitVec 5),
    let x := s.me.q a
    let w := fun (i : Nat) => s.me.x (n + BitVec.ofNat 5 i)
    let offs := (upFrom 0 x.rank).map fun i => ((w i).setWidth 32).toInt
    let fits := fun (i : Nat) (b : Box) => ∀ v, b[i]? = some v →
      -(2 ^ 31) ≤ v.lo + offs.getD i 0 ∧ v.hi + offs.getD i 0 ≤ 2 ^ 31 - 1
    OnSlot s ((upFrom 0 x.rank).map fun i => .x (n + BitVec.ofNat 5 i)) → x.rank ≤ 4 → TightQ x → Readable s x a.toNat →
    x.isOver = false ∨ e = 0 →
    ((∀ b ∈ x.boxes, ∀ i, fits i b) → ∃ t r, exec (.qxlt d a e n) s = .next t ∧ WroteQ s t d r
      ∧ r.boxes.length = x.boxes.length ∧ { r with boxes := x.boxes, rsh0 := x.rsh0, rshi := x.rshi } = x
      ∧ r.rsh0 = (if x.ragged then bound32 (x.rsh0 + offs.headD 0) else x.rsh0)
      ∧ r.rshi = (if x.ragged then bound32 (x.rshi + offs.getLastD 0) else x.rshi)
      ∧ ∀ c, c.length = x.rank → Box.within r.boxes (shift c offs) = Box.within x.boxes c) ∧
    ((∃ b ∈ x.boxes, ∃ i, ¬ fits i b) → ∃ t i b, exec (.qxlt d a e n) s = .next t ∧ b ∈ x.boxes ∧ ¬ fits i b
      ∧ Trapped s t 0x05 (w i))

/-- R202, R203, R204: dilation, projection and the first piece of a split of a dense region. -/
def Sys2Proof.Claims.RegionsDerive : Prop :=
  ∀ (s : State) (d a : BitVec 4) (e : BitVec 1) (n : BitVec 5) (m : BitVec 4),
    let x := s.me.q a
    let w := s.me.x n
    PlainQ x → DenseBoxes x.rank x.boxes → x.rank ≤ 4 →
    (OnSlot s [.x n] → ∀ desc, Told s x a.toNat desc → desc.ext.length = x.rank → (∀ k ∈ desc.ext, 0 < k) →
      let radius := fun (i : Nat) => ((w >>> (15 * i)).toNat % 2 ^ 15 : Int)
      let ext := fun (i : Nat) => (desc.ext.getD i 0 : Int)
      (∀ b ∈ x.boxes, ∀ i v, b[i]? = some v → -(2 ^ 31) ≤ v.lo - radius i ∧ v.hi + radius i ≤ 2 ^ 31 - 1) →
      ∃ l, SlabForm x.rank l ∧ Fitted s (.qdil d a e n) e d x.didx x.rank l
        ∧ ∀ c, c.length = x.rank → (Box.within l c = true ↔ (∀ i, i < x.rank → 0 ≤ c.getD i 0 ∧ c.getD i 0 < ext i)
          ∧ ∃ c', c'.length = x.rank ∧ Box.within x.boxes c' = true ∧ ∀ i, i < x.rank → ∃ k : Int,
            -radius i ≤ k ∧ k ≤ radius i
              ∧ c.getD i 0 = if w.getLsbD (60 + i) then (c'.getD i 0 + k) % ext i else c'.getD i 0 + k)) ∧
    (OnSlot s [] → 0 < m.toNat → m.toNat < 2 ^ x.rank →
      let kept := fun (c : List Int) => (c.zip (upFrom 0 4)).filterMap fun p => if m.getLsbD p.2 then some p.1 else none
      ∃ l, SlabForm m.cpop.toNat l ∧ Fitted s (.qproj d a e m) e d x.didx m.cpop.toNat l
        ∧ ∀ c, c.length = m.cpop.toNat → (Box.within l c = true ↔ ∃ c', c'.length = x.rank ∧ Box.within x.boxes c' = true ∧ kept c' = c)) ∧
    (OnSlot s [.x n] → ∃ l, SlabForm x.rank l ∧ Fitted s (.qsplit d a e n) e d x.didx x.rank l
      ∧ ∀ c, Box.within l c = true ∧ c.length = x.rank ↔ c ∈ (x.boxes.flatMap cellsOf).take (splitCount x.boxes w.toNat))

/-- `RegionsMove` and `RegionsDerive`: the instructions that move a region, and those that derive one from it. -/
def Obligations.RegionDerivations : Prop :=
  RegionsMove ∧ RegionsDerive

/-- R205, R206, R207: QCLIP cuts a region to its tensor, QBBOX answers the smallest box around it, QCNT the number of its cells and
QCMP how two sets of cells compare. -/
def Obligations.RegionMeasures : Prop :=
  ∀ (s : State) (d a b : BitVec 4) (n : BitVec 5),
    let x := s.me.q a
    let y := s.me.q b
    TightQ x → x.ragged = false →
    (OnSlot s [] → ∀ desc, Told s x a.toNat desc → desc.ext.length = x.rank → ∃ t r, exec (.qclip d a) s = .next t
      ∧ WroteQ s t d r ∧ r.didx = x.didx ∧ r.rank = x.rank ∧ ∀ c, c.length = x.rank →
        let inside := Box.within x.boxes c && decide (∀ i, i < x.rank → 0 ≤ c.getD i 0 ∧ c.getD i 0 < desc.ext.getD i 0);
        (r.isOver = false → Box.within r.boxes c = inside) ∧ (inside = true → Box.within r.boxes c = true)) ∧
    (OnSlot s [] → ∃ t l, exec (.qbbox d a) s = .next t ∧ WroteQ s t d ⟨x.didx, x.rank, x.isOver, false, false, 0, 0, l⟩ ∧
      if x.boxes = [] then l = [] else ∃ j : Box, l = [j] ∧ IsBBox x.rank x.boxes j) ∧
    (OnSlot s [.x n] → ∃ t k, exec (.qcnt a n) s = .next t ∧ Counts x.rank x.boxes k
      ∧ WroteX s t n (toWord (b2n x.isOver * 2 ^ 63 + min k (2 ^ 63 - 1)))) ∧
    (OnSlot s [.x n] → TightQ y → y.ragged = false → x.rank = y.rank → x.isOver = false → y.isOver = false →
      ∃ t v, exec (.qcmp a b n) s = .next t ∧ WroteX s t n v ∧ v.toNat < 64 ∧
        let every := fun (p : Bool → Bool → Bool) =>
          ∀ c, c.length = x.rank → p (Box.within x.boxes c) (Box.within y.boxes c) = true;
        (v.getLsbD 0 = true ↔ every fun p q => p == q) ∧ (v.getLsbD 1 = true ↔ every fun p q => !p || q)
          ∧ (v.getLsbD 2 = true ↔ every fun p q => p || !q) ∧ (v.getLsbD 3 = true ↔ every fun p q => !(p && q))
          ∧ (v.getLsbD 4 = true ↔ every fun p _ => !p) ∧ (v.getLsbD 5 = true ↔ every fun _ q => !q))

namespace Sys2Proof.Claims

/-- The box whose bounds stand in X registers from `n` on, when it holds cells: the lower bound in bits 31:0, the upper in 63:32. -/
def boxIn (c : Ctx) (n : BitVec 5) (rank : Nat) : List Box :=
  let w := fun (i : Nat) => c.x (n + BitVec.ofNat 5 i)
  let b : Box := (upFrom 0 rank).map fun i => ⟨((w i).setWidth 32).toInt, ((w i).extractLsb' 32 32).toInt, 0, 0⟩
  if ∀ d ∈ b, d.lo < d.hi then [b] else []

/-- The registers X[n], X[n+1], … of a region word. -/
def xsFrom (n : BitVec 5) (k : Nat) : List RegName :=
  (upFrom 0 k).map fun i => .x (n + BitVec.ofNat 5 i)

/-- Word `i` of a box as Table 8-2 lays it out: bounds of its dimensions, then steps and phases of two dimensions a word. -/
def boxWord (b : Box) (rank i : Nat) : Word :=
  let step := fun (k : Nat) => match b[k]? with
    | some d => BitVec.ofNat 16 d.ph ++ BitVec.ofNat 16 d.st
    | none => (0 : BitVec 32)
  if i < rank then
    match b[i]? with
    | some d => BitVec.ofInt 32 d.hi ++ BitVec.ofInt 32 d.lo
    | none => 0
  else step (2 * (i - rank) + 1) ++ step (2 * (i - rank))

/-- A register as instructions leave it, with fields that its image can hold (R186, R191, R194, R195). -/
def Storable (q : Region) : Prop :=
  TightQ q ∧ q.didx < 64 ∧ 1 ≤ q.rank ∧ q.rank ≤ 4 ∧ q.boxes.length ≤ 8
    ∧ (∀ b ∈ q.boxes, ∀ d ∈ b, -(2 ^ 31) ≤ d.lo ∧ d.hi ≤ 2 ^ 31 - 1 ∧ d.st < 2 ^ 16)
    ∧ (q.ragged = true → q.strided = false ∧ q.boxes.length ≤ 1)
    ∧ (if q.ragged then -(2 ^ 31) ≤ q.rsh0 ∧ q.rsh0 < 2 ^ 31 ∧ -(2 ^ 31) ≤ q.rshi ∧ q.rshi < 2 ^ 31 else q.rsh0 = 0 ∧ q.rshi = 0)
    ∧ (q.isOver = false → q.strided = false → canon q.rank q.boxes = q.boxes)
    ∧ (q.isOver = false → q.strided = true →
      let steps := q.boxes.filter Box.stepped
      let rest := q.boxes.filter fun b => !Box.stepped b
      sortBoxes (steps ++ rest) = q.boxes ∧ anyOverlap steps = false ∧ canon q.rank rest = rest)

end Sys2Proof.Claims

/-- R208, R209: QGETB writes the words of one box, zeros past the last; QMKB, QMKBS and QRAG make the region of one box that holds
cells, from its bounds, steps and phases; a phase that is not below its step raises FORMAT (a step or phase field at or above the rank is
ignored: the model's choice, log entry 121).
R188, R189, R210, R211: the descriptor table, whole tensors, and region images.  QLD of the image of a register gives the register
back, and QST posts the 72 words of the image, each by itself: that split is the model's choice (log entry 62). -/
def Obligations.RegionWordsAndMemory : Prop :=
  (∀ (s : State) (d a : BitVec 4) (n : BitVec 5) (j : BitVec 3),
      let x := s.me.q a
      let w := fun (i : Nat) => s.me.x (n + BitVec.ofNat 5 i)
      x.rank ≤ 4 → Readable s x a.toNat →
      (let count := if x.strided then x.rank + 2 else x.rank;
        Shaped x → OnSlot s (xsFrom n count) →
        ∃ t c, exec (.qgetb a j n) s = .next t ∧ OnlyMine s t c ∧ SameButX s.me c ∧ c.ctl = s.me.ctl.advance
          ∧ (∀ i, i < count → n + BitVec.ofNat 5 i ≠ 0 →
            c.x (n + BitVec.ofNat 5 i) = match x.boxes[j.toNat]? with
              | some b => boxWord b x.rank i
              | none => 0)
          ∧ ∀ m, m = 0 ∨ (∀ i, i < count → m ≠ n + BitVec.ofNat 5 i) → c.x m = s.me.x m) ∧
      (OnSlot s (xsFrom n x.rank) →
        (∃ t, exec (.qmkb d a n) s = .next t
          ∧ WroteQ s t d ⟨x.didx, x.rank, false, false, false, 0, 0, boxIn s.me n x.rank⟩) ∧
        ∀ desc, Told s x a.toNat desc → ∃ t, exec (.qrag d a n) s = .next t ∧
          if desc.ltv then WroteQ s t d ⟨x.didx, x.rank, false, false, true, 0, 0, boxIn s.me n x.rank⟩
          else Trapped s t 0x17 (toWord desc.addr)) ∧
      (OnSlot s (xsFrom n (x.rank + 2)) →
        let field := fun (i : Nat) => (w (x.rank + i / 2)) >>> (32 * (i % 2))
        let st := fun (i : Nat) => max ((field i).toNat % 2 ^ 16) 1
        let ph := fun (i : Nat) => (field i >>> 16).toNat % 2 ^ 16
        ((∀ i, i < x.rank → ph i < st i) → ∃ t r, exec (.qmkbs d a n) s = .next t ∧ WroteQ s t d r ∧ TightQ r
          ∧ r.boxes.length ≤ 1 ∧ { r with strided := false, boxes := [] } = ⟨x.didx, x.rank, false, false, false, 0, 0, []⟩
          ∧ ∀ c, c.length = x.rank → Box.within r.boxes c = decide (∀ i, i < x.rank →
            ((w i).setWidth 32).toInt ≤ c.getD i 0 ∧ c.getD i 0 < ((w i).extractLsb' 32 32).toInt ∧ c.getD i 0 % st i = ph i)) ∧
        ((∃ i, i < x.rank ∧ st i ≤ ph i) → ∃ t i, exec (.qmkbs d a n) s = .next t ∧ i < x.rank ∧ st i ≤ ph i
          ∧ Trapped s t 0x17 (w (x.rank + i / 2))))) ∧
  (∀ (s : State) (core n : Nat) (b : Binding) (d a : BitVec 4) (x : BitVec 5) (k : BitVec 6), OnCore s core n b →
      let v := s.me.x x
      (OnSlot s [.x x] → (∃ t, exec (.qdtbw x) s = .next t ∧
          if v.toNat % 64 = 0 ∧ v.toNat + 4096 ≤ 0x3FF00 then
            OnlyMine s t { s.me with sp := { s.me.sp with dtbase := v }, ctl := s.me.ctl.advance }
          else Trapped s t 0x05 v)
        ∧ ∃ t, exec (.qdtbr x) s = .next t ∧ WroteX s t x s.me.sp.dtbase) ∧
      (let off := s.me.sp.dtbase.toNat + 64 * k.toNat;
        let ws := (upFrom 0 8).map fun i => (s.core core).slice.word (off + 8 * i);
        s.me.queue = [] → off + 64 ≤ 0x3FF00 → Within s off 64 → Clean s core off 64 → OnSlot s [] →
        (descBad ws = false → let desc := descOf (b.role * 2 ^ 18 + off) ws;
          (∀ f, s.withDesc s.cur k.toNat f = f desc) ∧ ∃ t, exec (.qall d k) s = .next t ∧ WroteQ s t d
            ⟨k.toNat, desc.rank, false, false, false, 0, 0, [desc.ext.map fun (n : Nat) => ⟨0, (n : Int), 0, 0⟩]⟩) ∧
        (descBad ws = true → ∃ t, exec (.qall d k) s = .next t ∧ Trapped s t 0x17 (toWord (b.role * 2 ^ 18 + off)))) ∧
      (v.toNat % 64 = 0 → v.toNat + 576 ≤ 0x3FF00 → Within s v.toNat 576 → OnSlot s [.x x] →
        (s.me.queue = [] → Clean s core v.toNat 576 → ∀ q, Storable q →
          (∀ i, i < 72 → (s.core core).slice.word (v.toNat + 8 * i) = q.words.getD i 0) →
          ∃ t, exec (.qld d x) s = .next t ∧ WroteQ s t d q) ∧
        (Readable s (s.me.q a) a.toNat → ∃ t, exec (.qst a x) s = .next t ∧ OnlyMine s t { s.me with
          queue := s.me.queue ++ (s.me.q a).words.mapIdx fun i w => ⟨s.nextId + i, false, false, .cellar,
            b.role * 2 ^ 18 + (v.toNat + 8 * i), .store (.slice b.launch b.role (v.toNat + 8 * i)) (toBytes 8 w.toNat) none false, none,
            none⟩
          ctl := s.me.ctl.advance })))

/-! ### The racking engine -/

namespace Sys2Proof.Claims

/-- The slot neither records nor decants a tape. -/
def NoTape (s : State) : Prop :=
  ∀ st, s.tapeOf? s.cur st = none

/-- A copy word of the issuing slot with its operands. -/
def copyOf (s : State) (kind : RackKind) (a b : BitVec 4) (n : BitVec 5) (c t st : Bool) : CopyWord :=
  ⟨kind, s.me.ctl.iword, a.toNat, b.toNat, s.me.q a, s.me.q b, c, t, st,
    (upFrom 0 (copyParams kind (s.me.q a).rank c t st)).map (fun i => s.me.x (n + BitVec.ofNat 5 i)), none⟩

/-- The copy words with their kinds and flags. -/
def copies (a b : BitVec 4) (n : BitVec 5) (c t st : BitVec 1) : List (Instr × RackKind × Bool × Bool × Bool) :=
  [(.rack a b n c t st, .rack, c == 1, t == 1, st == 1), (.rackT a b n c t st, .rackT, c == 1, t == 1, st == 1),
    (.rackm a b n c t st, .rackM, c == 1, t == 1, st == 1), (.rackzC a b n, .rackzC, true, false, false),
    (.rackzD a b n c, .rackzD, c == 1, false, false)]

/-- A copy word passes the checks of R223, R225 and R234 with the descriptors and length tables that it reads. -/
def CopyPasses (s : State) (x : CopyWord) (da db : Desc) (lta ltb : List Nat) : Prop :=
  let j := x.job s s.cur da db lta ltb
  (∀ f, s.withDescAs s.cur x.qa.didx none f = f da) ∧ (∀ f, s.withDescAs s.cur x.qb.didx none f = f db)
    ∧ (∀ f, s.withTable s.cur x.qa da f = f lta) ∧ (∀ f, s.withTable s.cur x.qb db f = f ltb)
    ∧ x.rankCheck = none ∧ x.descCheck da db = none ∧ x.qa.outside da lta = false ∧ x.qb.outside db ltb = false
    ∧ x.qb.isOver = false ∧ j.coderCheck x = none ∧ x.paramCheck (s.nroles s.cur) (s.myRole s.cur) j.bytes = none
    ∧ j.cellBad = false ∧ s.checkRuns s.cur (j.srcRuns ++ j.dstRuns ++ j.ctrRuns) = none ∧ runsMeet j.dstRuns j.srcRuns = false

/-- An instruction of the racking engine finds a pending fault: it traps with the detail, which it clears (R237). -/
def RaisesPending (s : State) (i : Instr) : Prop :=
  s.me.rackFault ≠ 0 → ∃ t, exec i s = .next t
    ∧ Trapped (s.onCtx s.cur fun c => { c with rackFault := 0 }) t 0x0B s.me.rackFault

/-- Jobs to wait for: the slot goes on at once when there are none, and is held by their numbers otherwise (R228, R229). -/
def WaitsFor (s t : State) (jobs : List Job) : Prop :=
  if jobs = [] then Passed s t
  else OnlyMine s t { s.me with ctl := { s.me.ctl with hold := some (.jobs (jobs.map (·.id))) } }

end Sys2Proof.Claims

/-- R216, R217, R223 to R225, R234, R237, R239: a copy word that passes its checks enters its job in the access queue as a release and
takes a multicast credit for each receiver; in an atomic task a copy to global memory goes into the retire buffer.  A pending
fault is raised first. -/
def Obligations.CopyCommands : Prop :=
  ∀ (s : State) (core n : Nat) (bd : Binding) (a b : BitVec 4) (m : BitVec 5) (c t st : BitVec 1), OnCore s core n bd →
    NoTape s → ∀ p ∈ copies a b m c t st,
      let x := copyOf s p.2.1 a b m p.2.2.1 p.2.2.2.1 p.2.2.2.2
      Alone s (xsFrom m x.params.length) →
      RaisesPending s p.1 ∧
      ∀ da db lta ltb, s.me.rackFault = 0 → CopyPasses s x da db lta ltb →
        let j := x.job s s.cur da db lta ltb
        (s.me.act.ctl.getLsbD 63 = false ∨ db.global = false → s.rackRoom core = true →
          (∀ r ∈ j.recv, 0 < (s.core core).mcred.get (r % 64) 0) →
          ∃ u, exec p.1 s = .next u ∧ u.nextId = s.nextId + 2 ∧ MineIs s u { s.me with
              queue := s.me.queue ++ [⟨s.nextId + 1, false, true, .cellar, 0, .engine (.rack j), none, none⟩]
              ctl := s.me.ctl.advance }
            ∧ { u with ctxs := s.ctxs, cores := s.cores, nextId := s.nextId } = s ∧ (∀ m, m ≠ core → u.core m = s.core m)
            ∧ { u.core core with mcred := (s.core core).mcred } = s.core core
            ∧ ∀ i, (u.core core).mcred.get i 0
              = (s.core core).mcred.get i 0 - b2n (decide (i ∈ j.recv.map (· % 64)))) ∧
        (s.me.act.ctl.getLsbD 63 = true → db.global = true → s.me.act.used + 32 ≤ 4096 →
          ∃ u, exec p.1 s = .next u ∧ OnlyMine s u { s.me with
            act := { s.me.act with used := s.me.act.used + 32, buffer := s.me.act.buffer ++ [.rack j] }
            ctl := s.me.ctl.advance })

/-- R226 to R230, R235 to R237: the other words of the racking engine.  RELSLOT posts credits, DICTLD waits until it is performed,
WAITC waits for its counter, WAITR and the drains for the jobs they name; RSTAT asks for a status word, and clears nothing.  That the
word holds what stood when RSTAT issued, and that RSTAT waits behind the slot's other accesses for it, are the model's choices (log
entries 18 and 38). -/
def Obligations.RackingWaitsAndStatus : Prop :=
  ∀ (s : State) (core n : Nat) (bd : Binding) (a b d : BitVec 5) (q : BitVec 4), OnCore s core n bd →
    let x := s.me.x a
    let y := s.me.x b
    let off := x.toNat / 8 * 8
    let copies := (s.copiesOf core).filter fun j => decide (j.kind ≠ .dictld)
    (NoTape s → s.me.rackFault = 0 →
      (Alone s [.x a, .x b] → ∀ r, s.resolve s.cur x = some r → r / 64 = bd.role / 64 → 1 ≤ y.toNat → y.toNat ≤ 65535 →
        ∃ t, exec (.relslot a b) s = .next t ∧ Posted s t fun id =>
          ⟨id, false, true, .cellar, 0, .credit r y.toNat, none, none⟩) ∧
      (Alone s [.x a] → x.toNat % 64 = 0 → x.toNat + 2048 ≤ 0x3FF00 → Within s x.toNat 2048 → s.rackRoom core = true →
        ∃ t j, exec (.dictld a) s = .next t ∧ j.id = s.nextId ∧ j.kind = .dictld ∧ j.dictAt = x.toNat ∧ j.role = bd.role
          ∧ OnlyMine s t { s.me with
            queue := s.me.queue ++ [⟨s.nextId + 1, false, true, .cellar, 0, .engine (.rack j), none, none⟩]
            ctl := { s.me.ctl with hold := some (.command s.nextId) } }) ∧
      (Alone s [.x a, .x b] → x.toNat < 0x3FF00 → Within s off 8 → ∃ t, exec (.waitc a b) s = .next t ∧
        if y.toNat ≤ ((s.core core).slice.word off).toNat then Passed s t
        else OnlyMine s t { s.me with ctl := { s.me.ctl with hold := some (.waitc off y.toNat) } }) ∧
      (Alone s [] → let r := s.me.q q;
        ∀ desc lt, (∀ f, s.withDesc s.cur r.didx f = f desc) → desc.rank = r.rank → (r.ragged = true → desc.ltv = true) →
          (∀ f, s.withTable s.cur r desc f = f lt) → ∃ t, exec (.waitr q) s = .next t ∧ WaitsFor s t
            (copies.filter fun j => runsMeet j.dstRuns (desc.runsOf bd.role (r.walk (desc.ext.headD 0) lt)))) ∧
      (Alone s [] → (∃ t, exec .drainS s = .next t ∧ WaitsFor s t (copies.filter fun j => !j.db.global)) ∧
        (∃ t, exec .drainG s = .next t ∧ WaitsFor s t (copies.filter fun j => j.db.global)) ∧
        ∃ t, exec .drainM s = .next t ∧ WaitsFor s t copies)) ∧
    (Alone s [.x a, .x b] → ∀ i ∈ ([.relslot a b, .dictld a, .waitc a b, .waitr q, .drainS, .drainG, .drainM] : List Instr),
      RaisesPending s i) ∧
    (Alone s [.x d, .x b] → ∀ r ∈ ([(.rstatState d, toWord (b2n (decide (s.me.rackFault ≠ 0)) * 2 ^ 8
        + min 2 ((s.core core).rackQueue.length + (s.unplaced core EngCmd.isRack).length) * 2 ^ 4 + (s.core core).inflight.length)),
        (.rstatGeneration d, (s.core core).dictGen),
        (.rstatFault d, s.me.rackFault), (.rstatCredit d b, toWord ((s.core core).mcred.get (y.toNat % 64) 0))]
        : List (Instr × Word)),
      ∃ t, exec r.1 s = .next t ∧ OnlyMine s t
        (awaiting s (.x d) (.x d) none false fun rec_ id => ⟨id, false, false, .cellar, 0, .status rec_ r.2, none, none⟩))

/-! ### The press -/

namespace Sys2Proof.Claims

/-- An instruction of the press finds a pending fault: it traps with the detail, which it clears (R267). -/
def RaisesPressFault (s : State) (i : Instr) : Prop :=
  s.me.pressFault ≠ 0 → ∃ t, exec i s = .next t
    ∧ Trapped (s.onCtx s.cur fun c => { c with pressFault := 0 }) t 0x0B s.me.pressFault

/-- The command that a press-port instruction makes. -/
def portCommand (s : State) (core n : Nat) (b : Binding) (kind : PressKind) (at_ : Nat) (w : List Word) : PressCmd :=
  ⟨s.nextId, kind, n, s.me.act.id, core, b.launch, b.role, b.nroles, at_, w, s.boxes s.cur, s.me.sp.seed.toNat / 2 ^ 32,
    s.me.sp.seed.toNat % 2 ^ 32, 0, [], false⟩

/-- The eight words at an offset of a slice. -/
def blockAt (s : State) (core off : Nat) : List Word :=
  (upFrom 0 8).map fun i => (s.core core).slice.word (off + 8 * i)

/-- C.SEED with CTR raised by `n`. -/
def bumped (seed : Word) (n : Nat) : Word :=
  toWord (seed.toNat / 2 ^ 32 * 2 ^ 32 + (seed.toNat % 2 ^ 32 + n) % 2 ^ 32)

/-- Beside the issuing context, which becomes `c`, the vector engine's queue, the numbers of entries and free values, and the use
of translations, nothing is changed. -/
def LeftBy (s t : State) (core n : Nat) (c : Ctx) : Prop :=
  MineIs s t c ∧ { t with ctxs := s.ctxs, cores := s.cores, clusters := s.clusters, nextId := s.nextId, fresh := s.fresh } = s
    ∧ (∀ m, { t.core m with utlb := (s.core m).utlb }
        = if m = core then { s.core core with vecQueue := (s.core core).vecQueue ++ [n] } else s.core m)
    ∧ (∀ k, { t.cluster k with tlb := (s.cluster k).tlb, missWaits := (s.cluster k).missWaits } = s.cluster k)
    ∧ ∀ p, t.readLoc p = s.readLoc p

/-- An address for the element or scale bytes of a DLEAVE through cellar space. -/
def CellarBytes (s : State) (b : Binding) (addr n : Nat) : Prop :=
  addr < 2 ^ 30 ∧ caRole addr < b.nroles ∧ caOff addr + n ≤ 0x3FF00 ∧ Within s (caOff addr) n

end Sys2Proof.Claims

/-- R245, R250 to R253, R261, R267: LEASE makes the core's request; the port commands enter the press-port queue with their block, as
releases; in RSR a PDRAIN takes one draw of C.SEED for each row, and a PSTREAM of accumulator rows takes one, with C.SEED as the key and
counter of its lanes (R99; how its draws are spread is the model's choice, log entry 40).  LEASE of a core that has a lease or a request,
and a port command of a core without lease parameters, raise LEASE_VIOLATION. -/
def Obligations.PressCommands : Prop :=
  ∀ (s : State) (core n : Nat) (b : Binding) (a : BitVec 5), OnCore s core n b → NoTape s → Alone s [.x a] →
    let x := s.me.x a
    let X := x.toNat
    let l := (s.core core).lease
    let next := { s.me with ctl := s.me.ctl.advance }
    let fits := X < 2 ^ 23 ∧ X / 2 ^ 21 < 3 ∧ 0 < X / 2 ^ 10 % 2 ^ 11 ∧ X % 2 ^ 10 + X / 2 ^ 10 % 2 ^ 11 ≤ 1024
    let posts := fun (i : Instr) (kind : PressKind) (at_ : Nat) (w : List Word) (sp : SlotRegs) =>
      s.pressCheck s.cur kind w x (toWord at_) = none → s.pressRoom core = true →
      ∃ t, exec i s = .next t ∧ OnlyMine s t { s.me with
        sp := sp
        queue := s.me.queue ++ [⟨s.nextId + 1, false, true, .cellar, 0, .engine (.press (portCommand s core n b kind at_ w)), none,
          none⟩]
        ctl := s.me.ctl.advance }
    (∀ i ∈ ([.lease a, .unlease, .ploadw a, .pstream a, .pdrain a] : List Instr), RaisesPressFault s i) ∧
    (s.me.pressFault = 0 →
      (l.held = false → l.req = false → fits → ∃ t, exec (.lease a) s = .next t ∧ MineIs s t next
        ∧ { t with ctxs := s.ctxs, cores := s.cores } = s ∧ (∀ m, m ≠ core → t.core m = s.core m)
        ∧ t.core core = { s.core core with lease := { l with
            lv := true, req := true, pcls := X / 2 ^ 21, prio := s.me.sp.eprio % 8, rows := X / 2 ^ 10 % 2 ^ 11,
            row0 := X % 2 ^ 10 } }) ∧
      (l.held = false → l.req = false → ¬ fits → ∃ t, exec (.lease a) s = .next t ∧ Trapped s t 0x17 x) ∧
      (l.held = true ∨ l.req = true → ∃ t, exec (.lease a) s = .next t ∧ Trapped s t 0x11 x) ∧
      (l.lv = false → ∀ i ∈ ([.unlease, .ploadw a, .pstream a, .pdrain a] : List Instr),
        ∃ t, exec i s = .next t ∧ Trapped s t 0x11 0) ∧
      (l.lv = true → posts .unlease .unlease 0 [] s.me.sp ∧
        posts (.pdrain a) .pdrain X [x] (if X / 2 ^ 22 % 8 = 4 then
          { s.me.sp with seed := bumped s.me.sp.seed (X / 2 ^ 10 % 2 ^ 11) } else s.me.sp) ∧
        (b.role < 4096 → X % 64 = 0 → X + 64 ≤ 0x3FF00 → Within s X 64 → s.me.queue = [] → Clean s core X 64 →
          posts (.ploadw a) .ploadw (b.role * 2 ^ 18 + X) (blockAt s core X) s.me.sp ∧
          posts (.pstream a) .pstream (b.role * 2 ^ 18 + X) (blockAt s core X)
            (if ((blockAt s core X).getD 3 0).getLsbD 13 = true ∧ fRm (((blockAt s core X).getD 1 0).extractLsb' 32 32) = 4 then
              { s.me.sp with seed := bumped s.me.sp.seed 1 } else s.me.sp))))

namespace Sys2Proof.Claims

/-- Element `i` of the drained row in V24 to V31 as a real value: an FP32 element, or an INT64 element taken by the anchor (R264). -/
def rowElement (c : Ctx) (src : BitVec 32) (al : Int) (i : Nat) : FVal :=
  if fKind src = 3 then decodeF fp32 (lane 32 (c.v (BitVec.ofNat 5 (24 + i / 16))) (i % 16)).toNat
  else
    let n := (lane 64 (c.v (BitVec.ofNat 5 (24 + i / 8))) (i % 8)).toInt
    .fin (decide (n < 0)) n.natAbs al

/-- `v` and `fl` are the element and the flags that a real value converts to (R98, R103, R149, R264): a floating target takes Round, with
SAT where it has scales, and Encode; an integer target the value rounded to an integer and clamped, to −127 to 127 where it has scales,
with NV on a clamp and NX where the rounding was inexact. -/
def ConvertsTo (dst : BitVec 32) (scaled : Bool) (d : Nat) (x : FVal) (v : Nat) (fl : Flags) : Prop :=
  ∀ mode, rmodeOf (fRm dst) = some mode →
    match numFmt dst with
    | .float g => let r := roundF g mode (fSat dst || scaled) d x; v = encodeF g r.1 ∧ fl = r.2
    | .int sgn w =>
      let lo : Int := if scaled then -127 else if sgn then -(2 ^ (w - 1)) else 0
      let hi : Int := if sgn then 2 ^ (w - 1) - 1 else 2 ^ w - 1
      match x with
      | .nan => v = 0 ∧ fl = 8
      | .inf neg => v = ((if neg then lo else hi) % 2 ^ w).toNat ∧ fl = 8
      | .fin neg m e => ∃ n : Nat, Rounds mode d neg m e n 0 ∧
        let z : Int := if neg then -(n : Int) else n
        let c := max lo (min hi z)
        v = (c % 2 ^ w).toNat ∧ (fl.getLsbD 0 = true ↔ inUnit (min e 0) false n 0 ≠ inUnit (min e 0) false m e)
          ∧ fl.getLsbD 1 = false ∧ fl.getLsbD 2 = false ∧ (fl.getLsbD 3 = true ↔ c ≠ z)
    | _ => True

/-- The exponent of the largest power of two that is a normal value of the element format; 6 for INT8 (R103). -/
def IsEmax (dst : BitVec 32) (emax : Int) : Prop :=
  match numFmt dst with
  | .float g =>
    let normal := fun (E : Nat) => 1 ≤ E ∧ E < 2 ^ g.eb ∧ (decodeF g (E * 2 ^ g.m)).special = false
    (∀ E, normal E → (E : Int) - g.bias ≤ emax) ∧ ((∃ E, normal E) → ∃ E, normal E ∧ emax = (E : Int) - g.bias)
  | _ => emax = 6

/-- `s` is the exponent of a block's scale (R103): that of its largest magnitude less emax, kept in −127 to 127, and −127 for zeros. -/
def IsScale (xs : Nat → FVal) (inBlock : Nat → Prop) (emax s : Int) : Prop :=
  ((∀ i neg m e, inBlock i → xs i = .fin neg m e → m = 0) → s = -127) ∧
  ∀ i neg m e, inBlock i → xs i = .fin neg m e → m ≠ 0 →
    (∀ j neg' n g, inBlock j → xs j = .fin neg' n g → n ≠ 0 → g + n.log2 ≤ e + m.log2) →
    s = max (-127) (min 127 (e + m.log2 - emax))

/-- A value divided by 2^s. -/
def scaledBy (s : Int) (x : FVal) : FVal :=
  match x with
  | .fin neg m e => .fin neg m (e - s)
  | v => v

/-- The element bytes `es`, the scale bytes `sc` and the flags `fl` of a DLEAVE (R88, R103, R264): the elements packed from bit 0 on, each
converted by itself, or, with MX, block by block under a scale that is written beside them. -/
def LeavesRow (c : Ctx) (src dst : BitVec 32) (al emax : Int) (es sc : List Byte) (fl : Flags) : Prop :=
  let count := if fKind src = 3 then 128 else 64
  let w := fWidth dst
  let xs := rowElement c src al
  ∃ (val : Nat → Nat) (flag : Nat → Flags), es.length = count * w / 8
    ∧ (∀ i, i < count → fromBytes es / 2 ^ (w * i) % 2 ^ w = val i % 2 ^ w)
    ∧ (∀ b, fl.getLsbD b = true ↔ ∃ i, i < count ∧ (flag i).getLsbD b = true) ∧
    if fMx dst = 0 then sc = [] ∧ ∀ i, i < count → ConvertsTo dst false (c.drawAt i) (xs i) (val i) (flag i)
    else
      let n := if fMx dst = 1 then 32 else 16
      sc.length = count / n ∧ ∀ k, k < count / n →
        let inBlock := fun (i : Nat) => k * n ≤ i ∧ i < k * n + n
        ((∃ i, inBlock i ∧ (xs i).special = true) → sc[k]? = some 0xFF ∧ ∀ i, inBlock i → val i = 0 ∧ flag i = 0) ∧
        ((∀ i, inBlock i → (xs i).special = false) → ∃ s : Int, IsScale xs inBlock emax s ∧ sc[k]? = some (BitVec.ofInt 8 (s + 127))
          ∧ ∀ i, inBlock i → ConvertsTo dst true (c.drawAt i) (scaledBy s (xs i)) (val i) (flag i))

end Sys2Proof.Claims

/-- R103, R264, R265: DLEAVE converts the drained row in V24 to V31, stores the elements at X[n] and, with MX, the scales at X[n+1],
and ORs its flags into C.FSTAT; a source or destination descriptor that it does not take raises FORMAT, and an anchor out of range
PROTECT.  PSTAT asks the press for its state, a row's or the pending fault.  The exponent of a format without normal values is open
(log entry 41); that a status word holds what stood when PSTAT issued is the model's choice (log entries 18 and 38). -/
def Obligations.DrainedRowsAndPressStatus : Prop :=
  ∀ (s : State) (core n : Nat) (bd : Binding) (r : BitVec 5) (k : BitVec 3), OnCore s core n bd →
    let src := s.me.fmt (k.setWidth 4 <<< 1)
    let dst := s.me.fmt (k.setWidth 4 <<< 1 ||| 1)
    let x := (s.me.x r).toNat
    let y := (s.me.x (r + 1)).toNat
    let al := (s.me.x (r + 2)).toInt
    let regs := (upFrom 24 8).map (fun j => RegName.v (BitVec.ofNat 5 j)) ++ [.x r] ++ (if fMx dst ≠ 0 then [.x (r + 1)] else [])
      ++ (if fKind src = 0 then [.x (r + 2)] else [])
    let srcTaken := fmtBad src = false ∧ (fKind src = 3 ∨ (fKind src = 0 ∧ fWidth src = 64)) ∧ fMx src = 0
    let dstTaken := fmtBad dst = false ∧ fKind dst ≠ 7 ∧ fKind dst ≠ 8
    let inRange := fKind src = 0 → -1024 ≤ al ∧ al ≤ 1023
    (Alone s regs → s.me.pressFault = 0 → ∀ g,
      (¬ srcTaken → ∃ t, exec (.dleave r k g) s = .next t ∧ Trapped s t 0x17 (src.setWidth 64)) ∧
      (srcTaken → ¬ dstTaken → ∃ t, exec (.dleave r k g) s = .next t ∧ Trapped s t 0x17 (dst.setWidth 64)) ∧
      (srcTaken → dstTaken → ¬ inRange → ∃ t, exec (.dleave r k g) s = .next t ∧ Trapped s t 0x05 (s.me.x (r + 2)))) ∧
    (VecRoom s core n → NoTape s → Alone s regs → srcTaken → dstTaken → inRange → s.me.pressFault = 0 →
      let anchor := if fKind src = 0 then al else 0
      let emax := emaxOf dst (Config.freeWord s.fresh)
      IsEmax dst emax ∧ ∀ es sc fl, s.me.leaveBytes src dst anchor emax = (es, sc, fl) →
      LeavesRow s.me src dst anchor emax es sc fl ∧
      let sp := { s.me.sp with
        fstat := s.me.sp.fstat ||| fl.setWidth 64
        seed := if rmodeOf (fRm dst) = some .rsr then bumped s.me.sp.seed 1 else s.me.sp.seed }
      (CellarBytes s bd x es.length → (sc ≠ [] → CellarBytes s bd y sc.length) →
        ∃ t, exec (.dleave r k 0) s = .next t ∧ LeftBy s t core n { s.me with
          sp := sp
          queue := s.me.queue
            ++ [⟨s.nextId, false, false, .cellar, x, .store (.slice bd.launch (caRole x) (caOff x)) es none false, none, none⟩]
            ++ (if sc = [] then [] else
              [⟨s.nextId + 1, false, false, .cellar, y, .store (.slice bd.launch (caRole y) (caOff y)) sc none false, none, none⟩])
          ctl := s.me.ctl.advance }) ∧
      ∀ lx px ex ly py ey, OnePage s core x es.length .store lx px ex → (sc ≠ [] → OnePage s core y sc.length .store ly py ey) →
        (s.me.act.ctl.getLsbD 63 = false → ∃ t, exec (.dleave r k 1) s = .next t ∧ LeftBy s t core n { s.me with
          sp := sp
          queue := s.me.queue ++ [⟨s.nextId, false, false, px, x, .store lx es none false, none, some ex⟩]
            ++ (if sc = [] then [] else [⟨s.nextId + 1, false, false, py, y, .store ly sc none false, none, some ey⟩])
          ctl := s.me.ctl.advance }) ∧
        (let use := 8 + 8 * ((es.length + 7) / 8) + (if sc = [] then 0 else 8 + 8 * ((sc.length + 7) / 8));
          s.me.act.ctl.getLsbD 63 = true → s.me.act.used + use ≤ 4096 →
          ∃ t, exec (.dleave r k 1) s = .next t ∧ LeftBy s t core n { s.me with
            sp := sp
            act := { s.me.act with
              used := s.me.act.used + use
              buffer := s.me.act.buffer ++ [.store x es none false] ++ (if sc = [] then [] else [.store y sc none false]) }
            ctl := s.me.ctl.advance })) ∧
    ∀ d, Alone s [.x d, .x r] →
      let p := (s.cluster (clusterOf core)).press
      let row := p.row (x % 1024)
      let taken := min 3 ((s.core core).pressQueue.length + (s.unplaced core EngCmd.isPress).length)
      let state := match p.state with
        | .free => 0
        | .asking _ => 1
        | .held h => s.roleOf h % 4096 * 2 ^ 4 + 2
        | .busy h _ => s.roleOf h % 4096 * 2 ^ 4 + 3
      ∀ q ∈ ([(.pstatState d, toWord (taken * 2 ^ 16 + state)), (.pstatFault d, s.me.pressFault),
          (.pstatRow d r, toWord (b2n (decide (row.tag = some bd.launch)) * 2 ^ 12 + b2n row.anchored * 2 ^ 11
            + (row.anchor % 2 ^ 11).toNat))] : List (Instr × Word)),
        ∃ t, exec q.1 s = .next t ∧ OnlyMine s t
          (awaiting s (.x d) (.x d) none false fun rec_ id => ⟨id, false, false, .cellar, 0, .status rec_ q.2, none, none⟩)

/-! ### The Trellis -/

namespace Sys2Proof.Claims

/-- A Trellis command has entered the slot's access queue, and its slot waits for it; nothing else is changed (R293). -/
def EntersTrellis (s : State) (i : Instr) (c : TrelCmd) : Prop :=
  ∃ t, exec i s = .next t ∧ OnlyMine s t { s.me with
    queue := s.me.queue ++ [⟨s.nextId + 1, false, true, .cellar, 0, .engine (.trel c), none, none⟩]
    ctl := { s.me.ctl with hold := some (.command s.nextId) } }

/-- An instruction of the Trellis finds a pending fault: it traps with the detail, which it clears (R306). -/
def RaisesTrellisFault (s : State) (i : Instr) : Prop :=
  s.me.trelFault ≠ 0 → ∃ t, exec i s = .next t
    ∧ Trapped (s.onCtx s.cur fun c => { c with trelFault := 0 }) t 0x0B s.me.trelFault

end Sys2Proof.Claims

/-- R293, R294, R297, R300, R305, R306: the Trellis words that pass their checks enter its queue and hold their slots until they are
performed or started; a block that R294 refuses raises FORMAT; TRSTAT asks for the state, a cell's count or the pending fault.  That the
status word holds what stood when TRSTAT issued is the model's choice (log entries 18 and 38). -/
def Obligations.TrellisCommands : Prop :=
  ∀ (s : State) (core n : Nat) (b : Binding) (a : BitVec 5) (q : BitVec 4), OnCore s core n b → NoTape s →
    let x := s.me.x a
    let X := x.toNat
    let g := s.me.q q
    let next := fun (kind : TrelKind) (num addr : Nat) (block : List Word) (r : Region) (d : Desc) (lt : List Nat) (ctrl : Word) =>
      (⟨s.nextId, kind, n, s.me.act.id, core, b.launch, b.role, b.nroles, s.asidOf core, num, addr, block, r, d, lt, ctrl,
        s.boxes s.cur, s.now, 0⟩ : TrelCmd)
    (Alone s [.x a] → ∀ i ∈ ([.trcfg a, .trbin q, .trupd q, .trpairs q a, .trrel] : List Instr), RaisesTrellisFault s i) ∧
    (Alone s [.x a] → s.me.trelFault = 0 → b.role < 4096 → X % 64 = 0 → X + 64 ≤ 0x3FF00 → Within s X 64 → s.me.queue = [] →
      Clean s core X 64 → let w := blockAt s core X;
      (cfgBad w b.nroles = true → ∃ t, exec (.trcfg a) s = .next t ∧ Trapped s t 0x17 (toWord (b.role * 2 ^ 18 + X))) ∧
      (cfgBad w b.nroles = false → s.trelRoom (clusterOf core) = true →
        EntersTrellis s (.trcfg a) (next .trcfg 0 (b.role * 2 ^ 18 + X) w Region.zero Desc.none [] 0))) ∧
    (Alone s [] → s.me.trelFault = 0 → s.trelRoom (clusterOf core) = true →
      EntersTrellis s .trrel (next .trrel 0 0 [] Region.zero Desc.none [] 0) ∧
      ∀ d lt, (∀ f, s.withDesc s.cur g.didx f = f d) → (∀ f, s.withTable s.cur g d f = f lt) → d.rank = g.rank → g.isOver = false →
        (g.ragged = true → d.ltv = true) → g.outside d lt = false →
        (g.rank = 2 → d.width = 32 → recordForm g = true →
          ∀ p ∈ ([(.trbin q, .trbin), (.trupd q, .trupd)] : List (Instr × TrelKind)),
            let c := next p.2 q.toNat 0 [] g d lt 0
            0 < c.rows.length → c.rows.length ≤ 65536 → c.recordRuns.findSome? (printRuns (s.boxes s.cur)) = none →
            EntersTrellis s p.1 c) ∧
        (g.rank = 3 → Alone s [.x a] → X / 2 ^ 17 % 2 ^ 15 = 0 → X % 2 ^ 16 ≠ 0 →
          (∀ j, j < 16 → x.getLsbD j = true → b.role / 16 * 16 + j < b.nroles) →
          EntersTrellis s (.trpairs q a) (next .trpairs q.toNat 0 [] g d lt x))) ∧
    ∀ d, Alone s [.x d, .x a] →
      let t := (s.cluster (clusterOf core)).trellis
      let own := t.owner = some b.launch
      ∀ p ∈ ([(.trstatState d, toWord (trelCode t.state + b2n t.stream.isSome * 2 ^ 3 + if own then 2 ^ 4 + t.npart * 2 ^ 16
            + t.bins.foldl (fun n c => max n c.2.length) 0 % 64 * 2 ^ 40 else 0)), (.trstatFault d, s.me.trelFault),
          (.trstatCell d a, if own then toWord (t.bins.get (X % 4096) []).length else 0)] : List (Instr × Word)),
        ∃ u, exec p.1 s = .next u ∧ OnlyMine s u
          (awaiting s (.x d) (.x d) none false fun rec_ id => ⟨id, false, false, .cellar, 0, .status rec_ p.2, none, none⟩)

/-! ### Cask tapes -/

namespace Sys2Proof.Claims

/-- A cask status word (Table 13-8). -/
def statusOf (cause detail tape lines index : Nat) : Word :=
  toWord (cause * 2 ^ 56 + detail * 2 ^ 48 + tape * 2 ^ 32 + lines * 2 ^ 16 + index)

/-- The issuing context becomes `c` and tape `k` of the slot's cluster `u`; nothing else is changed. -/
def TapeBecame (s t : State) (core k : Nat) (u : Tape) (c : Ctx) : Prop :=
  let cl := clusterOf core
  MineIs s t c ∧ { t with ctxs := s.ctxs, clusters := s.clusters } = s ∧ (∀ m, m ≠ cl → t.cluster m = s.cluster m)
    ∧ { t.cluster cl with tapes := (s.cluster cl).tapes } = s.cluster cl
    ∧ ∀ j, (t.cluster cl).tape j = if j = k then u else (s.cluster cl).tape j

/-- The issuing context with X[d] := v, past the instruction. -/
def wroteOf (c : Ctx) (d : BitVec 5) (v : Word) : Ctx :=
  (c.setX d v).advance

end Sys2Proof.Claims

/-- R311, R314, R315, R318, R324: CASKREC starts a recording with its patch entries, a recorded instruction appends its record when it
passes its issue checks (a RELSLOT, and a TRREL that has still to be performed),
CASKEND seals the tape and reports it, and CASKDROP empties a sealed one; in an atomic task each raises MODE. -/
def Obligations.TapesRecorded : Prop :=
  ∀ (s : State) (core n : Nat) (bd : Binding) (a b d : BitVec 5) (k : Nat), OnCore s core n bd → k < 8 →
    Alone s [.x a, .x b, .x d] →
    let x := s.me.x a
    let X := x.toNat
    let cl := s.cluster (clusterOf core)
    let t0 := cl.tape k
    let mine := t0.tenant = s.tenantOf s.cur
    let npv := X / 2 ^ 4 % 2 ^ 5
    let off := X / 2 ^ 12 % 2 ^ 18
    let word := fun (i : Nat) => (s.core core).slice.word (off + 8 * i)
    let ps := (upFrom 0 npv).map fun i => ((word (2 * i)).toNat, (word (2 * i + 1)).toNat / 2 ^ 62, (word (2 * i + 1)).toNat % 2 ^ 62)
    (s.me.act.ctl.getLsbD 63 = true →
      ∀ i ∈ ([.caskrec a, .caskend d, .caskdrop a, .cstatTape d a, .cstatFree d, .cstatNext d a] : List Instr),
        ∃ t, exec i s = .next t ∧ Trapped s t 0x18 0) ∧
    (s.me.act.ctl.getLsbD 63 = false →
      (s.tapeOf? s.cur .recording = none → X % 8 = k → X / 2 ^ 3 % 2 = 0 → X / 2 ^ 9 % 2 ^ 3 = 0 → X / 2 ^ 30 % 4 = 0 → npv ≤ 16 →
        off % 16 = 0 → off + 16 * npv ≤ 0x3FF00 → (npv ≠ 0 → s.me.queue = [] ∧ Within s off (16 * npv) ∧ Clean s core off (16 * npv)) →
        (∀ p ∈ ps, p.2.1 < 2 ∧ 0 < p.2.2) → t0.state = .empty ∨ (t0.state = .sealed ∧ mine) →
        ∃ t, exec (.caskrec a) s = .next t ∧ TapeBecame s t core k { Tape.init with
            state := .recording, tenant := s.tenantOf s.cur, key := X / 2 ^ 32, owner := some s.cur, patches := ps, npv := npv }
          { s.me with cask := .recording k, ctl := s.me.ctl.advance }) ∧
      (s.tapeOf? s.cur .recording = some k → s.tapeOf? s.cur .decanting = none → s.me.rackFault = 0 →
        ∀ r, s.resolve s.cur x = some r → r / 64 = bd.role / 64 → 1 ≤ (s.me.x b).toNat → (s.me.x b).toNat ≤ 65535 →
          1 ≤ cl.freeLines → t0.patchSlots ≤ 64 → ∃ t, exec (.relslot a b) s = .next t
          ∧ (t.cluster (clusterOf core)).tape k = { t0 with cmds := t0.cmds ++ [⟨s.me.ctl.iword, [x, s.me.x b], []⟩] }
          ∧ t.me = { s.me with
              queue := s.me.queue ++ [⟨s.nextId, false, true, .cellar, 0, .credit r (s.me.x b).toNat, none, none⟩]
              ctl := s.me.ctl.advance }) ∧
      (s.tapeOf? s.cur .recording = some k → s.tapeOf? s.cur .decanting = none → s.me.trelFault = 0 →
        s.trelRoom (clusterOf core) = true → 1 ≤ cl.freeLines → t0.patchSlots ≤ 64 → ∃ t, exec .trrel s = .next t
          ∧ (t.cluster (clusterOf core)).tape k = { t0 with cmds := t0.cmds ++ [⟨s.me.ctl.iword, [], []⟩] }
          ∧ t.me.ctl = { s.me.ctl with hold := some (.command s.nextId) }) ∧
      (s.tapeOf? s.cur .recording = some k → ∃ t, exec (.caskend d) s = .next t ∧
        if cl.freeLines < 1 then
          TapeBecame s t core k Tape.init (wroteOf { s.me with cask := .none } d (statusOf 0x0F 0x02 k 0 0))
        else
          let u := { t0 with state := .sealed, owner := none, savedFor := none }
          u.lines < 2 ^ 16 → u.cmds.length < 2 ^ 16 →
          TapeBecame s t core k u (wroteOf { s.me with cask := .none } d (statusOf 0 0 k u.lines u.cmds.length))) ∧
      (s.tapeOf? s.cur .recording = none → ∃ t, exec (.caskend d) s = .next t ∧ OnlyMine s t
        (wroteOf { s.me with cask := .none } d (match s.me.cask with
          | .abandoned j detail => statusOf 0x0F detail (j % 8) 0 0
          | _ => statusOf 0x0F 0x01 0 0 0))) ∧
      (s.tapeOf? s.cur .recording = none → X % 8 = k → X / 2 ^ 3 % 2 = 0 → X / 2 ^ 9 % 2 ^ 3 = 0 → X / 2 ^ 30 % 4 = 0 →
        let next := { s.me with ctl := s.me.ctl.advance }
        let named := t0.state ≠ .empty ∧ mine ∧ t0.key = X / 2 ^ 32
        (named → t0.state = .sealed → ∃ t, exec (.caskdrop a) s = .next t ∧ TapeBecame s t core k Tape.init next) ∧
        (named → t0.state ≠ .sealed → ∃ t, exec (.caskdrop a) s = .next t ∧ Trapped s t 0x05 x) ∧
        (¬ named → ∃ t, exec (.caskdrop a) s = .next t ∧ OnlyMine s t next)))

/-- R320 to R322, R325: DECANT answers why a tape is refused, or a guard that fails, and otherwise holds its slot while the
sequencer takes the records; its status is zero when they are done.  A line with an uncorrectable error takes effect when it is read:
those of guards in tape order, as each is checked (R328).  CSTAT asks for a tape, the free lines or NEXT; that its word holds what stood
when CSTAT issued is the model's choice (log entries 18 and 38). -/
def Obligations.TapesDecanted : Prop :=
  ∀ (s : State) (core n : Nat) (bd : Binding) (b d : BitVec 5) (k : Nat), OnCore s core n bd → k < 8 →
    let x := s.me.x b
    let X := x.toNat
    let cl := s.cluster (clusterOf core)
    let t0 := cl.tape k
    let mine := t0.tenant = s.tenantOf s.cur
    let resealed := { t0 with state := .sealed, owner := none, savedFor := none }
    let npv := X / 2 ^ 4 % 2 ^ 5
    let off := X / 2 ^ 12 % 2 ^ 18
    (Alone s [.x b, .x d] → Straight s → s.me.act.ctl.getLsbD 63 = true → ∃ t, exec (.decant d b) s = .next t ∧ Trapped s t 0x18 0) ∧
    (Alone s [.x b, .x d] → Straight s → s.me.act.ctl.getLsbD 63 = false → s.tapeOf? s.cur .recording = none →
      X % 8 = k → X / 2 ^ 3 % 2 = 0 → X / 2 ^ 9 % 2 ^ 3 = 0 → X / 2 ^ 30 % 4 = 0 → npv ≤ 16 → off % 8 = 0 → off + 8 * npv ≤ 0x3FF00 →
      (npv ≠ 0 → s.me.queue = [] ∧ Within s off (8 * npv) ∧ Clean s core off (8 * npv)) →
      let usable := (t0.state = .sealed ∨ t0.state = .paused ∨ t0.state = .decanting) ∧ mine ∧ t0.key = X / 2 ^ 32
      let free := t0.state = .sealed ∨ (t0.state = .paused ∧ t0.owner = some s.cur)
      (¬ usable → ∃ t, exec (.decant d b) s = .next t ∧ WroteX s t d (statusOf 0x0E 0x10 k 0 0)) ∧
      (usable → ¬ free → ∃ t, exec (.decant d b) s = .next t ∧ WroteX s t d (statusOf 0x0E 0x15 k 0 0)) ∧
      (usable → free → t0.npv ≠ npv → ∃ t, exec (.decant d b) s = .next t ∧ WroteX s t d (statusOf 0x0E 0x14 k 0 0)) ∧
      (usable → free → t0.npv = npv →
        (∀ first, s.checkGuards s.cur t0.badLines 0 t0.guards = .badLine first → ∃ t, exec (.decant d b) s = .next t
          ∧ t.me.ctl.status = .parked ∧ t.me.trap.faddr = toWord first ∧ t.me.trap.cause.toNat % 2 ^ 8 = 0x0F
          ∧ (t.cluster (clusterOf core)).tape k = Tape.init) ∧
        (∀ detail first, first < 2 ^ 16 → detail < 2 ^ 8 → s.checkGuards s.cur t0.badLines 0 t0.guards = .checked (.fails detail first) →
          ∃ t, exec (.decant d b) s = .next t ∧ TapeBecame s t core k resealed (wroteOf s.me d (statusOf 0x0E detail k 0 first))) ∧
        (s.checkGuards s.cur t0.badLines 0 t0.guards = .checked .ok → ∃ t, exec (.decant d b) s = .next t ∧ TapeBecame s t core k
          { t0 with state := .decanting, owner := some s.cur, next := if t0.state = .paused then t0.next else 0 }
          { s.me with
            decantTape := k, decantDst := d
            decantPv := (upFrom 0 npv).map fun i => (s.core core).slice.word (off + 8 * i)
            ctl := { s.me.ctl with hold := some .decant } }))) ∧
    (s.tapeOf? s.cur .decanting = some k → s.me.ctl.hold = some .decant → s.me.ctl.quiesced = false → t0.lineBad t0.next = false →
      (t0.base + t0.cmds.length ≤ t0.next → ∃ t, exec (.decantRecordIssue s.cur) s = .next t
        ∧ TapeBecame s t core k resealed (wroteOf s.me s.me.decantDst (statusOf 0 0 k 0 0))) ∧
      (∀ w y z r, t0.cmd? t0.next = some ⟨w, [y, z], []⟩ → w.toNat / 2 ^ 19 = 0x2C * 2 ^ 7 + 4 → s.me.rackFault = 0 →
        s.tapeOf? s.cur .recording = none → s.resolve s.cur y = some r → r / 64 = bd.role / 64 → 1 ≤ z.toNat → z.toNat ≤ 65535 →
        ∃ t, exec (.decantRecordIssue s.cur) s = .next t
          ∧ (t.cluster (clusterOf core)).tape k = { t0 with next := t0.next + 1 }
          ∧ t.me = { s.me with
            queue := s.me.queue ++ [⟨s.nextId, false, true, .cellar, 0, .credit r z.toNat, none, none⟩] }) ∧
      ∀ r w m, t0.cmd? t0.next = some ⟨w, r, m⟩ → (∀ q ∈ m, s.me.decantPv.length ≤ q.2) → m ≠ [] →
        ∃ t, exec (.decantRecordIssue s.cur) s = .next t ∧ t.me.ctl.status = .parked ∧ t.me.trap.faddr = toWord t0.next
          ∧ t.me.trap.cause.toNat % 2 ^ 8 = 0x0F ∧ (t.cluster (clusterOf core)).tape k = Tape.init) ∧
    (Alone s [.x b, .x d] → s.me.act.ctl.getLsbD 63 = false → s.tapeOf? s.cur .recording = none →
      let t := cl.tape (X % 8)
      let own := t.state ≠ .empty ∧ t.tenant = s.tenantOf s.cur
      ∀ p ∈ ([(.cstatTape d b, toWord (tapeCode t.state + if own then 2 ^ 3 + (t.base + t.cmds.length) * 2 ^ 16 + t.lines * 2 ^ 32
            + t.patchSlots * 2 ^ 48 else 0)), (.cstatFree d, toWord cl.freeLines),
          (.cstatNext d b, if t.state = .paused ∧ own then toWord t.next else 0)] : List (Instr × Word)),
        ∃ u, exec p.1 s = .next u ∧ OnlyMine s u
          (awaiting s (.x d) (.x d) none false fun rec_ id => ⟨id, false, false, .cellar, 0, .status rec_ p.2, none, none⟩))

/-! ### System instructions of the servicers -/

namespace Sys2Proof.Claims

/-- The issuing agent is a cellarer core or a TSC at SUPERVISOR, at a word that stands by itself, with its registers full (always so
on these cores, R76). -/
def Serves (s : State) (rs : List RegName) : Prop :=
  isSmall s.cur = false ∧ s.me.supervisor s.cur = true ∧ Straight s ∧ Ready s rs

/-- A token names slot `n` of `core` (Table 18-10). -/
def NamesSlot (s : State) (w : Word) (core n : Nat) : Prop :=
  s.tokenCore w = some core ∧ w.toNat / 2 ^ 19 % 8 = 0 ∧ w.toNat / 2 ^ 16 % 8 = n

/-- The slot that a token names is PARKED, at the trap that the token tells of (R355). -/
def Fresh (s : State) (w : Word) (core n : Nat) : Prop :=
  (s.ctx (.slot core n)).ctl.status = .parked ∧ (s.ctx (.slot core n)).trap.seq.toNat = w.toNat / 2 ^ 48

/-- An answer of a servicer: X[d] := v, and the slot's context becomes `c`; nothing else is changed. -/
def Answered (s t : State) (core n : Nat) (c : Ctx) (d : BitVec 5) (v : Word) : Prop :=
  t.me = wroteOf s.me d v ∧ t.ctx (.slot core n) = c ∧ (∀ b, b ≠ s.cur → b ≠ .slot core n → t.ctx b = s.ctx b)
    ∧ { t with ctxs := s.ctxs } = s

/-- The flow of control of a PARKED slot that goes on at C.EPC (R355). -/
def resumedAt (c : Ctx) : Control :=
  let pc := BitVec.ofNat 56 (c.trap.epc.toNat / 4 % 2 ^ 54 * 4)
  { c.ctl with
    status := .running
    pc := pc
    redirect := redirectOf c.trap.btgt
    frame := frameOf c.trap.frame pc
    hold := none }

end Sys2Proof.Claims

/-- R351, R353, R355: RESUME lets a PARKED slot go on at C.EPC, or past it, ABORT ends its activation, and both resume or end a parked
copy or stream (a copy once the granules below the one that failed have been performed and counted, R237); a stale token answers 1 and
changes nothing, a mode that does not apply 2.  That a stale token answers 1 whatever the mode is the model's reading (log entry 15), and
so is that a resumed frame fetches its body words again (log entry 20). -/
def Obligations.ResumeAndAbort : Prop :=
  ∀ (s : State) (d a b : BitVec 5) (core n : Nat), Serves s [.x a, .x b, .x d] → s.me.queue = [] →
    let w := s.me.x a
    let mode := s.me.x b
    let c := s.ctx (.slot core n)
    let here := resumedAt c
    let abortOf := Instr.abort d a
    (NamesSlot s w core n →
      (Fresh s w core n →
        (mode = 0 → ∃ t, exec (.resume d a b) s = .next t ∧ Answered s t core n { c with ctl := here } d 0) ∧
        (mode = 1 → ∃ t, exec (.resume d a b) s = .next t
          ∧ Answered s t core n { c with trap := { c.trap with prog := 0 }, ctl := here.advance } d 0) ∧
        (1 < mode.toNat → ∃ t, exec (.resume d a b) s = .next t ∧ WroteX s t d 2) ∧
        (Canonical s → c.firstPoison = none → c.rackFault = 0 → c.pressFault = 0 → c.trelFault = 0 →
          ∃ t, exec abortOf s = .next t ∧ t.me = wroteOf s.me d 0 ∧ (t.ctx (.slot core n)).ctl.status = .free
            ∧ (t.ctx (.slot core n)).regs.x = c.regs.x ∧ (t.ctx (.slot core n)).regs.v = c.regs.v
            ∧ (∀ b, b ≠ s.cur → b ≠ .slot core n → t.ctx b = s.ctx b) ∧ t.mem = s.mem ∧ t.groups = s.groups
            ∧ ∀ m o, (t.core m).slice.read o = if m = core ∧ o = c.sp.tcb.toNat % 2 ^ 18 + 0x1C then
                BitVec.ofNat 8 (c.trap.cause.toNat % 2 ^ 8) else (s.core m).slice.read o)) ∧
      (¬ Fresh s w core n → ∀ i ∈ ([.resume d a b, abortOf] : List Instr), ∃ t, exec i s = .next t ∧ WroteX s t d 1)) ∧
    (∀ j, s.tokenCore w = some core → w.toNat / 2 ^ 19 % 8 = 1 → s.tokenJob core w = some j →
      let k := w.toNat / 2 ^ 22 % 2 ^ 4
      (mode = 0 → ∃ t, exec (.resume d a b) s = .next t ∧ t.me = wroteOf s.me d 0
        ∧ (t.core core).inflight.find? k = some { j with parked := none }
        ∧ (∀ i, i ≠ k → (t.core core).inflight.find? i = (s.core core).inflight.find? i) ∧ t.clusters = s.clusters) ∧
      let failed := ({ j with parked := none, doomed := j.parked, edge := j.parkAt } : Job).settle
      ∃ t, exec abortOf s = .next t ∧ t.me = wroteOf s.me d 0
        ∧ (t.core core).inflight.find? k = if failed.countedTo failed.edge then none else some failed) ∧
    (∀ st, s.tokenCore w = some core → w.toNat / 2 ^ 19 % 8 = 2 → s.tokenStream core w = some st →
      (mode = 0 → ∃ t, exec (.resume d a b) s = .next t ∧ t.me = wroteOf s.me d 0
        ∧ (t.trellis (clusterOf core)).stream = some { st with parked := none } ∧ t.cores = s.cores) ∧
      ∃ t, exec abortOf s = .next t ∧ t.me = wroteOf s.me d 0 ∧ (t.trellis (clusterOf core)).stream = none) ∧
    (s.tokenCore w = none → ∀ i ∈ ([.resume d a b, abortOf] : List Instr), ∃ t, exec i s = .next t ∧ Trapped s t 0x05 w)

/-- R356 to R358: SLOTRD and SLOTWR reach the registers of a PARKED slot, whose reserved bits take no write (R8, Tables 18-2 to 18-4 and
18-9), FQPOP stores the oldest kernel record of a cluster and
answers how many there were, and FQWAIT answers the lowest watched cluster with a record, or waits.  R356 does not order its checks: that a
selector it refuses raises PROTECT whether or not the token is stale is the model's reading (log entry 15). -/
def Obligations.SlotStateAndFaultQueue : Prop :=
  ∀ (s : State) (d a b : BitVec 5) (core n : Nat), Serves s [.x a, .x b, .x d] →
    let w := s.me.x a
    let sel := (s.me.x b).toNat
    let c := s.ctx (.slot core n)
    let v := s.me.x d
    let named := NamesSlot s w core n
    let reads := fun (x : Word) => (Fresh s w core n → ∃ t, exec (.slotrd d a b) s = .next t ∧ WroteX s t d x) ∧
      (¬ Fresh s w core n → ∃ t, exec (.slotrd d a b) s = .next t ∧ WroteX s t d 0)
    let passed := { s.me with ctl := s.me.ctl.advance }
    let writes := fun (k : Ctx) => (Fresh s w core n → ∃ t, exec (.slotwr d a b) s = .next t ∧ t.me = passed
        ∧ t.ctx (.slot core n) = k ∧ (∀ b, b ≠ s.cur → b ≠ .slot core n → t.ctx b = s.ctx b) ∧ { t with ctxs := s.ctxs } = s) ∧
      (¬ Fresh s w core n → ∃ t, exec (.slotwr d a b) s = .next t ∧ Passed s t)
    (named → sel = 0x20 → reads c.trap.epc ∧ writes { c with trap := { c.trap with epc := toWord (v.toNat / 4 % 2 ^ 54 * 4) } }) ∧
    (named → sel = 0x21 → reads c.trap.btgt ∧ writes { c with trap := { c.trap with btgt := toWord (v.toNat % 2 ^ 56) } }) ∧
    (named → sel = 0x22 → reads c.trap.prog ∧ writes { c with trap := { c.trap with prog := toWord (v.toNat % 2 ^ 5) } }) ∧
    (named → sel = 0x23 → reads c.trap.frame ∧ writes { c with trap := { c.trap with frame := v &&& 0x80000000FFFC3C3C } }) ∧
    (named → sel < 0x20 → reads (c.x (BitVec.ofNat 5 sel)) ∧ (Fresh s w core n → ∃ t, exec (.slotwr d a b) s = .next t ∧ t.me = passed
      ∧ (sel ≠ 0 → (t.ctx (.slot core n)).isEmpty (.x (BitVec.ofNat 5 sel)) = false)
      ∧ (t.ctx (.slot core n)).isPoisoned (.x (BitVec.ofNat 5 sel)) = false
      ∧ ∀ r, (t.ctx (.slot core n)).x r = if r.toNat = sel ∧ r ≠ 0 then v else c.x r)) ∧
    (named → 0x100 ≤ sel → sel < 0x200 → let r := BitVec.ofNat 5 ((sel - 0x100) / 8);
      let word := (sel - 0x100) % 8;
      reads (lane 64 (c.v r) word) ∧ (Fresh s w core n → ∃ t, exec (.slotwr d a b) s = .next t ∧ t.me = passed
        ∧ ∀ m i, i < 8 → lane 64 ((t.ctx (.slot core n)).v m) i = if m = r ∧ i = word then v else lane 64 (c.v m) i)) ∧
    (s.tokenCore w = some core → (0x24 ≤ sel ∧ sel < 0x100) ∨ 0x200 ≤ sel →
      ∀ i ∈ ([.slotrd d a b, .slotwr d a b] : List Instr), ∃ t, exec i s = .next t ∧ Trapped s t 0x05 (s.me.x b)) ∧
    ∀ k, s.cur = .cel k →
      (let cl := w.toNat;
        Canonical s → cl < Config.clusters → s.partOfCluster cl = s.partOf s.cur → sel % 64 = 0 → inMemory sel 64 = true →
        s.foreignHbm s.cur sel = false → s.me.queue = [] →
        ((s.cluster cl).kernelQueue = [] → ∃ t, exec (.fqpop d a b) s = .next t ∧ WroteX s t d 0) ∧
        ∀ r rest, (s.cluster cl).kernelQueue = r :: rest → ∃ t, exec (.fqpop d a b) s = .next t
          ∧ WroteXBeside s t d (toWord (1 + rest.length)) ∧ (t.cluster cl).kernelQueue = rest
          ∧ StoredAt s t (.mem sel) ([r.token, r.cause, r.faddr, r.epc, r.btgt, r.prog, r.frame, r.owner].flatMap
              fun x => toBytes 8 x.toNat)) ∧
      ((∀ c, c < Config.clusters → watches s.me.sp.fqw c = true → s.partOfCluster c = s.partOf s.cur) →
        (∀ c, c < Config.clusters → watches s.me.sp.fqw c = true → (s.cluster c).kernelQueue ≠ [] →
          (∀ e, e < c → watches s.me.sp.fqw e = true → (s.cluster e).kernelQueue = []) →
          ∃ t, exec (.fqwait d a) s = .next t ∧ WroteX s t d (toWord c)) ∧
        ((∀ c, c < Config.clusters → watches s.me.sp.fqw c = true → (s.cluster c).kernelQueue = []) →
          ∃ t, exec (.fqwait d a) s = .next t ∧ OnlyMine s t { s.me with
            ctl := { s.me.ctl with hold := some (.fqwait d (if w = 0 then none else some (s.now + w.toNat))) } }))

/-! ### The transitions of the ordering machine -/

namespace Sys2Proof.Claims

/-- The context of one agent becomes `c`; every other context stands. -/
def AgentIs (s t : State) (a : Agent) (c : Ctx) : Prop :=
  t.ctx a = c ∧ ∀ b, b ≠ a → t.ctx b = s.ctx b

/-- Entry `id` of an agent's access queue may be performed (R275). -/
def MayPerform (s : State) (a : Agent) (id : Nat) (e : Entry) : Prop :=
  s.entryReady a id = some e

/-- The context of an agent without one entry of its queue. -/
def without (c : Ctx) (id : Nat) : Ctx :=
  { c with queue := c.queue.filter fun e => decide (e.id ≠ id) }

/-- The bytes at `n` places from one on. -/
def bytesAt (s : State) (p : Loc) (n : Nat) : List Byte :=
  (upFrom 0 n).map fun i => (s.readLoc (p.add i)).getD 0

/-- The places are memory of this device: a role's slice, or device-physical memory, and no byte of them is poisoned. -/
def Sound (s : State) (p : Loc) (n : Nat) : Prop :=
  s.noRoute p = false ∧ s.poisonAt p n = none ∧ ∀ i, i < n → s.poisonAt (p.add i) 1 = none

/-- The new bytes at a place under an atomic on an operand of `w` bits. -/
def updatedBytes (s : State) (p : Loc) (op : AtomOp) (w : Nat) (y cmp : Word) : List Byte :=
  toBytes (w / 8) (rmw op (BitVec.ofNat w (fromBytes (bytesAt s p (w / 8)))) (y.setWidth w) (cmp.setWidth w)).toNat

/-- A context in which a load has put its value into its register: the value is there, the register full. -/
def Landed (c c' : Ctx) (d : LoadDst) (bs : List Byte) (nib : Option Bool) : Prop :=
  c'.trap = c.trap ∧ c'.act = c.act ∧ c'.sp = c.sp ∧ match d with
    | .x d => (∀ n, c'.x n = if n = d ∧ d ≠ 0 then toWord (loadValue nib bs) else c.x n) ∧ (d ≠ 0 → c'.isEmpty (.x d) = false)
        ∧ ∀ r, r ≠ .x d → c'.isEmpty r = c.isEmpty r
    | .v d => (∀ n, c'.v n = if n = d then BitVec.ofNat 512 (fromBytes bs) else c.v n) ∧ c'.isEmpty (.v d) = false
        ∧ ∀ r, r ≠ .v d → c'.isEmpty r = c.isEmpty r
    | _ => c' = { c with loads := c'.loads }

/-- The poison that a store leaves (R174, R238): a slice word written whole loses it, and a line loses it to a .V store that covers
it. -/
def PoisonLeft (s t : State) (loc : Loc) (len : Nat) (vec : Bool) : Prop :=
  (∀ l, l ∈ t.poison ↔ l ∈ s.poison ∧ ¬ (loc = .mem (64 * l) ∧ vec = true ∧ len = 64)) ∧
  ∀ m w, w ∈ (t.core m).poisonWords ↔ w ∈ (s.core m).poisonWords ∧ ¬ ∃ l r off,
    loc = .slice l r off ∧ s.coreOf? l r = some m ∧ off ≤ 8 * w ∧ 8 * w + 8 ≤ off + len

/-- A context with one part of load record `r` performed, and its entry gone from the queue. -/
def partDone (c : Ctx) (r id : Nat) (bs : List Byte) : Ctx :=
  { without c id with
    loads := c.loads.map fun l => if l.id = r then
      { l with parts := l.parts.map fun p => if p.1 = id then (id, some bs) else p } else l }

/-- A slot's load `r` that keeps it has trapped at its instruction, where the control `k` stood (R57, R110, R124, R174, R348): it and the
loads behind it are gone, and no register is changed but those that such a load had emptied, which are full again (log entry 18). -/
def TookOwnTrap (s t : State) (a : Agent) (r : Nat) (k : Control) (cause : Nat) (f : Word) : Prop :=
  let c := s.ctx a
  let u := t.ctx a
  let refilled := fun (q : RegName) => (c.loads.dropWhile fun o => decide (o.id ≠ r)).any fun o => o.own.isNone && match o.dst, q with
    | .x d, .x n => d == n
    | .v d, .v n => d == n
    | _, _ => false
  { u.regs with xEmpty := c.regs.xEmpty, vEmpty := c.regs.vEmpty } = c.regs
    ∧ (∀ q, u.isEmpty q = (c.isEmpty q && !refilled q)) ∧ u.owed = false ∧ u.trap.cause = toWord (b2n c.sp.pl * 256 + cause) ∧ u.trap.faddr = f
    ∧ u.trap.epc = k.pc.setWidth 64 ∧ u.trap.seq = c.trap.seq + 1 ∧ (∀ b, b ≠ a → t.ctx b = s.ctx b)
    ∧ (∀ p, t.readLoc p = s.readLoc p)
    ∧ if cause = 0x07 ∧ c.trap.utvec.getLsbD 0 = true ∧ c.trap.uh = false then
        u.ctl.status = .running ∧ u.ctl.pc = BitVec.ofNat 56 (c.trap.utvec.toNat / 4 % 2 ^ 54 * 4) ∧ u.trap.uh = true
      else u.ctl.status = .parked ∧ u.ctl.pc = k.pc

/-- A reduction's operand of `w` bits as its packet carries it (R107, R411). -/
def packetValue (w : Nat) (op : AtomOp) (y : Word) : BitVec 72 :=
  if op = .add then ((y.setWidth w).signExtend (w + 8)).setWidth 72 else (y.setWidth w).setWidth 72

end Sys2Proof.Claims

/-- R54, R122, R169, R174, R276, R284: an entry that may be performed has its effect in one step and leaves its queue.  A store writes
its bytes and no other, EMPW and FULW mark their word, a load takes the bytes of its home, an LDF those of a word that is full, and a load
of TRES the head result, which leaves TEXT (R406); an
atomic answers the old word (its reply lands in the same step, or, where the atomic keeps its slot, in its turn: log entry 18) and a
reduction only writes, or leaves for its peer as a packet. -/
def Sys2Proof.Claims.EntriesPerform : Prop :=
  ∀ (s : State) (a : Agent) (id : Nat) (e : Entry), MayPerform s a id e →
    let c := s.ctx a
    let gone := without c id
    (Canonical s → ∀ loc bs vec, s.noRoute loc = false →
      (e.what = .store loc bs none vec → ∃ t, exec (.performStore a id) s = .next t ∧ StoredAt s t loc bs ∧ SameButMemory s t
        ∧ PoisonLeft s t loc bs.length vec ∧ AgentIs s t a gone) ∧
      ∀ high v, e.what = .store loc [v] (some high) vec → ∃ t, exec (.performStore a id) s = .next t ∧ AgentIs s t a gone
        ∧ StoredAt s t loc [putNibble ((s.readLoc loc).getD 0) high v] ∧ SameButMemory s t) ∧
    (∀ l r off full, e.what = (if full then .fulw (.slice l r off) else .empw (.slice l r off)) →
      ∃ t, exec (.performStore a id) s = .next t ∧ AgentIs s t a gone ∧ SameButMemory s t ∧ (∀ p, t.readLoc p = s.readLoc p)
        ∧ ∀ m o, (t.core m).isFull o = if s.coreOf? l r = some m ∧ o / 8 = off / 8 then full else (s.core m).isFull o) ∧
    (∀ r rec_ bs, c.loadOf? r = some rec_ → rec_.dst = .nowhere ∨ (∃ d, rec_.dst = .x d) ∨ (∃ d, rec_.dst = .v d) →
      (∃ loc n seen, e.what = .load r loc n seen ∧ Sound s loc n ∧ earlier c.queue id = [] ∧ bs = bytesAt s loc n
        ∧ ((∃ l h off, loc = .slice l h off) ∨ seen = 0)) ∨
      (∃ l h off m, e.what = .ldf r (.slice l h off) ∧ s.coreOf? l h = some m ∧ (s.core m).isFull off = true
        ∧ Sound s (.slice l h off) 8 ∧ bs = bytesAt s (.slice l h off) 8) ∨
      (∃ l h off m, e.what = .few r (.slice l h off) ∧ s.coreOf? l h = some m ∧ bs = toBytes 8 (b2n ((s.core m).isFull off))) ∨
      (∃ w, e.what = .status r w ∧ bs = toBytes 8 w.toNat) →
      ∃ t, exec (.performLoad a id) s = .next t ∧ { t with ctxs := s.ctxs } = s ∧ AgentIs s t a (partDone c r id bs)) ∧
    (∀ r rec_ l h v rest, c.loadOf? r = some rec_ → rec_.dst = .nowhere ∨ (∃ d, rec_.dst = .x d) → c.ctl.status = .running →
      (∀ o ∈ c.owedBefore r, o.ready = true ∨ o.spare.isSome = true) → e.what = .tree r (.slice l h 0x3FF88) →
      (s.core (coreNo a)).text = v :: rest → ∃ t, exec (.performLoad a id) s = .next t ∧ t.ctx a = partDone c r id (toBytes 8 v.value.toNat)
        ∧ t.core (coreNo a) = { s.core (coreNo a) with text := rest, treeOpen := (s.core (coreNo a)).treeOpen - 1 }) ∧
    (∀ r loc op dbl y cmp d, Canonical s → e.what = .atomic r loc op dbl y cmp → Sound s loc (atomBytes dbl) →
      let old := bytesAt s loc (atomBytes dbl)
      ∀ so own, c.loadOf? r = some ⟨r, .x d, [(id, none)], none, none, so, own, none⟩ →
        (∀ o ∈ c.owedBefore r, o.ready = true ∨ o.spare.isSome = true) ∨ own = none →
        ∃ t c', exec (.performAtomic a id) s = .next t
          ∧ StoredAt s t loc (updatedBytes s loc op (8 * atomBytes dbl) y cmp) ∧ SameButMemory s t ∧ AgentIs s t a c'
          ∧ if own = none then Landed c c' (.x d) old none ∧ c'.queue = gone.queue ∧ c'.loadOf? r = none
            else c' = partDone c r id old) ∧
    ∀ loc op dbl y, e.what = .reduce loc op dbl y → s.inPacket id = false →
      ((∀ d pa, loc ≠ .peer d pa) → Canonical s → Sound s loc (atomBytes dbl) → ∃ t, exec (.performReduction a id) s = .next t
        ∧ StoredAt s t loc (updatedBytes s loc op (8 * atomBytes dbl) y 0) ∧ SameButMemory s t ∧ AgentIs s t a gone) ∧
      ∀ d pa, loc = .peer d pa → s.noRoute loc = false → ∃ t, exec (.performReduction a id) s = .next t ∧ t.ctxs = s.ctxs
        ∧ t.packets = s.packets ++ [⟨d, pa, op, dbl, packetValue (8 * atomBytes dbl) op y, 1#256 <<< s.device,
            [⟨s.device, s.packetSeq.get d 0, id, s.launchOf a, s.myRole a, e.va⟩], false⟩]
        ∧ t.packetSeq = s.packetSeq.put d (s.packetSeq.get d 0 + 1)

/-- R57, R110, R122, R124, R174, R284: an LDF of a slot that finds its word empty takes EMPTY at its instruction, in the slot's handler
where it has one, and a load that keeps its slot takes POISON there when it finds poison (that C.FADDR is the cellar address of the
first poisoned byte is the model's reading, log entry 100; when such a load is performed, and what issues behind it, log entry 18). -/
def Sys2Proof.Claims.OwnLoadsTrap : Prop :=
  ∀ (s : State) (core n id r : Nat) (e : Entry) (rec_ : LoadRec) (k : Control),
    let a := Agent.slot core n
    let c := s.ctx a
    MayPerform s a id e → c.loadOf? r = some rec_ → rec_.own = some k → rec_.spare = none → c.owedBefore r = [] →
    (∀ l h off m, e.what = .ldf r (.slice l h off) → s.coreOf? l h = some m →
      ((s.core m).isFull off = false →
        ∃ t, exec (.performLoad a id) s = .next t ∧ TookOwnTrap s t a r k 0x07 (toWord e.va)) ∧
      ∀ i, (s.core m).isFull off = true → s.poisonAt (.slice l h off) 8 = some i →
        ∃ t, exec (.performLoad a id) s = .next t ∧ TookOwnTrap s t a r k 0x0A (toWord (e.va + i))) ∧
    ∀ loc len seen i, e.what = .load r loc len seen → earlier c.queue id = [] → i < len →
      (s.poisonAt (loc.add i) 1).isSome = true → (∀ j, j < i → s.poisonAt (loc.add j) 1 = none) →
      ∃ t, exec (.performLoad a id) s = .next t ∧ TookOwnTrap s t a r k 0x0A (toWord (e.va + i))

/-- R54, R174: when every part of a load has been performed, its reply fills the register with the value, zero-extended, or leaves it
empty and poisoned with the address of the first poisoned byte; loads that keep their slot land in issue order, and no load lands while
one of those before it may still trap (log entry 18). -/
def Sys2Proof.Claims.RepliesLand : Prop :=
  ∀ (s : State) (a : Agent) (r : Nat) (l : LoadRec), (s.ctx a).loadOf? r = some l → (∀ p ∈ l.parts, p.2.isSome = true) →
    (∀ o ∈ (s.ctx a).owedBefore r, o.ready = true ∨ o.spare.isSome = true) → l.own = none ∨ (s.ctx a).owedBefore r = [] →
    let c := s.ctx a
    let bs := (l.parts.map fun p => p.2.getD []).flatten
    (∀ d, l.dst = .x d ∨ l.dst = .v d → l.poison = none → ∃ t c', exec (.loadReplyLand a r) s = .next t ∧ AgentIs s t a c'
      ∧ { t with ctxs := s.ctxs } = s ∧ Landed c c' l.dst bs l.nibble ∧ c'.queue = c.queue ∧ c'.loadOf? r = none
      ∧ (c.ctl.status = .blocked → l.dst ≠ .x 0 → c.ctl.awaits = some (if l.dst = .x d then .x d else .v d) → c'.ctl.status = .running)) ∧
    ∀ d p, l.poison = some p → l.dst = .x d → d ≠ 0 → ∃ t, exec (.loadReplyLand a r) s = .next t
      ∧ (t.ctx a).isEmpty (.x d) = true ∧ (t.ctx a).isPoisoned (.x d) = true ∧ (t.ctx a).x d = toWord p
      ∧ { t with ctxs := s.ctxs } = s

/-- `EntriesPerform`, `OwnLoadsTrap` and `RepliesLand`: the entries of an access queue perform, or trap at the load that made them, and
the replies to loads land. -/
def Obligations.AccessesPerformed : Prop :=
  EntriesPerform ∧ OwnLoadsTrap ∧ RepliesLand

/-- R35, R39 to R41, R61 to R63, R226, R280: messages leave their send queue and arrive at the tail of their mailbox, decrements count
down and push the ready ring at zero, a waiting push enters the ring, credits return up to 65,535, and the pump answers.  Messages that
arrive in one cycle do so in ascending SRC, and queries in ascending role.  In a save a message leaves for the mesh, which holds it, even
where a mailbox of its receiver is full (R19, R137; log entry 37). -/
def Obligations.MessagesAndUpdates : Prop :=
  ∀ (s : State), Canonical s →
    (∀ core id m rest dst, (s.core core).sendQueue = (id, dst, m) :: rest →
      (∀ a, s.holderOf core id = some a → ∃ e, MayPerform s a id e) →
      s.stalledBy s.mesh (s.launchOf (.slot core 0)) dst = false ∨ s.saving (s.launchOf (.slot core 0)) = true →
      ∃ t, exec (.performMessage core) s = .next t ∧ (t.core core).sendQueue = rest
        ∧ t.mesh = s.mesh ++ [⟨s.nextId, s.launchOf (.slot core 0), dst, m, none⟩]
        ∧ (∀ a, s.holderOf core id = some a → (t.ctx a).queue = (s.ctx a).queue.filter (fun f => decide (f.id ≠ id)))
        ∧ ∀ p, t.readLoc p = s.readLoc p) ∧
    (∀ msg m core bd, s.mesh.find? (fun m => decide (m.id = msg)) = some m → s.coreOf? m.launch m.dst = some core →
      s.atHead m = true → s.saving m.launch = false → s.failing core = false →
      s.stalledBy (s.mesh.takeWhile fun o => decide (o.id ≠ m.id)) m.launch m.dst = false → (s.core core).binding = some bd →
      bd.ended = false → let h := (s.core core).handler m.msg.channel;
      h.mv = true → h.count < 2 ^ h.mlog → m.drain = none →
      (∀ at_ src, (s.core core).mailLast.find? m.msg.channel = some (at_, src) → at_ = s.now → src ≤ m.msg.src) →
      ∃ t, exec (.mailbox msg) s = .next t
        ∧ t.mesh = s.mesh.filter (fun o => decide (o.id ≠ msg))
        ∧ StoredAt s t (.slice m.launch m.dst (h.mbase * 64 + 64 * (h.tail % 2 ^ h.mlog)))
            ((m.msg.payload ++ List.replicate 60 0).take 60 ++ toBytes 4 (m.msg.kind % 4 * 2 ^ 30 + m.msg.len % 64 * 2 ^ 24
              + m.msg.extra % 4096 * 2 ^ 12 + m.msg.src % 4096))
        ∧ ((t.core core).handler m.msg.channel).tail = (h.tail + 1) % 512
        ∧ ((t.core core).handler m.msg.channel).pend = true ∧ t.ctxs = s.ctxs) ∧
    (∀ a id e l r off n core bd, MayPerform s a id e → e.what = .decr (.slice l r off) n → r < s.nroles a → s.coreOf? l r = some core →
      (s.core core).binding = some bd → bd.ended = false →
      let at_ := off / 8 * 8
      let w := (s.core core).slice.word at_
      let count := w.toNat % 2 ^ 32
      let fires := count = n ∧ w.getLsbD 63 = true
      (n ≤ count → ∃ t, exec (.decrementStep a id) s = .next t ∧ (t.ctx a).queue = (s.ctx a).queue.filter (fun f => decide (f.id ≠ id))
        ∧ StoredAt s t (.slice l r at_) (toBytes 8 (w.toNat - n - if fires then 2 ^ 63 else 0)) ∧ t.ctxs = (s.dropFrom a id).ctxs
        ∧ ((s.core core).ringInput = [] → (s.core core).ring.length < 256 →
          (t.core core).ring = (s.core core).ring ++ if fires then [w.toNat / 2 ^ 48 % 2 ^ 12] else [])) ∧
      (count < n → ∀ g, s.group? bd.launch = some g → ∃ t, exec (.decrementStep a id) s = .next t
        ∧ (t.ctx a).queue = (s.ctx a).queue.filter (fun f => decide (f.id ≠ id)) ∧ (t.core core).slice.word at_ = w
        ∧ ∃ g', t.group? bd.launch = some g' ∧ g'.faults = g.faults + 1)) ∧
    (∀ core x rest, (s.core core).ringInput = x :: rest → (s.core core).ring.length < 256 → ∃ t,
      exec (.readyRingPush core) s = .next t ∧ (t.core core).ring = (s.core core).ring ++ [x] ∧ (t.core core).ringInput = rest) ∧
    (∀ a id e r n core, MayPerform s a id e → e.what = .credit r n → s.coreOf? (s.launchOf a) r = some core →
      let k := s.myRole a % 64
      let sum := (s.core core).mcred.get k 0 + n
      ∃ t, exec (.creditReturn a id) s = .next t ∧ (t.ctx a).queue = (s.ctx a).queue.filter (fun f => decide (f.id ≠ id))
        ∧ (t.core core).mcred.get k 0 = (if sum ≤ 65535 then sum else 65535)
        ∧ ∀ j, j ≠ k → (t.core core).mcred.get j 0 = (s.core core).mcred.get j 0) ∧
    ∀ launch k g p q core, s.group? launch = some g → g.pump = some p → p.queries[k]? = some q → s.coreOf? launch q.role = some core →
      q.off % 8 = 0 → (∀ at_ r, p.last = some (at_, r) → at_ = s.now → r ≤ q.role) →
      let total := p.nx * p.ny * p.nz
      let n := p.seq
      let row := n / p.nx
      (total ≤ n ∨ p.order < 2 → ∃ t, exec (.pumpAnswer launch k) s = .next t ∧ (t.core core).pumpOut = (s.core core).pumpOut - 1
        ∧ (t.core core).isFull q.off = true ∧ StoredAt s t (.slice launch q.role q.off) (toBytes 8 (
          if total ≤ n then 2 ^ 64 - 1
          else
            let x := if p.order = 1 ∧ row % 2 = 1 then p.nx - 1 - n % p.nx else n % p.nx;
            (n % 2 ^ 16 * 2 ^ 48 + n / (p.nx * p.ny) * 2 ^ 32 + row % p.ny * 2 ^ 16 + x) % 2 ^ 64))
        ∧ ∃ g' p', t.group? launch = some g' ∧ g'.pump = some p' ∧ p'.seq = (if total ≤ n then n else n + 1)
          ∧ p'.queries = dropAt p.queries k)

/-- R28, R30, R36, R42 to R46, R58, R121, R250, R342: an admission round takes the candidate that precedes every other that it can take in.
A channel's or a codelet's activation starts in a FREE slot with zeroed registers and X1 to X4 as given, a YIELDED slot runs on;
a candidate that waits is raised once; and a role whose activations have ended is marked done.  The model's choices: the row of a notice
whose drain-buffer entry has been freed is open (log entry 101), TCB words are latched whatever their poison (log entry 71), and the lease
of a role that is done ends by an UNLEASE that enters slot 0's queue (log entry 94). -/
def Obligations.Admissions : Prop :=
  ∀ (s : State) (core : Nat),
    (∀ b, s.winner core = some b → b ∈ s.bids core ∧ (s.core core).unmasks b = true
      ∧ ∀ o ∈ (s.bids core).filter (s.core core).unmasks,
        s.canAdmit core o = true → o.prio ≤ b.prio
          ∧ (o.prio = b.prio → b.since ≤ o.since ∧ (o.since = b.since → b.rank ≤ o.rank))) ∧
    (∀ b n, s.winner core = some b → b.cand = .slot n → ∃ t, exec (.admission core) s = .next t
      ∧ { t with ctxs := s.ctxs } = s ∧ AgentIs s t (.slot core n) { s.ctx (.slot core n) with
        ctl := { (s.ctx (.slot core n)).ctl with status := .running } }) ∧
    (∀ b n tcb, s.winner core = some b → s.freeSlot core = some n →
      (∃ ch, b.cand = .chan ch ∧ tcb = ((s.core core).handler ch).tcbp * 64) ∨ (b.cand = .ring ∧ tcb = (s.core core).ring.headD 0 * 64) →
      let k := s.core core
      let old := s.ctx (.slot core n)
      let word := fun (off : Nat) => k.slice.word (tcb + off)
      ∃ t, exec (.admission core) s = .next t ∧ (∀ a, a ≠ .slot core n → { t.ctx a with ctl := (s.ctx a).ctl } = s.ctx a)
        ∧ (∀ p, t.readLoc p = s.readLoc p) ∧
        let c := t.ctx (.slot core n);
        c.ctl = { Control.reset .running with pc := c.ctl.pc } ∧ c.regs.xEmpty = 0 ∧ c.regs.vEmpty = 0 ∧ c.regs.xPoison = 0
        ∧ c.regs.vPoison = 0 ∧ c.x 1 = toWord tcb ∧ c.x 4 = word 0x10 ∧ (∀ r, 4 < r.toNat → c.x r = 0) ∧ (∀ p, p ≠ 0 → c.p p = 0)
        ∧ c.act.join = word 8 ∧ c.act.ctl = word 0 ∧ c.act.boxes = (upFrom 0 8).map (fun i => word (0x40 + 8 * i))
        ∧ c.trap.utvec = 0 ∧ c.trap.uh = false ∧ c.sp.tcb = toWord tcb ∧ c.sp.dtbase = 0 ∧ c.sp.eprio = b.prio
        ∧ c.sp.seed = old.sp.seed ∧ c.queue = old.queue ∧ c.act.buffer = [] ∧ c.act.used = 0
        ∧ (b.cand = .ring → c.x 2 = BitVec.allOnes 64 ∧ c.x 3 = 64 ∧ (∀ v, c.v v = 0) ∧ c.sp.fstat = 0 ∧ c.sp.pl = false
          ∧ c.ctl.pc = BitVec.ofNat 56 (((word 0).toNat % 2 ^ 56) / 4 * 4) ∧ (t.core core).ring = k.ring.drop 1)
        ∧ ∀ ch, b.cand = .chan ch → let h := k.handler ch;
          let msg := h.mv = true ∧ 0 < h.count;
          c.x 2 = (if msg then toWord (h.mbase * 64 + 64 * (h.head % 2 ^ h.mlog)) else BitVec.allOnes 64) ∧ c.x 3 = toWord ch
          ∧ c.sp.pl = decide (ch = 63) ∧ c.ctl.pc = BitVec.ofNat 56 (h.haddr * 4) ∧ c.act.named = decide msg
          ∧ ((t.core core).handler ch).run = true ∧ ((t.core core).handler ch).pend = false
          ∧ (let off := h.mbase * 64 + 64 * (h.head % 2 ^ h.mlog);
            let notice := ch = 0 ∧ msg ∧ fromBytes (k.slice.readN (off + 60) 4) / 2 ^ 30 % 4 = 2;
            (¬ notice → (∀ v, c.v v = 0) ∧ c.sp.fstat = 0) ∧
            (notice → c.sp.fstat = toWord ((k.slice.word off).toNat / 2 ^ 23 % 16) ∧ (∀ v, v.toNat < 24 → c.v v = 0) ∧
              ∀ e, k.drainAt.find? h.head = some e → ∀ i, i < 8 → c.v (BitVec.ofNat 5 (24 + i)) = (k.drain.get e []).getD i 0))) ∧
    (∀ cand b, (s.bids core).find? (fun b => decide (b.cand = cand)) = some b → ∃ t, exec (.candidateAging core cand) s = .next t ∧
      if s.now ≤ b.since + 4096 then t = s else match cand with
        | .chan c => (t.core core).handler c = { (s.core core).handler c with aged := true } ∧ t.ctxs = s.ctxs
        | .slot n => AgentIs s t (.slot core n) { s.ctx (.slot core n) with act := { (s.ctx (.slot core n)).act with aged := true } }
        | .ring => t.core core = { s.core core with ringAged := true } ∧ t.ctxs = s.ctxs) ∧
    ∀ b g, (s.core core).binding = some b → b.ended = true → b.done = false → s.group? b.launch = some g →
      (∀ n, n < 8 → (s.ctx (.slot core n)).ctl.status = .free) → ∃ t g', exec (.roleDone core) s = .next t
      ∧ (t.core core).binding = some { b with done := true } ∧ t.group? b.launch = some g' ∧ b.role ∈ g'.doneRoles
      ∧ (∀ r, r ∈ g'.doneRoles ↔ r = b.role ∨ r ∈ g.doneRoles)
      ∧ (t.cluster (clusterOf core)).barrier.get b.launch 0 = (s.cluster (clusterOf core)).barrier.get b.launch 0 - 1
      ∧ ((s.core core).lease.lv = true → ∃ e, (t.ctx (.slot core 0)).queue = (s.ctx (.slot core 0)).queue ++ [e]
        ∧ ∃ c, e.what = .engine (.press c) ∧ c.kind = .unlease)

namespace Sys2Proof.Claims

/-- The slots of a core that are STALLED on a resource run; no other context is changed (R12). -/
def Woken (s t : State) (core : Nat) (r : Resource) : Prop :=
  (∀ n, n < 8 → (s.ctx (.slot core n)).ctl.status = .stalled → (s.ctx (.slot core n)).ctl.stallOn = some r →
    t.ctx (.slot core n) = { s.ctx (.slot core n) with
      ctl := { (s.ctx (.slot core n)).ctl with status := .running, stallOn := none } })
  ∧ ∀ a, ((s.ctx a).ctl.status ≠ .stalled ∨ (s.ctx a).ctl.stallOn ≠ some r ∨ ∀ n, n < 8 → a ≠ .slot core n) → t.ctx a = s.ctx a

/-- `n` bytes of memory from an address on become `bs`, and every other byte of it is kept. -/
def MemoryBecame (s t : State) (l : List (Nat × List Byte)) : Prop :=
  ∀ o, t.mem.read o = l.foldl (fun old p => if p.1 ≤ o ∧ o < p.1 + p.2.length then p.2.getD (o - p.1) 0 else old) (s.mem.read o)

/-- The commit of an effect reaches memory at `pa` in one part of `len` bytes, and no access of the slot that is still to be performed
touches them (R171). -/
def GoesTo (s : State) (core n : Nat) (f : Effect) (pa len : Nat) : Prop :=
  ∃ ps, s.fateOf core n f = .go ps ∧ ps.map (fun p => (p.loc, p.n)) = [(.mem pa, len)] ∧ (s.ctx (.slot core n)).touches (.go ps) = false

end Sys2Proof.Claims

/-- R51, R52, R175, R230, R239, R280 to R283: an engine entry enters its engine's queue; a wait ends when its counter has reached its
target or its jobs are gone, but not while a pre-emption has halted its slot; a commit performs the effects of a sealed buffer in order
(the later of two stores to a byte is what stands) and then ends its activation: stores and reductions at their homes, a message on its
way, a racking command in its queue; an effect that waited enters its queue, and a slot that stalled for it goes on; and the vector
engine takes the head of its queue.  When a Trellis command may be placed within the cycle is the model's choice (log entry 60). -/
def Obligations.CommitsAndWaits : Prop :=
  ∀ (s : State) (core : Nat),
    (∀ a id e c, MayPerform s a id e → e.what = .engine c → s.placeable (coreNo a) id c = true →
      let gone := fun (t : State) => AgentIs s t a (without (s.ctx a) id)
      ∃ t, exec (.performEngineEntry a id) s = .next t ∧ gone t ∧ match c with
        | .rack j => t.core (coreNo a) = { s.core (coreNo a) with rackQueue := (s.core (coreNo a)).rackQueue ++ [j] }
        | .press p => (t.core (coreNo a)).pressQueue = (s.core (coreNo a)).pressQueue ++ [p]
            ∧ ((s.core (coreNo a)).lease.lv = true → (s.core (coreNo a)).lease.held = false → (s.core (coreNo a)).pressQueue = [] →
              (t.core (coreNo a)).lease.req = ((s.core (coreNo a)).lease.req || decide (p.kind ≠ .unlease)))
        | .trel x => (t.trellis (clusterOf (coreNo a))).queue = (s.trellis (clusterOf (coreNo a))).queue ++ [x]) ∧
    (∀ a, s.tapeOf? a .decanting = none →
      let isOver := { s.ctx a with ctl := (s.ctx a).ctl.advance }
      let free := (s.ctx a).ctl.quiesced = false
      (∀ off target, (s.ctx a).ctl.hold = some (.waitc off target) → ∃ t, exec (.waitDone a) s = .next t ∧
        if free ∧ target ≤ ((s.core (coreNo a)).slice.word off).toNat then AgentIs s t a isOver ∧ { t with ctxs := s.ctxs } = s
        else t = s) ∧
      ∀ ids, (s.ctx a).ctl.hold = some (.jobs ids) → ∃ t, exec (.waitDone a) s = .next t ∧
        if free ∧ ∀ j ∈ s.copiesOf (coreNo a), j.id ∉ ids then AgentIs s t a isOver ∧ { t with ctxs := s.ctxs } = s else t = s) ∧
    (∀ n g, let a := Agent.slot core n;
      let c := s.ctx a;
      let ended := fun (t : State) => (t.ctx a).ctl.status = .free ∧ (t.ctx a).regs.x = c.regs.x
      Canonical s → c.commitReady = true → s.group? (s.launchOf a) = some g → g.phase = .run → c.firstPoison = none → c.rackFault = 0 →
      c.pressFault = 0 → c.trelFault = 0 → c.act.join.getLsbD 63 = false →
      (c.act.buffer = [] → ∃ t, exec (.commit a) s = .next t ∧ ended t ∧ t.mem = s.mem) ∧
      (∀ va bs v pa, c.act.buffer = [.store va bs none v] → GoesTo s core n (.store va bs none v) pa bs.length →
        ∃ t, exec (.commit a) s = .next t ∧ ended t ∧ MemoryBecame s t [(pa, bs)]) ∧
      (∀ va bs v pa vb cs w pb, c.act.buffer = [.store va bs none v, .store vb cs none w] →
        GoesTo s core n (.store va bs none v) pa bs.length → GoesTo s core n (.store vb cs none w) pb cs.length →
        ∃ t, exec (.commit a) s = .next t ∧ ended t ∧ MemoryBecame s t [(pa, bs), (pb, cs)]) ∧
      (∀ va op dbl y pa, c.act.buffer = [.reduce va op dbl y] → GoesTo s core n (.reduce va op dbl y) pa (atomBytes dbl) →
        Sound s (.mem pa) (atomBytes dbl) → ∃ t, exec (.commit a) s = .next t ∧ ended t
          ∧ MemoryBecame s t [(pa, updatedBytes s (.mem pa) op (8 * atomBytes dbl) y 0)]) ∧
      (∀ j, c.act.buffer = [.rack j] → s.rackRoom core = true → s.unplaced core EngCmd.isRack = [] →
        ∃ t id, exec (.commit a) s = .next t ∧ ended t ∧ (t.core core).rackQueue = (s.core core).rackQueue ++ [{ j with id := id }]) ∧
      (∀ va bs v pa dst m, c.act.buffer = [.store va bs none v, .message dst m] → GoesTo s core n (.store va bs none v) pa bs.length →
        (s.core core).sendQueue = [] → (s.core core).msgsWait = false → ∃ t id, exec (.commit a) s = .next t ∧ ended t
          ∧ MemoryBecame s t [(pa, bs)] ∧ t.mesh = s.mesh ++ [⟨id, s.launchOf (.slot core 0), dst, m, none⟩]) ∧
      (∀ dst m, c.act.buffer = [.message dst m] → (s.core core).sendQueue = [] → (s.core core).msgsWait = false →
        ∃ t id, exec (.commit a) s = .next t ∧ ended t
          ∧ t.mesh = s.mesh ++ [⟨id, s.launchOf (.slot core 0), dst, m, none⟩])) ∧
    (∀ k dst m, (s.core core).waitingEffects[k]? = some (.message dst m) → ((s.core core).waitingEffects.take k).any Effect.isMessage = false →
      (s.core core).sendQueue.length < 4 → ∃ t, exec (.sealedEffectEnqueue core k) s = .next t ∧ Woken s t core .send
        ∧ (t.core core).sendQueue = (s.core core).sendQueue ++ [(s.nextId, dst, m)]
        ∧ (t.core core).sealed = dropSealed (s.core core).sealed k) ∧
    (∀ k j, (s.core core).waitingEffects[k]? = some (.rack j) → ((s.core core).waitingEffects.take k).any Effect.isRack = false →
      (s.core core).rackQueue.length < 2 → s.unplaced core EngCmd.isRack = [] → ∃ t, exec (.sealedEffectEnqueue core k) s = .next t
        ∧ (t.core core).rackQueue = (s.core core).rackQueue ++ [j] ∧ (t.core core).sealed = dropSealed (s.core core).sealed k
        ∧ t.ctxs = s.ctxs) ∧
    ∀ n rest, (s.core core).vecQueue = n :: rest → ∃ t, exec (.vectorQueueServe core) s = .next t
      ∧ t.core core = { s.core core with vecQueue := rest } ∧ ∀ k, k < 8 → (s.ctx (.slot core k)).ctl.status = .stalled →
        (s.ctx (.slot core k)).ctl.stallOn = some .vector → (t.ctx (.slot core k)).ctl.status = .running

namespace Sys2Proof.Claims

/-- The byte of storage at a place: a core's slice, this device's memory or a peer's, and the address in it. -/
def byteOf (s : State) : Loc → Option (Nat × Nat × Nat)
  | .slice l r off => (s.coreOf? l r).map fun c => (0, c, off)
  | .mem pa => some (1, 0, pa)
  | .peer d pa => some (2, d, pa)

end Sys2Proof.Claims

namespace Sys2Proof.Claims

/-- Runs of bytes hold a byte of global or cellar space (R213). -/
def InRuns (rs : List Run) (glob : Bool) (x : Int) : Prop :=
  ∃ r ∈ rs, r.1 = glob ∧ r.2.1 ≤ x ∧ x < r.2.1 + (r.2.2 : Int)

/-- A byte that both hold. -/
def Overlap (x y : List Run) : Prop :=
  ∃ glob b, InRuns x glob b ∧ InRuns y glob b

/-- A job that has not failed, and of which granule `g` is not held by a fault or a miss (R237). -/
def Goes (j : Job) (g : Nat) : Prop :=
  j.doomed = none ∧ (j.parked = none ∨ g < j.parkAt)

/-- Bits written one by one: each place is there, no two are one bit, and each bit holds its value; every other bit of every memory is
as it was (R170, R221). -/
def BitsWritten (s t : State) (ws : List ((Loc × Nat) × Bool)) : Prop :=
  (∀ p ∈ ws, t.bitAt p.1.1 p.1.2 = p.2) ∧
  ∀ loc i, i < 8 → (∀ p ∈ ws, (byteOf s p.1.1, p.1.2) ≠ (byteOf s loc, i)) → t.bitAt loc i = s.bitAt loc i

/-- Places that can be written bit by bit: each is there, and no two are one bit. -/
def Apart (s : State) (ps : List (Loc × Nat)) : Prop :=
  (∀ p ∈ ps, (s.readLoc p.1).isSome = true) ∧
  ∀ (i k : Nat) (p q : Loc × Nat), i ≠ k → ps[i]? = some p → ps[k]? = some q → (byteOf s p.1, p.2) ≠ (byteOf s q.1, q.2)

/-- The class of a word after another under a dictionary (R233): zero, a copy, in no entry, or in some entry; the tags of Table 9-4. -/
def wordClass (dict : Table Nat Word) (prev w : Word) : Nat :=
  if w = 0 then 0 else if w = prev then 1 else if (upFrom 0 256).all fun k => decide (dict.get k 0 ≠ w) then 2 else 3

/-- The data of a token for a run of words (Table 9-4): none, the words, or for each the lowest index that holds it. -/
def TokenData (dict : Table Nat Word) (tag : Nat) (run : List Word) (data : List Byte) : Prop :=
  match tag with
  | 2 => data = run.flatMap fun w => toBytes 8 w.toNat
  | 3 => data.length = run.length ∧ ∀ (i : Nat) (w : Word) (b : Byte), run[i]? = some w → data[i]? = some b →
      dict.get b.toNat 0 = w ∧ ∀ k, k < b.toNat → dict.get k 0 ≠ w
  | _ => data = []

/-- `bs` is the coding of words by runs, each given as its tag and its length, and each the longest of at most 64 words of its class
(R232, R233). -/
def Coded (dict : Table Nat Word) : Word → List (Nat × Nat) → List Word → List Byte → Prop
  | _, [], ws, bs => ws = [] ∧ bs = []
  | prev, (tag, n) :: runs, ws, bs =>
    let before := fun (i : Nat) => if i = 0 then prev else ws.getD (i - 1) 0
    0 < n ∧ n ≤ 64 ∧ n ≤ ws.length ∧ (∀ i, i < n → wordClass dict (before i) (ws.getD i 0) = tag)
      ∧ (n = 64 ∨ n = ws.length ∨ wordClass dict (before n) (ws.getD n 0) ≠ tag)
      ∧ ∃ data rest, TokenData dict tag (ws.take n) data ∧ bs = BitVec.ofNat 8 (tag * 64 + (n - 1)) :: data ++ rest
        ∧ Coded dict (ws.getD (n - 1) 0) runs (ws.drop n) rest

/-- The little-endian words of bytes. -/
def wordsIn (bs : List Byte) : List Word :=
  (upFrom 0 (bs.length / 8)).map fun i => toWord (fromBytes ((bs.drop (8 * i)).take 8))

/-- A job that fails at granule `g` (R237): what it has below that granule is still performed and counted; where nothing is, it is gone
and its slot, whose activation still runs, has its detail. -/
def FailedAt (s t : State) (core k : Nat) (j : Job) (g cause addr : Nat) : Prop :=
  let failed := ({ j with parked := none, doomed := some (cause, addr), edge := g } : Job).settle
  let c := s.ctx (.slot core j.slot)
  if failed.countedTo g then
    (t.core core).inflight.find? k = none ∧ (c.act.id = j.act → c.ctl.status ≠ .free →
      (t.ctx (.slot core j.slot)).rackFault = toWord (cause * 2 ^ 56 + addr % 2 ^ 56))
  else (t.core core).inflight.find? k = some failed

end Sys2Proof.Claims

/-- R218, R219 to R221, R224, R231, R234, R281: the racking queue's head starts in a free entry (a RACKZ.D without blocks whose stream
holds bytes fails there, a RACKZ.C without blocks stays to write its length); a byte of a granule of a copy is read once, for all
receivers, and written bit by bit to the place that its cell's destination gives each; and while an earlier job of the core is in flight,
its destination overlapping the job's source or destination, or its source the job's destination, no granule of the job begins. -/
def Sys2Proof.Claims.CopySteps : Prop :=
  ∀ (s : State) (core : Nat), Canonical s →
    (∀ j rest k, (s.core core).rackQueue = j :: rest → (s.core core).freeEntry = some k → j.kind ≠ .dictld → s.saving j.launch = false →
      j.doomed = none →
      (j.kind = .rackzC → j.granules = 0 → ∃ t, exec (.jobStart core) s = .next t ∧ (t.core core).rackQueue = rest
        ∧ (t.core core).inflight.find? k = some j) ∧
      (j.settle.complete = false → j.kind ≠ .rackzD ∨ j.granules ≠ 0 → ∃ t, exec (.jobStart core) s = .next t
        ∧ (t.core core).rackQueue = rest ∧ (t.core core).inflight.find? k = some j.settle
        ∧ ∀ i, i ≠ k → (t.core core).inflight.find? i = (s.core core).inflight.find? i) ∧
      (∀ c cs, j.kind = .rackzD → j.granules = 0 → j.cellsA = c :: cs → (s.ctx (.slot core j.slot)).act.id = j.act →
        (s.ctx (.slot core j.slot)).ctl.status ≠ .free → ∃ t, exec (.jobStart core) s = .next t ∧ (t.core core).rackQueue = rest
        ∧ (t.ctx (.slot core j.slot)).rackFault
          = toWord (0x17 * 2 ^ 56 + (j.da.cellBit j.role c / 8 % 2 ^ 56).toNat))) ∧
    (∀ id k j g b m, (s.core core).jobOf? id = some (k, j) → s.jobHeld j = false → j.kind.isCopy = true → Goes j g → j.start / 512 ≤ g →
      g < j.granules → m < j.receivers → b ∈ granuleBytes j.cellsA.length j.da.width g → b ∉ j.writtenAt g m →
      g < j.begun ∨ (g = j.begun ∧ j.parked = none ∧ s.saving j.launch = false ∧ (s.core core).hazardHolds j = false ∧ j.da.global = false
        ∧ j.db.global = false) →
      let moves := (granuleBits j.cellsA.length j.da.width g b).map (j.copyBit j.cellsA m)
      let src := fun (x : Int) => (s.jobLoc j g j.da.global (x / 8), (x % 8).toNat)
      let dst := fun (x : Int) => (s.jobLoc j g (j.destDesc m).global (x / 8), (x % 8).toNat)
      ∀ vs : List Bool, (match j.got.find? (g, b) with
          | none => vs = moves.map fun p => s.bitAt (src p.1).1 (src p.1).2
          | some l => vs = l.map Prod.fst ∧ l.length = moves.length) →
        Apart s (moves.map fun p => dst p.2) → ∃ t, exec (.granuleByte false core id g b m) s = .next t ∧ t.ctxs = s.ctxs
          ∧ BitsWritten s t ((moves.map fun p => dst p.2).zip vs)) ∧
    ∀ id k j g b m p, (s.core core).jobOf? id = some (k, j) → j.begun ≤ g → p ∈ (s.core core).inflight → p.2.id < j.id →
      Overlap p.2.dstRuns j.srcRuns ∨ Overlap p.2.srcRuns j.dstRuns ∨ Overlap p.2.dstRuns j.dstRuns →
      exec (.granuleByte false core id g b m) s = .next s

/-- R232 to R234: the coder emits for each position of a block the longest token of the first rule that applies; decoding a block's
tokens gives its words back and takes just their bytes; and a token that runs past its block is a defect at its own position. -/
def Sys2Proof.Claims.CoderCodes : Prop :=
  ∀ (dict : Table Nat Word) (bs : List Byte), bs.length % 8 = 0 →
    (∃ runs, Coded dict 0 runs (wordsIn bs) (encodeBlock dict bs)) ∧
    (0 < bs.length → ∀ rest, decodeTokens dict (bs.length / 8) (bs.length / 8 + 1) 0 [] (encodeBlock dict bs ++ rest)
      = .done (encodeBlock dict bs).length (wordsIn bs)) ∧
    ∀ (want : Nat) (h : Byte) (rest : List Byte), 0 < want → want < h.toNat % 64 + 1 →
      decodeTokens dict want (want + 1) 0 [] (h :: rest) = .bad 0

/-- R232, R234, R281: a coder job reads its source in walk order; a RACKZ.C codes a block once it has read all of it, and a RACKZ.D
decodes one once its tokens are there, failing with FORMAT at the byte of a token that runs past the block, named by its own position,
which is the model's choice (log entry 35); what the blocks made is written to the first cells of the destination's walk, each block
once the writes of the one below have begun (R220). -/
def Sys2Proof.Claims.CoderSteps : Prop :=
  ∀ (s : State) (core id k : Nat) (j : Job) (g i : Nat), Canonical s → (s.core core).jobOf? id = some (k, j) → j.doomed = none →
    s.jobHeld j = false → j.parked = none → g ≤ j.begun → g < j.granules → (s.core core).hazardHolds j = false → j.countedAt 0 ≤ g →
    let b := j.block g
    let at_ := streamByte j.da j.role j.cellsA (if j.kind = .rackzC then 512 * g + i else j.usedTo g + i)
    let loc := fun (x : Int) => s.jobLoc j (2 * g) j.da.global (x / 8)
    let v := BitVec.ofNat 8 (((at_.map fun x => s.bitAt (loc x) (x % 8).toNat).zip (upFrom 0 8)).foldl
      (fun n p => n + if p.1 then 2 ^ p.2 else 0) 0)
    let good := ∀ x ∈ at_, s.poisonAt (loc x) 1 = none
    (j.kind = .rackzC → i < j.granuleCount g → i < 1024 → b.out = [] → b.written = [] → b.got.find? i = none →
      j.da.global = false ∨ b.got ≠ [] → good →
      ∃ t j', exec (.granuleByte false core id g i 0) s = .next t ∧ t.ctxs = s.ctxs ∧ (t.core core).inflight.find? k = some j'
        ∧ if (b.got.put i v).length < j.granuleCount g then (j'.block g).got = b.got.put i v ∧ (j'.block g).out = []
          else (j'.block g).out = encodeBlock (s.core core).dict
            ((upFrom 0 (j.granuleCount g)).map fun n => (b.got.put i v).get n 0)) ∧
    (j.kind = .rackzD → i < 1024 → b.out = [] → b.written = [] → i = b.got.length → j.codedTo g = true → j.usedTo g + i < j.streamLen →
      j.da.global = false →
      let want := j.granuleCount g / 8
      let bytes := (upFrom 0 (i + 1)).map fun n => (b.got.put i v).get n 0
      (∀ used ws, decodeTokens (s.core core).dict want (want + 1) 0 [] bytes = .done used ws → 0 < ws.length →
        g + 1 < j.granules ∨ j.usedTo g + used = j.streamLen →
        ∃ t j', exec (.granuleByte false core id g i 0) s = .next t ∧ (t.core core).inflight.find? k = some j'
          ∧ (j'.block g).out = ws.flatMap (fun w => toBytes 8 w.toNat) ∧ (j'.block g).used = used) ∧
      ∀ p, decodeTokens (s.core core).dict want (want + 1) 0 [] bytes = .bad p →
        ∃ t, exec (.granuleByte false core id g i 0) s = .next t ∧ FailedAt s t core k j g 0x17
          (((streamByte j.da j.role j.cellsA (j.usedTo g + p)).headD 0 / 8) % 2 ^ 56).toNat) ∧
    (j.kind.isCoder = true → i < b.out.length → i ∉ b.written → j.codedTo g = true → g = 0 ∨ (j.block (g - 1)).written ≠ [] →
      j.db.global = false ∨ b.written ≠ [] →
      let places := (streamByte j.db j.role j.cellsB (j.producedTo g + i)).map fun x =>
        (s.jobLoc j (2 * g + 1) j.db.global (x / 8), (x % 8).toNat)
      Apart s places → ∃ t, exec (.granuleByte false core id g (1024 + i) 0) s = .next t ∧ t.ctxs = s.ctxs
        ∧ BitsWritten s t (places.zip ((upFrom 0 8).map ((b.out.getD i 0).getLsbD))))

/-- R123, R219, R220, R234, R235, R281: a written granule is counted at its counter, a RACKZ.C writing its length behind it before its
last count, or alone where it compresses no byte; DICTLD loads the dictionary from the slice, and counts its generation; a word that a
press command has not read yet is read as it stands, and row r reads none before row r − 1 has begun. -/
def Sys2Proof.Claims.CountsAndLoads : Prop :=
  ∀ (s : State) (core : Nat), Canonical s →
    (∀ id k j m role off home, (s.core core).jobOf? id = some (k, j) → s.jobHeld j = false → j.doomed = none →
      j.counterAt m = some (role, off) → off % 8 = 0 →
      m < j.receivers → let g := j.countedAt m;
      g < j.granules → j.granuleDone g = true → s.coreOf? j.launch role = some home →
      let count := toBytes 8 ((s.core home).slice.word off + toWord (j.granuleCount g)).toNat
      ∃ t, exec (.count core id m) s = .next t ∧ t.ctxs = s.ctxs ∧ StoredAt s t (.slice j.launch role off)
        (if j.kind = .rackzC ∧ g + 1 = j.granules then count ++ toBytes 8 (j.producedTo j.granules) else count)) ∧
    (∀ id k j m role off home, (s.core core).jobOf? id = some (k, j) → s.jobHeld j = false → j.kind = .rackzC → j.granules = 0 →
      j.counterAt m = some (role, off) → s.coreOf? j.launch role = some home → off % 8 = 0 →
      ∃ t, exec (.count core id m) s = .next t ∧ t.ctxs = s.ctxs ∧ (t.core core).inflight = (s.core core).inflight.erase k
        ∧ StoredAt s t (.slice j.launch role (off + 8)) (toBytes 8 0)) ∧
    (∀ j rest, (s.core core).rackQueue = j :: rest → j.kind = .dictld → (∀ p ∈ (s.core core).inflight, p.2.kind.isCoder = false) →
      (s.core core).slicePoison j.dictAt 2048 = none → ∃ t, exec (.dictldPerform core) s = .next t
        ∧ (t.core core).dictGen = (s.core core).dictGen + 1
        ∧ (∀ i, i < 256 → (t.core core).dict.get i 0 = (s.core core).slice.word (j.dictAt + 8 * i))
        ∧ ((s.ctx (.slot core j.slot)).ctl.hold = some (.command j.id) → s.tapeOf? (.slot core j.slot) .decanting = none →
          (t.ctx (.slot core j.slot)).ctl = (s.ctx (.slot core j.slot)).ctl.advance)) ∧
    (∀ cluster id r word c, (s.cluster cluster).press.state = .busy core c → c.id = id → s.rowMayRead c r word = true →
      s.launchMoves c.launch = false →
      ∃ t c', exec (.granuleByte true cluster id r word 0) s = .next t
        ∧ (t.cluster cluster).press.state = .busy core c' ∧ c'.latched.find? (readKey r word) = some (toWord (s.pressWord c r word))
        ∧ { c' with latched := c.latched } = c ∧ t.ctxs = s.ctxs ∧ t.cores = s.cores) ∧
    ∀ cluster id r word c, (s.cluster cluster).press.state = .busy core c → 0 < r → (∀ p ∈ c.latched, p.1 / 2 ^ 28 ≠ r - 1) →
      exec (.granuleByte true cluster id r word 0) s = .next s

/-- `CopySteps`, `CoderCodes`, `CoderSteps` and `CountsAndLoads`: the steps of the racking engine, and the reads of the press. -/
def Obligations.RackingSteps : Prop :=
  CopySteps ∧ CoderCodes ∧ CoderSteps ∧ CountsAndLoads

namespace Sys2Proof.Claims

/-- The debt of the tenant whose group a core runs grows by `n` cycles, and no other tenant's (R248, R386). -/
def DebtGrew (s t : State) (core n : Nat) : Prop :=
  let pays := fun (x : Nat) => ∃ b g, (s.core core).binding = some b ∧ s.group? b.launch = some g ∧ g.tenant = x
  { t.dispatch with debt := s.dispatch.debt } = s.dispatch ∧ ∀ x,
    (pays x → t.dispatch.debt.get x 0 = s.dispatch.debt.get x 0 + toWord n)
    ∧ (¬ pays x → t.dispatch.debt.get x 0 = s.dispatch.debt.get x 0)

/-- Core `core` becomes `k`, and the press of its cluster `p`; its tenant's debt grows by `owed`; beside them and contexts nothing is
changed. -/
def PressBecame (s t : State) (core owed : Nat) (p : Press) (k : Core) : Prop :=
  let cl := clusterOf core
  { t with ctxs := s.ctxs, cores := s.cores, clusters := s.clusters, dispatch := s.dispatch } = s ∧ DebtGrew s t core owed
    ∧ (∀ m, m ≠ core → t.core m = s.core m)
    ∧ t.core core = k ∧ (∀ c, c ≠ cl → t.cluster c = s.cluster c) ∧ t.cluster cl = { s.cluster cl with press := p }

/-- A core whose lease has ended other than by UNLEASE: it asks again when a command other than UNLEASE heads its queue (R249). -/
def offLease (k : Core) : Core :=
  { k with lease := { k.lease with
      held := false
      req := k.lease.req || (k.lease.lv && (k.pressQueue.head?.map fun c => decide (c.kind ≠ .unlease)).getD false) } }

/-- A row of zeros in float mode for a group (R247). -/
def grantedRow (launch : Nat) : AccRow := ⟨some launch, false, 0, Vector.replicate 128 0, 0, 0⟩

end Sys2Proof.Claims

/-- R247: the arbiter asks leave for the requesting core of the highest PRIO, the one that follows the last grantee among equals; a
grant tags the lease's rows with the group, those of other contexts made zero, and reloads weights that were displaced.
R248 to R250, R386: a lease ends at its cycle limit, after idling while another core asks, and at UNLEASE, which clears C.LEASE; the
cycles past 65,536 are its tenant's debt.  R254, R267: a reload that fails its class check has its detail left where the PLOADW that
latched the block would have. -/
def Obligations.LeasesGrantedAndEnded : Prop :=
  ∀ (s : State) (core : Nat),
    let cl := clusterOf core
    let p := (s.cluster cl).press
    let k := s.core core
    let free := { p with state := .free }
    let cyc := min (s.now - k.lease.cyc) 0x1FFFF
    let owed := cyc - 65536
    let isOver := ∀ i : Instr, i = .leaseCycleLimit cl ∨ i = .leaseIdleEnd cl → (i = .leaseIdleEnd cl → 1024 ≤ s.now - k.lease.idle ∧
      k.pressQueue = [] ∧ ∃ j, j < 17 ∧ 17 * cl + j ≠ core ∧ (s.core (17 * cl + j)).lease.req = true) →
      (i = .leaseCycleLimit cl → 65536 ≤ s.now - k.lease.cyc) →
      ∃ t, exec i s = .next t ∧ PressBecame s t core owed free (offLease k) ∧ t.ctxs = s.ctxs
    (∀ i, p.state = .free → p.last < 17 → i < 17 → core = 17 * cl + i → k.lease.req = true →
      (∀ j, j < 17 → j ≠ i → (s.core (17 * cl + j)).lease.req = true → (s.core (17 * cl + j)).lease.prio < k.lease.prio
        ∨ ((s.core (17 * cl + j)).lease.prio = k.lease.prio ∧ (i + 16 - p.last) % 17 < (j + 16 - p.last) % 17)) →
      ∃ t, exec (.leaseArbitration cl) s = .next t ∧ PressBecame s t core 0 { p with state := .asking core } k ∧ t.ctxs = s.ctxs) ∧
    (p.state = .asking core →
      (k.lease.req = false → ∃ t, exec (.leaveGiven cl) s = .next t ∧ PressBecame s t core 0 free k ∧ t.ctxs = s.ctxs) ∧
      ∀ b, k.binding = some b → k.lease.req = true → ∃ t, exec (.leaveGiven cl) s = .next t
        ∧ (t.cluster cl).press.last = core % 17 ∧ (t.core core).lease.held = true ∧ (t.core core).lease.req = false
        ∧ (t.core core).lease.cyc = s.now
        ∧ (∀ r, (t.cluster cl).press.row r = if k.lease.row0 ≤ r ∧ r < k.lease.row0 + k.lease.rows
              ∧ (p.row r).tag ≠ some b.launch then grantedRow b.launch else p.row r)
        ∧ (k.latched = none ∨ k.lease.wv = true → t.ctxs = s.ctxs ∧ (t.cluster cl).press.state = .held core ∧ (t.core core).lease.cmds = 0)
        ∧ (∀ w, k.latched = some w → k.lease.wv = false → rateClass (pressRate (blockFmt w)) ≤ k.lease.pcls →
          t.ctxs = s.ctxs ∧ (t.core core).lease.cmds = 1
            ∧ ∃ c, (t.cluster cl).press.state = .busy core c ∧ c.kind = .ploadw ∧ c.block = w ∧ c.launch = b.launch)
        ∧ ∀ w, k.latched = some w → k.lease.wv = false → k.lease.pcls < rateClass (pressRate (blockFmt w)) →
          let a := Agent.slot core k.loader.2.1;
          (t.cluster cl).press.state = .held core ∧ ((s.ctx a).act.id = k.loader.2.2 → (s.ctx a).ctl.status ≠ .free →
            (t.ctx a).pressFault = detailWord 0x11 k.loader.1)) ∧
    (p.state = .held core → k.lease.held = true → isOver) ∧
    (p.state = .held core → s.now - k.lease.cyc < 65536 → ∃ t, exec (.leaseCycleLimit cl) s = .next t ∧ t = s) ∧
    ∀ c rest, k.pressQueue = c :: rest → c.kind = .unlease → (∀ x, p.state ≠ .busy core x) →
      ∃ t, exec (.unleaseAct core) s = .next t ∧ Woken s t core .press ∧ PressBecame s t core (if k.lease.held then owed else 0)
        (if k.lease.held then free else p)
        { k with pressQueue := rest, lease := Lease.none, latched := none }

namespace Sys2Proof.Claims

/-- The lease goes on after a command, or ends where it has run its 64 commands or 65,536 cycles (Table 10-6). -/
def GoesOn (s t : State) (core cmds : Nat) : Prop :=
  let l := (s.core core).lease
  if 64 ≤ cmds ∨ 65536 ≤ s.now - l.cyc then (t.cluster (clusterOf core)).press.state = .free ∧ (t.core core).lease.held = false
  else (t.cluster (clusterOf core)).press.state = .held core ∧ (t.core core).lease.held = true ∧ (t.core core).lease.idle = s.now

end Sys2Proof.Claims

/-- R251, R254, R267: the head of the holder's queue starts, and CMDS counts it; one that fails its start check has its detail left for
its slot.  R123, R281: a word that a command has not read yet is read as it stands.
R255: PLOADW latches a tile of raw elements with its FMTB.  R105, R257, R259, R268: PSTREAM accumulates its A rows past the tile in
order, row r into DROW + r mod DCNT, and adds its rows to its counter.  A lease goes on, or ends, after each.
That INIT in float mode sets the anchor to 0, that a zero element or weight contributes 0, and what an anchored row does with a product
that is no number are the model's choices (log entries 56, 55). -/
def Obligations.PressCommandsPerformed : Prop :=
  ∀ (s : State) (core : Nat),
    let cl := clusterOf core
    let p := (s.cluster cl).press
    let k := s.core core
    (∀ c rest, p.state = .held core → k.lease.held = true → k.pressQueue = c :: rest → c.core = core → c.kind ≠ .unlease →
      s.now - k.lease.cyc < 65536 → s.noticeWaits core c.launch c.role = false →
      let fa := blockFmt c.block
      let cmds := min 64 (k.lease.cmds + 1)
      let starts := ∃ t, exec (.pressCommandStart cl) s = .next t ∧ Woken s t core .press
        ∧ PressBecame s t core 0 { p with state := .busy core c, source := p.rows }
            { k with pressQueue := rest, lease := { k.lease with cmds := cmds } }
      let fails := fun (cause : Nat) => let a := Agent.slot core c.slot;
        (s.ctx a).act.id = c.act → (s.ctx a).ctl.status ≠ .free → ∃ t, exec (.pressCommandStart cl) s = .next t
          ∧ (t.ctx a).pressFault = detailWord cause c.addr ∧ (t.core core).pressQueue = rest ∧ GoesOn s t core cmds
      (c.kind = .pdrain → starts) ∧
      (c.kind = .ploadw → if rateClass (pressRate fa) ≤ k.lease.pcls then starts else fails 0x11) ∧
      (c.kind = .pstream → match p.weights with
        | none => fails 0x17
        | some t =>
          if t.core ≠ core ∨ k.lease.wv = false ∨ pressPairs fa t.fmtb = false then fails 0x17
          else if k.lease.pcls < rateClass (min (pressRate fa) (pressRate t.fmtb)) then fails 0x11
          else
            let bad := (psAnchored c.block = true ∧ isInt8 fa = true ∧ psAnch c.block ≠ 0) ∨ (psInit c.block = false ∧ ∃ d,
              psDrow c.block ≤ d ∧ d < psDrow c.block + psDcnt c.block ∧ ((p.row d).anchored ≠ psAnchored c.block
                ∨ (psAnchored c.block = true ∧ (p.row d).anchor ≠ psAnch c.block)));
            (bad → fails 0x17) ∧ (¬ bad → starts))) ∧
    (∀ c, p.state = .busy core c → k.lease.held = true → c.core = core → s.launchMoves c.launch = false →
      (∀ r word m, c.latched.find? (readKey r word) = none → s.coreOf? c.launch (8 * word / 2 ^ 18) = some m →
        Clean s m (8 * word % 2 ^ 18) 8 → s.pressWord c r word = ((s.core m).slice.word (8 * word % 2 ^ 18)).toNat) ∧
      (c.kind = .ploadw → let f := blockFmt c.block;
        let w := fWidth f;
        let K := pressK f;
        ∃ t tile, exec (.pressCommandComplete cl) s = .next t ∧ GoesOn s t core k.lease.cmds ∧ t.ctxs = s.ctxs
          ∧ (t.cluster cl).press.weights = some tile ∧ tile.core = core ∧ tile.fmtb = f ∧ tile.k = K
          ∧ (t.core core).latched = some c.block ∧ (t.core core).loader = (c.addr, c.slot, c.act) ∧ (t.core core).lease.wv = true
          ∧ (∀ j, j < 17 → 17 * cl + j ≠ core → (t.core (17 * cl + j)).lease.wv = false)
          ∧ (t.cluster cl).press.rows = p.rows
          ∧ (fKind f ≠ 7 → ∀ i m, i < K → m < 128 → tile.bits[128 * i + m]? = some (BitVec.ofNat 16
              (s.pressBits c 0 (8 * ((blk c.block 0).toNat + i * ((blk c.block 1).toNat % 2 ^ 32)) + w * m) w)))) ∧
      (∀ t0 home, c.kind = .pstream → p.weights = some t0 → psIndexed c.block = false → 0 < psDcnt c.block →
        (psCounted c.block = true → s.coreOf? c.launch (psCounter c.block / 2 ^ 18) = some home) →
        let row0 := fun (d : Nat) => if psInit c.block = true then { p.row d with
            anchored := psAnchored c.block, anchor := if psAnchored c.block then psAnch c.block else 0,
            cells := Vector.replicate 128 0, ovf := 0, bad := 0 } else p.row d
        ∃ t, exec (.pressCommandComplete cl) s = .next t ∧ GoesOn s t core k.lease.cmds ∧ t.ctxs = s.ctxs
          ∧ (∀ d, (t.cluster cl).press.row d = if psDrow c.block ≤ d ∧ d < psDrow c.block + psDcnt c.block then
              ((upFrom 0 (psRows c.block)).filter fun r => decide (psDrow c.block + r % psDcnt c.block = d)).foldl
                (fun row r => row.accumulate t0 (s.aElements c p t0.k r r)) (row0 d)
            else p.row d)
          ∧ (Canonical s → if psCounted c.block then
              StoredAt s t (.slice c.launch (psCounter c.block / 2 ^ 18) (psCounter c.block % 2 ^ 18)) (toBytes 8
                ((s.core home).slice.word (psCounter c.block % 2 ^ 18) + toWord (psRows c.block)).toNat)
            else ∀ q, t.readLoc q = s.readLoc q))) ∧
    ∀ (r : AccRow) (t : Weights) (a : List FVal) (n : Nat), n < 128 →
      let products := a.mapIdx fun i x => pressProduct x (t.value i n)
      (r.anchored = false → (r.accumulate t a).cell n
        = BitVec.ofNat 72 (encodeF fp64 (sum64 (decodeF fp64 (r.cell n).toNat) (kTree 10 products)))) ∧
      (r.anchored = true →
        let units := fun (x : FVal) => match x with
          | .fin neg m e => some (roundInt .rne 0 neg m (e - r.anchor)).1
          | _ => none
        let lost := fun (x : FVal) => match units x with
          | some q => decide (2 ^ 63 ≤ q.natAbs)
          | none => true
        (r.accumulate t a).cell n = r.cell n
            + (products.map fun x => if lost x then (0 : BitVec 72) else BitVec.ofInt 72 ((units x).getD 0)).foldr (· + ·) 0
          ∧ (r.accumulate t a).ovf.getLsbD n = (r.ovf.getLsbD n || products.any lost))

/-- R261, R262: a delivery of a drain takes the lowest free entry of the drain buffer, converts a float row to FP32 in its mode, or
copies half an anchored row, and sends a notice of kind 2 with the flags of the conversion to the holder's role; CLR clears the row
after its last delivery.  A drain ends when its last delivery has been made.  That CLR sets the anchor of a float row to 0 is the
model's choice (log entry 56). -/
def Obligations.DrainsDelivered : Prop :=
  ∀ (s : State) (core : Nat) (c : PressCmd) (row half : Nat),
    let cl := clusterOf core
    let p := (s.cluster cl).press
    let x := blk c.block 0
    let clear := x.getLsbD 21
    let r := p.row row
    let first := x.toNat % 2 ^ 10
    let count := x.toNat / 2 ^ 10 % 2 ^ 11
    let mode := modeOf ((x.extractLsb' 22 3))
    p.state = .busy core c → c.kind = .pdrain →
    (∀ e, (p.deliveries x)[c.next]? = some (row, half) → s.noticeWaits core c.launch c.role = false →
      (s.core core).freeDrain = some e → r.bad = 0 →
      ∃ t vs payload, exec (.drainDelivery cl) s = .next t ∧ t.ctxs = s.ctxs ∧ (s.core core).drain.find? e = none
        ∧ (t.core core).drain.find? e = some vs ∧ vs.length = 8 ∧ (∀ i, i ≠ e → (t.core core).drain.find? i = (s.core core).drain.find? i)
        ∧ (t.cluster cl).press.state = .busy core { c with next := c.next + 1 }
        ∧ t.mesh = s.mesh ++ [⟨s.nextId, c.launch, c.role, ⟨2, 16, c.role, 0, 0, payload⟩, some e⟩] ∧ payload.length = 16
        ∧ (∀ d, d ≠ row → (t.cluster cl).press.row d = p.row d)
        ∧ (r.anchored = false → x.toNat / 2 ^ 22 % 2 ^ 3 < 5 →
          let one := fun (n : Nat) => roundF fp32 mode (x.getLsbD 25) (draw c.key ((c.ctr + (row - first)) % 2 ^ 32) n)
            (decodeF fp64 (r.cell n).toNat)
          (∀ n, n < 128 → lane 32 (vs.getD (n / 16) 0) (n % 16) = BitVec.ofNat 32 (encodeF fp32 (one n).1))
          ∧ (t.cluster cl).press.row row = (if clear then { r with anchor := 0, cells := Vector.replicate 128 0, ovf := 0, bad := 0 } else r)
          ∧ let flags := (upFrom 0 128).foldl (fun (f : Flags) n => f ||| (one n).2) 0
            payload = toBytes 8 (x.toNat / 2 ^ 32 * 2 ^ 32 + flags.toNat * 2 ^ 23 + row) ++ toBytes 8 0)
        ∧ (r.anchored = true →
          (∃ ovfm : Word, payload = toBytes 8 (x.toNat / 2 ^ 32 * 2 ^ 32 + (r.anchor % 2 ^ 11).toNat * 2 ^ 12 + 2 ^ 11
              + half * 2 ^ 10 + row) ++ toBytes 8 ovfm.toNat ∧ ∀ m, m < 64 → ovfm.getLsbD m = (r.ovf.getLsbD (64 * half + m)
                || decide ((r.cell (64 * half + m)).toInt < -(2 ^ 63)) || decide (2 ^ 63 ≤ (r.cell (64 * half + m)).toInt)))
          ∧ (∀ m, m < 64 → lane 64 (vs.getD (m / 8) 0) (m % 8) = (r.cell (64 * half + m)).setWidth 64)
          ∧ (half = 1 → clear = true → (t.cluster cl).press.row row
              = { r with cells := Vector.replicate 128 0, ovf := 0, bad := 0 }))) ∧
    ((∀ i, first ≤ i → i < first + count → (p.row i).anchored = false) →
      (p.deliveries x)[c.next]? = (if c.next < count then some (first + c.next, 0) else none)
      ∧ (count ≤ c.next → (s.core core).lease.held = true → ∃ t, exec (.pressCommandComplete cl) s = .next t
        ∧ GoesOn s t core (s.core core).lease.cmds))

/-! ### The Trellis performs -/

namespace Sys2Proof.Claims

/-- The head of a cluster's Trellis queue is a command that its slot waits for, with no tape at hand. -/
def TrellisHead (s : State) (cl : Nat) (c : TrelCmd) (rest : List TrelCmd) : Prop :=
  let k := s.ctx c.agent
  (s.trellis cl).stream = none ∧ (s.trellis cl).queue = c :: rest ∧ k.act.id = c.act ∧ k.ctl.hold = some (.command c.id)
    ∧ k.ctl.status = .running ∧ ∀ st, s.tapeOf? c.agent st = none

/-- The command has left the queue, the Trellis is `u`, and its slot has gone on past its instruction. -/
def TrellisDid (s t : State) (cl : Nat) (c : TrelCmd) (u : Trellis) : Prop :=
  t.trellis cl = u ∧ t.ctx c.agent = (s.ctx c.agent).advance

/-- The command has left the queue with no effect on the Trellis and memory, and its slot has taken a trap (R293, R348). -/
def TrellisTraps (s t : State) (cl : Nat) (c : TrelCmd) (cause : Nat) (f : Word) : Prop :=
  let k := s.ctx c.agent
  t.trellis cl = { s.trellis cl with queue := (s.trellis cl).queue.drop 1 } ∧ (t.ctx c.agent).trap = trapRegs k k.sp.pl cause f (progOf k)
    ∧ (t.ctx c.agent).ctl.status = .parked ∧ (t.ctx c.agent).regs = k.regs ∧ ∀ p, t.readLoc p = s.readLoc p

/-- Byte `i` of work record `n` of a command, through its pages. -/
def workByte (s : State) (c : TrelCmd) (w : List Word) (ps : Table Nat (Word × Word)) (n i : Nat) : Loc :=
  s.unitLoc c.launch ps (!cfgCellar w) ((cfgWork w + 32 * n + i : Nat) : Int)

/-- The particle record of row `n` of a command. -/
def recordBytes (s : State) (c : TrelCmd) (ps : Table Nat (Word × Word)) (n : Nat) : List Byte :=
  s.trelBytes c ps c.desc.global (c.recordAt (c.rows.getD n 0)) 16

/-- An FP32 pattern's value in units of 2^−149. -/
def units (b : List Byte) (i : Nat) : Option Int := fx32 (fromBytes ((b.drop (4 * i)).take 4))

/-- TRBIN or TRUPD passes every check: the owner, the pages and the records (R297); its roles stay where they are (R19), and its work
records lie apart in memory. -/
def TrellisPasses (s : State) (cl : Nat) (c : TrelCmd) (ps : Table Nat (Word × Word)) : Prop :=
  let w := (s.trellis cl).block
  (s.trellis cl).owner = some c.launch ∧ s.unitPages none cl c.asid (c.needs w) [] = .ok ps ∧ s.trelCheck c w ps = none
    ∧ s.runsMove c.launch ((!cfgCellar w, cfgWork w, 32 * c.rows.length) :: c.recordRuns) = false
    ∧ (∀ n, n < c.rows.length → ∀ i, i < 32 → workByte s c w ps n i = (workByte s c w ps n 0).add i
      ∧ (s.readLoc (workByte s c w ps n i)).isSome = true)
    ∧ ∀ n m, n < c.rows.length → m < c.rows.length → ∀ i j, i < 32 → j < 32 →
      byteOf s (workByte s c w ps n i) = byteOf s (workByte s c w ps m j) → n = m ∧ i = j

/-- The first `len` bytes of each work record become `f n`, and no other byte of memory is changed. -/
def WroteWork (s t : State) (cl : Nat) (c : TrelCmd) (ps : Table Nat (Word × Word)) (len : Nat) (f : Nat → List Byte) : Prop :=
  let w := (s.trellis cl).block
  (∀ n, n < c.rows.length → ∀ i, i < len → t.readLoc (workByte s c w ps n i) = some ((f n).getD i 0))
    ∧ ∀ p, (∀ n, n < c.rows.length → ∀ i, i < len → byteOf s p ≠ byteOf s (workByte s c w ps n i)) → t.readLoc p = s.readLoc p

end Sys2Proof.Claims

/-- R290, R291, R293, R295, R297 to R300, R307: what the Trellis does with the head of its queue.  TRCFG claims it or configures it
again, TRREL frees it, TRBIN bins the particles by their cells, 32 in a cell at most, TRUPD writes their positions and finds
whether one has moved by more than half the skin, and TRPAIRS starts a stream on BINNED cells, which goes on after the end messages that
a saved stream had sent (R309). -/
def Obligations.TrellisCommandsPerformed : Prop :=
  (∀ (s : State) (cl : Nat) (c : TrelCmd) (rest : List TrelCmd), TrellisHead s cl c rest →
    let T := s.trellis cl
    let w := T.block
    let mine := T.owner = some c.launch
    let popped := { T with queue := rest }
    let N := c.rows.length
    let does := fun (i : Instr) (u : Trellis) => ∃ t, exec i s = .next t ∧ TrellisDid s t cl c u
    let traps := fun (i : Instr) (cause : Nat) (f : Word) => ∃ t, exec i s = .next t ∧ TrellisTraps s t cl c cause f
    (c.kind = .trcfg →
      (T.owner = none ∨ mine → does (.trcfgPerform cl)
        { popped with state := .empty, owner := some c.launch, block := c.block, npart := 0, bins := [] }) ∧
      (¬ (T.owner = none ∨ mine) → traps (.trcfgPerform cl) 0x05 0)) ∧
    (c.kind = .trrel → does (.trrelPerform cl)
      (if mine then { popped with state := .free, owner := none, block := [], npart := 0, bins := [] } else popped)) ∧
    (c.kind = .trbin →
      (¬ mine → traps (.trbinPerform cl) 0x05 0) ∧
      ∀ ps, TrellisPasses s cl c ps → Canonical s →
        let bytes := recordBytes s c ps
        let cell := fun (n : Nat) => cellOf w ((upFrom 0 3).map fun j => (units (bytes n) j).getD 0)
        let into := fun (k : Nat) => (upFrom 0 N).filter fun n => decide (cell n = k)
        (∀ k, 32 < (into k).length → (∀ j, j < k → (into j).length ≤ 32) →
          ∃ t, exec (.trbinPerform cl) s = .next t ∧ (t.ctx c.agent).ctl.status = .parked
            ∧ (t.ctx c.agent).trap = trapRegs (s.ctx c.agent) (s.ctx c.agent).sp.pl 0x0C (toWord (k * 2 ^ 32 + (into k).length))
              (progOf (s.ctx c.agent))
            ∧ t.trellis cl = popped ∧ ∀ p, t.readLoc p = s.readLoc p) ∧
        ((∀ k, (into k).length ≤ 32) → ∃ t u, exec (.trbinPerform cl) s = .next t ∧ TrellisDid s t cl c u
          ∧ u.state = .binned ∧ u.npart = N ∧ u.owner = T.owner ∧ u.block = w ∧ u.queue = rest ∧ (∀ k, u.bins.get k [] = into k)
          ∧ WroteWork s t cl c ps 32 fun n => bytes n ++ (bytes n).take 12 ++ toBytes 4 (cell n))) ∧
    (c.kind = .trupd →
      (¬ mine → traps (.trupdPerform cl) 0x05 0) ∧
      (mine → T.state = .empty → traps (.trupdPerform cl) 0x0D 0) ∧
      (mine → T.state ≠ .empty → N ≠ T.npart → traps (.trupdPerform cl) 0x17 (toWord (0x100 + c.qnum))) ∧
      ∀ ps, TrellisPasses s cl c ps → Canonical s → T.state ≠ .empty → N = T.npart →
        let bytes := recordBytes s c ps
        let old := fun (n : Nat) => (upFrom 0 12).map fun i => (s.readLoc (workByte s c w ps n (16 + i))).getD 0
        let moved := fun (n : Nat) => (∃ j, j < 3 ∧ units (old n) j = none) ∨
          let d := fun (j : Nat) => minImage w j ((units (bytes n) j).getD 0 - (units (old n) j).getD 0);
          cfgSkin w * cfgSkin w < 4 * (d 0 * d 0 + d 1 * d 1 + d 2 * d 2)
        ∃ t u, exec (.trupdPerform cl) s = .next t ∧ TrellisDid s t cl c u ∧ { u with state := T.state } = popped
          ∧ ((∃ n, n < N ∧ moved n) → u.state = .stale) ∧ (¬ (∃ n, n < N ∧ moved n) → u.state = T.state)
          ∧ WroteWork s t cl c ps 12 fun n => (bytes n).take 12) ∧
    (c.kind = .trpairs →
      (¬ mine → traps (.trpairsStart cl) 0x05 0) ∧
      (mine → c.desc.ext ≠ [cfgNc w 0, cfgNc w 1, cfgNc w 2] → traps (.trpairsStart cl) 0x17 (toWord (0x100 + c.qnum))) ∧
      (mine → c.desc.ext = [cfgNc w 0, cfgNc w 1, cfgNc w 2] → T.state ≠ .binned →
        traps (.trpairsStart cl) 0x0D (T.word c.launch)) ∧
      (mine → c.desc.ext = [cfgNc w 0, cfgNc w 1, cfgNc w 2] → T.state = .binned → does (.trpairsStart cl)
        { popped with stream := some ⟨c, 0, 0, [], List.replicate (pairReceivers c.role c.ctrl).length 0, c.ends, none⟩ }))) ∧
  (∀ (w : List Word) (p : List Int) (t : Nat) (d : Int),
    (cfgPer w t = false → minImage w t d = d) ∧
    (cfgPer w t = true → 0 < cfgL w t → -(cfgL w t) ≤ 2 * minImage w t d ∧ 2 * minImage w t d < cfgL w t
      ∧ ∃ k : Int, minImage w t d = d - k * cfgL w t) ∧
    (let c := fun (t : Nat) => let u := (p.getD t 0 - cfgO w t) / cfgH w t;
        if cfgPer w t then (u % (cfgNc w t : Int)).toNat else (min (max u 0) ((cfgNc w t : Int) - 1)).toNat;
      cellOf w p = (c 0 * cfgNc w 1 + c 1) * cfgNc w 2 + c 2))

namespace Sys2Proof.Claims

/-- Slot `a` of grid cell `c` and slot `b` of its neighbour at offset `e` of the offset order hold the pair, which a stream of the
command tests (R301); `x` is (c, e, a, b). -/
def TestsPair (T : Trellis) (q : TrelCmd) (x : Nat × Nat × Nat × Nat) (pair : Nat × Nat) : Prop :=
  let w := T.block
  let c := x.1
  let e := x.2.1
  let nc := fun (t : Nat) => (cfgNc w t : Int)
  let own := fun (t : Nat) => if t = 0 then c / (cfgNc w 1 * cfgNc w 2) else if t = 1 then c / cfgNc w 2 % cfgNc w 1 else c % cfgNc w 2
  let shifted := fun (t : Nat) => (own t : Int) + (e / 3 ^ (2 - t) % 3 : Nat) - 1
  let near := fun (t : Nat) => if cfgPer w t then shifted t % nc t else shifted t
  e < 27 ∧ (∃ cell ∈ q.region.walk (q.desc.ext.headD 0) q.lt, gridIndex w cell = c) ∧ (∀ t, t < 3 → 0 ≤ near t ∧ near t < nc t)
    ∧ (T.bins.get c [])[x.2.2.1]? = some pair.1
    ∧ (T.bins.get ((near 0 * nc 1 + near 1) * nc 2 + near 2).toNat [])[x.2.2.2]? = some pair.2
    ∧ pair.1 ≠ pair.2 ∧ (q.ctrl.getLsbD 16 = true ∨ pair.1 < pair.2)

/-- Lexicographic order. -/
def Precedes (x y : Nat × Nat × Nat × Nat) : Prop :=
  x.1 < y.1 ∨ (x.1 = y.1 ∧ (x.2.1 < y.2.1 ∨ (x.2.1 = y.2.1 ∧ (x.2.2.1 < y.2.2.1 ∨ (x.2.2.1 = y.2.2.1 ∧ x.2.2.2 < y.2.2.2)))))

/-- The order of R301: the pairs that a stream tests, by cell, offset, slot of the cell and slot of the neighbour. -/
def TestOrder (T : Trellis) (q : TrelCmd) (pairs : List (Nat × Nat)) : Prop :=
  ∃ K : List ((Nat × Nat × Nat × Nat) × (Nat × Nat)), pairs = K.map Prod.snd ∧ (∀ x p, (x, p) ∈ K ↔ TestsPair T q x p)
    ∧ K.Pairwise fun u v => Precedes u.1 v.1

end Sys2Proof.Claims

/-- R301 to R303, R306: a stream tests one candidate pair after another, in the order of R301.  A pair within the cut-off is held with
its displacements and squared distance in FP32; three held pairs, or those left at the end, make message m, which goes to receiver
m mod P unless it is skipped; then each receiver gets an end message with its count of pairs and the total.  A displacement that
rounds to an infinity ends the stream, as a position does that cannot be read.  The stream of a group that is being saved has stopped
(R309).  That the stream has ended only when no message of it
is on its way is the model's reading (log entry 110). -/
def Obligations.PairsStreamed : Prop :=
  (∀ (T : Trellis) (c : TrelCmd), (∀ t, t < 3 → 0 < cfgNc T.block t) → TestOrder T c (T.candidates c)) ∧
  (∀ (s : State) (cl n : Nat) (st : Stream), (s.trellis cl).stream = some st → s.saving st.cmd.launch = true →
    ∃ t, exec (.emit cl n) s = .next t ∧ t = s) ∧
  ∀ (s : State) (cl n : Nat) (st : Stream), (s.trellis cl).stream = some st → st.parked = none → s.saving st.cmd.launch = false →
    s.pairsWait st.cmd = false →
    let c := st.cmd
    let T := s.trellis cl
    let w := T.block
    let left := (T.candidates c).drop st.tested
    let recv := pairReceivers c.role c.ctrl
    let P := recv.length
    let msg := fun (dst extra : Nat) (bs : List Byte) => (⟨s.nextId, c.launch, dst, ⟨1, bs.length, c.role, extra, 1, bs⟩, none⟩ : MeshMsg)
    let sent := fun (t : State) (held : List (List Byte)) (tested : Nat) =>
      t.mesh = s.mesh ++ (if c.ctrl.toNat / 2 ^ 32 ≤ st.formed then [msg (recv.getD (st.formed % P) 0) held.length held.flatten] else [])
        ∧ ∃ u, (t.trellis cl).stream = some u ∧ u.cmd = c ∧ u.formed = st.formed + 1 ∧ u.tested = tested ∧ u.held = []
          ∧ u.ends = st.ends ∧ ∀ k, k < st.counts.length → u.counts.getD k 0 = st.counts.getD k 0 + if k = st.formed % P then held.length else 0
    let only := fun (t : State) => t.ctxs = s.ctxs ∧ t.cores = s.cores ∧ t.mem = s.mem
      ∧ { t.trellis cl with stream := T.stream } = T
    let ends := fun (cause addr : Nat) => ∃ t, exec (.emit cl n) s = .next t ∧ t.mesh = s.mesh ∧ (t.trellis cl).stream = none
      ∧ ((s.ctx c.agent).act.id = c.act → (s.ctx c.agent).ctl.status ≠ .free →
        t.ctx c.agent = { s.ctx c.agent with trelFault := detailWord cause addr })
    (left = [] → st.held ≠ [] → ∃ t, exec (.emit cl n) s = .next t ∧ only t ∧ sent t st.held st.tested) ∧
    (left = [] → st.held = [] → st.ends < P → ∃ t, exec (.emit cl n) s = .next t ∧ only t
      ∧ t.mesh = s.mesh ++ [msg (recv.getD st.ends 0) 4 (toBytes 8 (st.counts.getD st.ends 0) ++ toBytes 8 (st.counts.foldl (· + ·) 0))]
      ∧ (t.trellis cl).stream = some { st with ends := st.ends + 1 }) ∧
    (left = [] → st.held = [] → P ≤ st.ends →
      let onWay := ∃ m ∈ s.mesh, m.launch = c.launch ∧ m.msg.kind = 1 ∧ m.msg.src = c.role;
      ∃ t, exec (.emit cl n) s = .next t ∧ only t ∧ t.mesh = s.mesh ∧ (onWay → t = s) ∧ (¬ onWay → (t.trellis cl).stream = none)) ∧
    (∀ i j rest cause addr, left = (i, j) :: rest → s.position cl c w i = .ends cause addr → ends cause addr) ∧
    (∀ i j rest pi ps cause addr, left = (i, j) :: rest → s.position cl c w i = .at_ pi ps → s.position cl c w j = .ends cause addr →
      ends cause addr) ∧
    ∀ i j rest pi pj ps qs, left = (i, j) :: rest → s.position cl c w i = .at_ pi ps → s.position cl c w j = .at_ pj qs →
      let d := fun (k : Nat) => round32 149 (minImage w k (pj.getD k 0 - pi.getD k 0))
      let v := fun (k : Nat) => (fx32 (d k)).getD 0
      let r2 := v 0 * v 0 + v 1 * v 1 + v 2 * v 2
      let hit := r2 ≤ cfgRcut w * cfgRcut w
      let pair := toBytes 2 i ++ toBytes 2 j ++ toBytes 4 (d 0) ++ toBytes 4 (d 1) ++ toBytes 4 (d 2) ++ toBytes 4 (round32 298 r2)
      let held := if hit then st.held ++ [pair] else st.held
      ((∃ k, k < 3 ∧ fx32 (d k) = none) → ends 0x17 (cfgWork w + 32 * j)) ∧
      ((∀ k, k < 3 → (fx32 (d k)).isSome = true) →
        (hit → st.held.length = 2 → ∃ t, exec (.emit cl n) s = .next t ∧ only t ∧ sent t held (st.tested + 1)) ∧
        (n = 0 → (hit → st.held.length ≠ 2) → ∃ t, exec (.emit cl n) s = .next t ∧ only t ∧
          (rest ≠ [] ∨ held = [] → t.mesh = s.mesh ∧ (t.trellis cl).stream = some { st with tested := st.tested + 1, held := held }) ∧
          (rest = [] → held ≠ [] → sent t held (st.tested + 1))))

/-! ### Faults, misses and mappings -/

namespace Sys2Proof.Claims

/-- Beside contexts and one cluster, which becomes `k`, nothing is changed. -/
def ClusterBecame (s t : State) (cl : Nat) (k : Cluster) : Prop :=
  { t with ctxs := s.ctxs, clusters := s.clusters } = s ∧ t.cluster cl = k ∧ ∀ c, c ≠ cl → t.cluster c = s.cluster c

/-- The cellarer cores that wait in FQWAIT have been answered: one whose lowest watched cluster with a kernel record is `c` goes on
with `c` (R358); every other context stands. -/
def WatchersAnswered (s t : State) : Prop :=
  (∀ k d u c, k < 16 → (s.ctx (.cel k)).ctl.hold = some (.fqwait d u) → c < Config.clusters →
    watches (s.ctx (.cel k)).sp.fqw c = true → (t.cluster c).kernelQueue ≠ [] →
    (∀ e, e < c → watches (s.ctx (.cel k)).sp.fqw e = true → (t.cluster e).kernelQueue = []) →
    t.ctx (.cel k) = wroteOf (s.ctx (.cel k)) d (toWord c))
  ∧ ∀ a, (∀ d u, (s.ctx a).ctl.hold ≠ some (.fqwait d u)) → t.ctx a = s.ctx a

/-- A slot that a miss of a page holds, in the cluster and address space of the miss. -/
def HeldBy (s : State) (cl asid page : Nat) (a : Agent) : Prop :=
  ∃ core n va, a = .slot core n ∧ n < 8 ∧ clusterOf core = cl ∧ (s.core core).binding.isSome = true ∧ s.asidOf core = asid
    ∧ (s.ctx a).ctl.hold = some (.miss va) ∧ va / 2 ^ 16 = page

/-- The entry in ENT0 and ENT1 breaks no rule of Table 19-1 (R366). -/
def GoodEntry (w0 w1 : Word) : Prop :=
  w1.getLsbD 63 = true ∧ w1.toNat / 2 ^ 61 % 4 < 3 ∧ w1.toNat / 2 ^ 59 % 4 < 3 ∧ w0.toNat < 2 ^ 56 ∧ w1.toNat % 2 ^ 13 = 0
    ∧ w0.toNat / 2 ^ 16 % 2 ^ 40 * 2 ^ 16 % pageSize (w1.toNat / 2 ^ 61 % 4) = 0
    ∧ w1.toNat / 2 ^ 16 % 2 ^ 40 * 2 ^ 16 % pageSize (w1.toNat / 2 ^ 61 % 4) = 0
    ∧ (w1.getLsbD 56 = true ↔ w1.toNat / 2 ^ 14 % 4 = 3)

end Sys2Proof.Claims

namespace Sys2Proof.Claims

/-- The part of a cluster's fault queue that a record goes to: the TSC's view for PAGE_FAULT and for a record of an engine, the kernel
part for any other (R352, R369; that an engine's record goes there whatever its cause is the model's reading, log entry 93). -/
def toView (r : FaultRec) : Bool :=
  decide (r.cause.toNat % 2 ^ 8 = 0x04) || decide (r.cause.toNat / 2 ^ 9 % 2 ^ 3 ≠ 0)

/-- A record that was sent before another: in an earlier cycle, or in the same one by a lower core, or by a slot and not an engine of
the core (R352). -/
def SentBefore (r e : SentRec) : Prop :=
  r.at_ < e.at_ ∨ (r.at_ = e.at_ ∧ (r.core < e.core ∨ (r.core = e.core ∧ r.engine = false ∧ e.engine = true)))

end Sys2Proof.Claims

/-- R351, R352, R358, R365 to R369: a fault record enters the part of the queue that its CODE names while there is room, those of one
cycle in the order of their cores, a slot's before an engine's, and wakes FQWAIT (that it arrives in a later cycle than the one in
which it was sent is the model's choice, log entry 107); RECPOP drops and RECFWD forwards the head of the record view.  A miss joins
the open entry of its page, which a HOT one does not (log entry 44), or opens one with a tag of its own (log entry 11); MQPOP takes
the head out of the view, a read of MQCNT clears BAD.  FILL installs an entry, or sets BAD for a refused one, and lets the slots go
on that waited for its page; REFUSE lets them go on to raise its cause. -/
def Obligations.FaultAndMissQueues : Prop :=
  ∀ (s : State) (cl : Nat),
    let C := s.cluster cl
    (∀ k r, C.pending[k]? = some r →
      let same := fun (e : SentRec) => toView e.rec_ = toView r.rec_
      (s.now ≤ r.at_ ∨ (∃ e ∈ C.pending, same e ∧ SentBefore e r) → ∃ t, exec (.faultQueueEntry cl k) s = .next t ∧ t = s) ∧
      (r.at_ < s.now → (∀ e ∈ C.pending, same e → ¬ SentBefore e r) → (∀ e ∈ C.pending.take k, same e → SentBefore r e) →
        let room := if toView r.rec_ then C.view.length < 64 else C.kernelQueue.length < 64
        ∃ t, exec (.faultQueueEntry cl k) s = .next t ∧
          (room → ClusterBecame s t cl { C with
            pending := dropAt C.pending k
            view := if toView r.rec_ then C.view ++ [r.rec_] else C.view
            kernelQueue := if toView r.rec_ then C.kernelQueue else C.kernelQueue ++ [r.rec_] } ∧ WatchersAnswered s t) ∧
          (¬ room → t = s))) ∧
    (∃ t, exec (.recpop cl) s = .next t ∧ ClusterBecame s t cl { C with view := C.view.drop 1 } ∧ t.ctxs = s.ctxs) ∧
    (∀ r rest, C.view = r :: rest → C.kernelQueue.length < 64 → ∃ t, exec (.recfwd cl) s = .next t ∧ WatchersAnswered s t
      ∧ ClusterBecame s t cl { C with view := rest, kernelQueue := C.kernelQueue ++ [r] }) ∧
    (∀ k m, C.missWaits[k]? = some m → (m.kind = 3 ∨ s.missHeld m.asid m.va = false) → (m.kind = 3 ∨ s.lookup none cl m.asid m.va = none) →
      let joins := fun (e : Miss) => m.kind ≠ 3 ∧ e.kind ≠ 3 ∧ e.asid = m.asid ∧ e.vpn = m.va / 2 ^ 16 * 2 ^ 16
      ∃ t, exec (.missPost cl k) s = .next t ∧ t.ctxs = s.ctxs ∧
        if ∃ e ∈ C.misses, joins e then ClusterBecame s t cl { C with
          missWaits := dropAt C.missWaits k
          misses := C.misses.map fun e => if joins e then { e with
            count := (e.count + 1) % 2 ^ 16, kind := if m.kind = 1 then 1 else e.kind, askers := m.asker.toList ++ e.askers }
            else e }
        else if 256 ≤ C.misses.length then t = s
        else ∃ tag, tag < 2 ^ 16 ∧ (∀ e ∈ C.misses, e.tag ≠ tag) ∧ (t.cluster cl).missWaits = dropAt C.missWaits k
          ∧ (t.cluster cl).misses = C.misses ++ [⟨m.kind, m.va / 2 ^ 16 * 2 ^ 16, m.asid, tag, 1, m.hwid, m.src, m.role, true,
            m.asker.toList⟩]) ∧
    (∀ pre m post, C.misses = pre ++ m :: post → (∀ e ∈ pre, e.view = false) → m.view = true →
      ∃ t, exec (.mqpop cl) s = .next t ∧ ClusterBecame s t cl { C with misses := pre ++ { m with view := false } :: post }
        ∧ t.ctxs = s.ctxs) ∧
    ((∀ e ∈ C.misses, e.view = false) → ∃ t, exec (.mqpop cl) s = .next t ∧ ClusterBecame s t cl C ∧ t.ctxs = s.ctxs) ∧
    (∃ t, exec (.mqcnt cl) s = .next t ∧ ClusterBecame s t cl { C with bad := false } ∧ t.ctxs = s.ctxs) ∧
    (∀ v m, C.misses.find? (fun e => decide (e.tag = v.toNat % 2 ^ 16)) = some m →
      (¬ GoodEntry C.ent0 C.ent1 → ∃ t, exec (.fill cl v) s = .next t ∧ ClusterBecame s t cl { C with bad := true } ∧ t.ctxs = s.ctxs) ∧
      (GoodEntry C.ent0 C.ent1 → ∃ t, exec (.fill cl v) s = .next t
        ∧ (let others := C.tlb.filter fun e => decide ((e.w0, e.w1) ≠ (C.ent0, C.ent1));
          ∃ rest, (t.cluster cl).tlb = ⟨C.ent0, C.ent1, 0, false⟩ :: rest
            ∧ (others.length < 2048 → rest = others) ∧ (2048 ≤ others.length → ∃ i, i < others.length ∧ rest = dropAt others i))
        ∧ (entCovers C.ent0 C.ent1 m.asid m.vpn = false → (t.cluster cl).misses = C.misses ∧ t.ctxs = s.ctxs)
        ∧ (entCovers C.ent0 C.ent1 m.asid m.vpn = true → (t.cluster cl).misses = C.misses.filter (fun e => decide (e.tag ≠ m.tag))
          ∧ (∀ a, HeldBy s cl m.asid (m.vpn / 2 ^ 16) a → t.ctx a = { s.ctx a with
              ctl := { (s.ctx a).ctl with hold := none, refusal := none } })
          ∧ ∀ a, ¬ HeldBy s cl m.asid (m.vpn / 2 ^ 16) a → t.ctx a = s.ctx a))) ∧
    (∀ v m, C.misses.find? (fun e => decide (e.tag = v.toNat / 2 ^ 48)) = some m → m.kind = 3 →
      v.toNat % 2 ^ 8 = 0x04 ∨ v.toNat % 2 ^ 8 = 0x05 ∨ v.toNat % 2 ^ 8 = 0x0A → ∃ t, exec (.refuse cl v) s = .next t
        ∧ ClusterBecame s t cl { C with misses := C.misses.filter (fun e => decide (e.tag ≠ m.tag)) } ∧ t.ctxs = s.ctxs) ∧
    ∀ v m, C.misses.find? (fun e => decide (e.tag = v.toNat / 2 ^ 48)) = some m → m.kind ≠ 3 →
      let cause := v.toNat % 2 ^ 8
      if cause = 0x04 ∨ cause = 0x05 ∨ cause = 0x0A then
        ∃ t, exec (.refuse cl v) s = .next t ∧ (t.cluster cl).misses = C.misses.filter (fun e => decide (e.tag ≠ m.tag))
          ∧ (∀ a, HeldBy s cl m.asid (m.vpn / 2 ^ 16) a → t.ctx a = { s.ctx a with
              ctl := { (s.ctx a).ctl with hold := none, refusal := some (m.vpn / 2 ^ 16, cause) } })
          ∧ ∀ a, (∀ core n, a ≠ .slot core n) → t.ctx a = s.ctx a
      else ∃ t, exec (.refuse cl v) s = .next t ∧ t = s

namespace Sys2Proof.Claims

/-- The entries that `gone` names are in no TLB; every other one stays. -/
def EntriesDropped (s t : State) (gone : Word × Word → Bool) : Prop :=
  (∀ c, (t.cluster c).tlb = (s.cluster c).tlb.filter fun e => !gone (e.w0, e.w1))
    ∧ ∀ n, (t.core n).utlb = (s.core n).utlb.filter fun e => !gone e

/-- The generations that the 2 MiB regions of `n` bytes from `va` meet are raised by one, and no other (R372). -/
def GensRaised (s t : State) (asid va n : Nat) : Prop :=
  ∀ asid' start, asid' < 2 ^ 16 →
    let met := ∃ r, va / 2 ^ 21 ≤ r ∧ r ≤ (va + n - 1) / 2 ^ 21 ∧ Nat.xor (r % 2 ^ 16) asid = Nat.xor (start / 2 ^ 21 % 2 ^ 16) asid'
    (met → t.generation asid' start = s.generation asid' start + 1) ∧ (¬ met → t.generation asid' start = s.generation asid' start)

/-- A translation entry of a held store, `w`, at the new place of its page: the address of the page alone is another, and it is in
the device's own memory (R375). -/
def MovedEntry (m : Moving) (w w' : Word × Word) : Prop :=
  w'.1 = w.1 ∧ wbits w'.2 63 57 = wbits w.2 63 57 ∧ wbits w'.2 13 0 = wbits w.2 13 0 ∧ wbits w'.2 56 56 = 0
    ∧ wbits w'.2 55 16 = (m.dst + (entBase w.1 - m.va)) / 2 ^ 16 % 2 ^ 40

/-- Beside memory, its poison, TLBs, generations and the state of a migration, nothing is changed. -/
def OnlyMapping (s t : State) : Prop :=
  t.ctxs = s.ctxs ∧ t.groups = s.groups ∧ t.dispatch = s.dispatch ∧ t.parts = s.parts ∧ t.board = s.board
    ∧ (∀ c, { t.cluster c with tlb := (s.cluster c).tlb } = s.cluster c) ∧ (∀ n, { t.core n with utlb := (s.core n).utlb } = s.core n)
    ∧ { t.xlat with mstat := s.xlat.mstat, moving := s.xlat.moving, gens := s.xlat.gens, genAll := s.xlat.genAll } = s.xlat

end Sys2Proof.Claims

/-- R329, R370 to R372, R375: INVGO drops the entries of an address space or of a run of it, once their accesses are performed, and raises
the generations; PZGO zeroes a page; MGO starts a migration, MIGRATION_COPIED copies the page granule by granule and then drops its
entries, an error abandons it, and MEND lets the held stores go on, at the new place or the old; CKRECL empties the selected tape, and the
dispatcher remembers a PAUSED one of a saved group.  That MGO raises PROTECT while a migration is under way, and which place a page of
several clusters' TLBs has, are the model's choices (log entries 46, 47). -/
def Obligations.MappingChanges : Prop :=
  ∀ (s : State) (v : Word), Canonical s →
    let x := s.xlat
    let asid := v.toNat % 2 ^ 16
    let size := v.toNat / 2 ^ 16 % 4
    (let lo := x.inva.toNat;
      let n := x.invn.toNat * 2 ^ 16;
      let gone := fun (e : Word × Word) => decide (e.1.toNat % 2 ^ 16 = asid) && (decide (n = 0)
        || (decide (entBase e.1 < lo + n) && decide (lo < entBase e.1 + pageSize (entSize e.2))));
      ∃ t, exec (.invgo v) s = .next t ∧
        if s.settled gone = true then EntriesDropped s t gone ∧ OnlyMapping s t ∧ (∀ p, t.readLoc p = s.readLoc p)
          ∧ if n = 0 then ∀ a start, t.generation a start = s.generation a start + 1 else GensRaised s t asid lo n
        else t = s) ∧
    (let z := v.toNat % 4;
      let a := x.pzb.toNat;
      ∃ t, exec (.pzgo v) s = .next t ∧
        if z = 3 ∨ a % pageSize z ≠ 0 then t = s
        else { t with mem := s.mem, poison := s.poison } = s ∧ Canonical t
          ∧ (∀ o, t.mem.read o = if a ≤ o ∧ o < a + pageSize z then 0 else s.mem.read o)
          ∧ ∀ l, l ∈ t.poison ↔ l ∈ s.poison ∧ ¬ (a / 64 ≤ l ∧ l < (a + pageSize z) / 64)) ∧
    (∃ t, exec (.mgo v) s = .next t ∧
      if x.mstat ≠ 0 ∨ size = 3 ∨ x.mva.toNat % pageSize size ≠ 0 ∨ x.mdst.toNat % pageSize size ≠ 0 then t = s
      else match s.mappedAt asid x.mva.toNat with
        | some src => t = { s with xlat := { x with mstat := 1, moving := some ⟨src, x.mdst.toNat, x.mva.toNat, asid, size, 0⟩ } }
        | none => t = { s with xlat := { x with mstat := 3 } }) ∧
    (∀ m, x.moving = some m → x.mstat = 1 →
      let n := pageSize m.size
      let gone := fun (e : Word × Word) => decide (e.1.toNat % 2 ^ 16 = m.asid) && (decide (entBase e.1 < m.va + n)
        && decide (m.va < entBase e.1 + pageSize (entSize e.2)))
      let at_ := 512 * m.copied
      let copied := ∃ t, exec .migrationCopied s = .next t ∧
        if at_ < n then
          { t with mem := s.mem, poison := s.poison, xlat := s.xlat } = s ∧ Canonical t
            ∧ t.xlat = { s.xlat with moving := some { m with copied := m.copied + 1 } }
            ∧ ∀ o, t.mem.read o = if m.dst + at_ ≤ o ∧ o < m.dst + at_ + 512 then (s.readLoc (m.src.add (o - m.dst))).getD 0
              else s.mem.read o
        else EntriesDropped s t gone ∧ OnlyMapping s t ∧ GensRaised s t m.asid m.va n ∧ t.xlat.mstat = 2 ∧ t.xlat.moving = some m
          ∧ (∀ p, t.readLoc p = s.readLoc p) ∧ t.poison = s.poison
      m.asid < 2 ^ 16 → s.settledButHeld gone = true →
      (∀ pa, m.src = .mem pa → copied) ∧ ∀ d pa, m.src = .peer d pa → d ∉ s.unreachable → copied) ∧
    (∃ t, exec .migrationAbandon s = .next t ∧ if x.mstat = 1 then t = { s with xlat := { x with mstat := 3 } } else t = s) ∧
    (∃ t, exec .mend s = .next t ∧
      if x.mstat ≠ 2 ∧ x.mstat ≠ 3 then t = s
      else t.xlat = { x with mstat := 0, moving := none } ∧ { t with ctxs := s.ctxs, xlat := x } = s
        ∧ (x.mstat = 3 → t.ctxs = s.ctxs)
        ∧ ∀ m pa, x.mstat = 2 → x.moving = some m → m.src = .mem pa → ∀ a, { t.ctx a with queue := (s.ctx a).queue } = s.ctx a
          ∧ (t.ctx a).queue.length = (s.ctx a).queue.length
          ∧ ∀ (k : Nat) (e : Entry), (s.ctx a).queue[k]? = some e →
            (∀ q bs nib vec, e.what = .store (.mem q) bs nib vec → e.tlb.isSome = true → pa ≤ q → q < pa + pageSize m.size →
              q - pa + m.dst ≠ q →
              ∃ w w', e.tlb = some w ∧ MovedEntry m w w'
                ∧ (t.ctx a).queue[k]? = some { e with what := .store (.mem (q - pa + m.dst)) bs nib vec, tlb := some w' })
            ∧ ∀ q bs nib vec, e.what = .store (.mem q) bs nib vec → (e.tlb = none ∨ ¬ (pa ≤ q ∧ q < pa + pageSize m.size)) →
              (t.ctx a).queue[k]? = some e) ∧
    ∀ cl, let C := s.cluster cl;
      let k := C.ckSel.toNat % 8;
      let T := C.tape k;
      (T.state ≠ .recording → T.state ≠ .decanting → ∃ t, exec (.ckrecl cl) s = .next t
        ∧ { t with clusters := s.clusters, dispatch := s.dispatch } = s ∧ { t.dispatch with reclaims := s.dispatch.reclaims } = s.dispatch
        ∧ t.dispatch.reclaims = (match T.state, T.savedFor with
          | .paused, some l => (l, cl, k) :: s.dispatch.reclaims
          | _, _ => s.dispatch.reclaims)
        ∧ (∀ c, c ≠ cl → t.cluster c = s.cluster c) ∧ { t.cluster cl with tapes := C.tapes } = C
        ∧ ∀ j, (t.cluster cl).tape j = if j = k then Tape.init else C.tape j) ∧
      ∀ a, T.owner = some a →
        (T.state = .recording → agentCluster a = cl → ∃ t, exec (.ckrecl cl) s = .next t ∧ (t.cluster cl).tape k = Tape.init
          ∧ t.ctx a = { s.ctx a with cask := .abandoned k 0x02 } ∧ ∀ b, b ≠ a → t.ctx b = s.ctx b) ∧
        (T.state = .decanting → (s.ctx a).ctl.hold = some .decant → T.next < 2 ^ 16 → ∃ t, exec (.ckrecl cl) s = .next t
          ∧ (t.cluster cl).tape k = Tape.init
          ∧ t.ctx a = wroteOf (s.ctx a) (s.ctx a).decantDst (statusOf 0x0E 0x10 k 0 T.next) ∧ ∀ b, b ≠ a → t.ctx b = s.ctx b)

/-! ### Launches -/

namespace Sys2Proof.Claims

/-- A launch queue and its QERR bit alone are changed. -/
def QueueBecame (s t : State) (q : Nat) (u : LaunchQueue) (qerr : BitVec 256) : Prop :=
  { t with dispatch := s.dispatch } = s ∧ t.queue q = u ∧ (∀ k, k ≠ q → t.queue k = s.queue k) ∧ t.dispatch.qerr = qerr
    ∧ { t.dispatch with queues := s.dispatch.queues, qerr := s.dispatch.qerr, refused := s.dispatch.refused } = s.dispatch

/-- The dispatcher's translation takes `n` bytes at `va` to memory of the device at `pa`. -/
def Reaches (s : State) (part asid va n : Nat) (kind : AccessKind) (pa : Nat) : Prop :=
  ∀ i, i < n → ∃ page ent, s.dispXlate part asid (va + i) kind = .hit (.mem (pa + i)) page ent

/-- A group is gone, its completion word stands at `pa` and its vector is raised (R380, R384, R420). -/
def Completed (s t : State) (launch q faults status pa : Nat) : Prop :=
  t.group? launch = none ∧ t.hostPort.msix = s.hostPort.msix ++ [q]
    ∧ ∀ o, t.mem.read o = if pa ≤ o ∧ o < pa + 8 then
        (toBytes 8 (launch % 2 ^ 32 * 2 ^ 32 + min faults 0xFFFF * 2 ^ 16 + status % 256)).getD (o - pa) 0
      else s.mem.read o

/-- The length of a slice that starts now, and the tenant's debt after it (R386). -/
def sliceOf (s : State) (tenant : Nat) : Nat × Nat :=
  let full := (s.dispatch.slice.get tenant 1250000).toNat
  let debt := (s.dispatch.debt.get tenant 0).toNat
  let n := max (full - debt) (full / 4)
  (n, debt - (full - n))

/-- No launch waits in any queue but, maybe, the one that queue `q` takes now. -/
def NoneWaits (s : State) (q : Option Nat) : Prop :=
  ∀ k, (s.queue k).records = [] ∨ (some k = q ∧ (s.queue k).records.length = 1)

/-- Every slot of a core is FREE. -/
def AllFree (s : State) (core : Nat) : Prop :=
  ∀ n, n < 8 → (s.ctx (.slot core n)).ctl.status = .free

end Sys2Proof.Claims

/-- R378, R379: a doorbell is ignored, recorded, refused with a reason, or makes its queue ACTIVE up to the write index; QRESET makes it
IDLE; and an ACTIVE queue fetches its records in order.
R15 to R17, R60, R381 to R383, R386: the launch that is served is refused with a status, or its roles are bound to free cores, with
their slots FREE and reset, slices of zeros and the image's sections, and its slice starts.  A queue with ASID 0 is not served (R363).
That its launches wait (log entry 116), and that a refused launch takes a number, raises MSI-X and leaves its queue ACTIVE (log entry 53),
are the model's choices. -/
def Obligations.QueuesAndLaunches : Prop :=
  ∀ (s : State) (q : Nat), q < 256 →
    let u := s.queue q
    let part := s.qPartition q
    let asid := s.qAsid q
    let err := s.dispatch.qerr ||| (1#256 <<< q)
    let size := u.size.toNat
    let quiet := { u with ring := false }
    let sized := ∃ k, 12 ≤ k ∧ k ≤ 24 ∧ size = 2 ^ k
    let based := u.base.toNat % 4096 = 0 ∧ u.base.toNat < 2 ^ 56
    let ring := s.dispRun part asid u.base.toNat size .load
    let range := u.widx.toNat % 64 = 0 ∧ u.widx.toNat < 2 * size
      ∧ (u.widx.toNat + 2 * size - u.ridx.toNat % (2 * size)) % (2 * size) ≤ size
    let rings := fun (u' : LaunchQueue) (e : BitVec 256) => ∃ t, exec (.doorbell q) s = .next t ∧ QueueBecame s t q u' e
    let refused := fun (r : Nat) => rings { quiet with stat := 2, reason := r } err
    (s.qEnabled q = false ∨ u.stat = 2 → rings quiet s.dispatch.qerr) ∧
    (s.qEnabled q = true → u.stat ≠ 2 → s.qFrozen q = true → rings { u with ring := true } s.dispatch.qerr) ∧
    (s.qEnabled q = true → u.stat ≠ 2 → s.qFrozen q = false →
      (¬ sized → refused 1) ∧ (sized → ¬ based → refused 2) ∧
      (sized → based → (∀ c, ring = some (.inr c) → refused 3)
        ∧ (∀ va, ring = some (.inl va) → ∃ t, exec (.doorbell q) s = .next t ∧ t.queue q = { u with ring := true } ∧ t.ctxs = s.ctxs)
        ∧ (ring = none → ¬ range → refused 4)
        ∧ (ring = none → range → rings { quiet with stat := 1, valid := u.widx.toNat } s.dispatch.qerr))) ∧
    (∃ t, exec (.qreset q) s = .next t ∧ QueueBecame s t q { u with ridx := 0, stat := 0, reason := 0, valid := 0 }
      (s.dispatch.qerr &&& ~~~(1#256 <<< q))) ∧
    (u.stat = 1 → s.qEnabled q = true → s.qFrozen q = false → u.ridx.toNat ≠ u.valid →
      let va := u.base.toNat + u.ridx.toNat % size
      (s.dispRun part asid va 64 .load = none → ∃ t, exec (.launchRecordFetch q) s = .next t ∧ t.queue q = { u with
        records := u.records ++ [wordsOfBytes (s.dispRead part asid va 64)]
        ridx := toWord ((u.ridx.toNat + 64) % (2 * size)) }) ∧
      ∀ c, s.dispRun part asid va 64 .load = some (.inr c) → ∃ t, exec (.launchRecordFetch q) s = .next t
        ∧ QueueBecame s t q { u with stat := 2, reason := 3 } err) ∧
    (∀ cores, asid = 0 → exec (.launchStart q cores) s = .next s) ∧
    ∀ record rest cores, u.records = record :: rest → s.qFrozen q = false → asid ≠ 0 → s.served q = true →
      let launch := (s.dispatch.lastLaunch + 1) % 2 ^ 32
      let cw := (record.getD 3 0).toNat
      (∀ status va n pa, Canonical s → s.imageOf part asid record = .refuse status va n → Reaches s part asid cw 8 .store pa →
        ∃ t, exec (.launchStart q cores) s = .next t ∧ (t.queue q).records = rest ∧ t.dispatch.lastLaunch = launch
          ∧ t.group? launch = none ∧ t.hostPort.msix = s.hostPort.msix ++ [q]
          ∧ (NoneWaits s (some q) → Completed s t launch q 0 status pa ∧ t.cores = s.cores)) ∧
      ∀ img, s.imageOf part asid record = .ok img → s.bindable part (some q) img.nroles img.pump.isSome cores = true →
        NoneWaits s (some q) → ∃ t g, exec (.launchStart q cores) s = .next t ∧ t.group? launch = some g ∧ t.mem = s.mem
          ∧ g.cores = cores ∧ g.stages = img.stages ∧ g.nstages = img.nstages ∧ g.pump = img.pump ∧ g.phase = .run ∧ g.queue = q
          ∧ g.tenant = s.qTenant q ∧ g.asid = asid ∧ g.prio = s.qPrio q ∧ g.partition = part ∧ g.record = record ∧ g.faults = 0
          ∧ g.doneRoles = [] ∧ g.sliceAt = s.now ∧ g.sliceLen = (sliceOf s (s.qTenant q)).1
          ∧ (t.queue q).records = rest ∧ t.dispatch.lastLaunch = launch
          ∧ (∀ cl, (∃ c ∈ cores, clusterOf c = cl) →
            (t.cluster cl).barrier.get launch 0 = (cores.filter fun c => decide (clusterOf c = cl)).length)
          ∧ ∀ r c, cores[r]? = some c → let k := t.core c;
            let stage := img.stages.getD r 0;
            k.binding = some ⟨launch, r, stage, ((img.stages.take r).filter (· = stage)).length,
              (img.stages.filter (· = stage)).length, img.nroles, img.nstages, asid, false, false, true⟩
            ∧ (∀ n, n < 8 → t.ctx (.slot c n) = Ctx.reset .free) ∧ k.lease = Lease.none ∧ k.dictGen = 0
            ∧ (img.sections = [] → k.slice = [] ∧ k.handlers = [])
            ∧ ∀ x, img.sections = [x] → x.first ≤ r → r ≤ x.last →
              (x.kind = 0 → ∀ o, k.slice.read o = if x.off ≤ o ∧ o < x.off + x.b.toNat then
                (s.dispRead part asid x.a.toNat x.b.toNat).getD (o - x.off) 0 else 0)
              ∧ (x.kind = 1 → k.handler x.off = { handlerOf x.a x.b with head := 0, tail := 0, since := s.now })

/-- R53, R384 to R388: PREQ, and a slice that runs out while a launch waits which pre-empts that group, ask a group to save itself; of the
groups that hold the cores that it needs, a launch pre-empts that of the lowest PRIO and then of the earliest slice.  With its slots FREE
it is saved at the task level, after TGRACE its slots are halted for a full save.  A complete group whose work has drained ends with
status 0 or 0x12, and a killed one with 0x16: its slots are FREE, its commands gone.  Which groups hold the cores that a launch needs is
the model's reading (log entry 52). -/
def Obligations.LadderAndGroupEnds : Prop :=
  ∀ (s : State) (launch : Nat) (g : Group), Canonical s → launch < 2 ^ 32 → s.group? launch = some g →
    let cw := (g.word 3).toNat
    let gone := fun (t : State) => ∀ c ∈ g.cores, (t.core c).binding = none ∧ AllFree t c
    let emptied := fun (t : State) => ∀ c ∈ g.cores, (t.core c).rackQueue = [] ∧ (t.core c).inflight = []
      ∧ (t.core c).vecQueue = [] ∧ (t.core c).sendQueue = [] ∧ (t.core c).pressQueue = []
    let softened := fun (t : State) (k : Option Nat) => ∃ g', t.group? launch = some g' ∧ g'.phase = .soft ∧ g'.softAt = s.now
      ∧ g'.forQueue = k ∧ g'.cores = g.cores ∧ ∀ c ∈ g.cores, ∀ n, n < 8 → let x := s.ctx (.slot c n);
        if x.ctl.status ≠ .free ∧ x.act.ctl.getLsbD 63 = true ∧ x.act.sealed = false then
          (t.ctx (.slot c n)).ctl.status = .free
        else (t.ctx (.slot c n)).regs = x.regs
    let could := fun (k : Nat) (x : Nat × Group) => x ∈ s.groups ∧ x.2.phase = .run ∧ x.2.partition = s.qPartition k ∧ x.2.cores ≠ []
    let may := fun (k : Nat) (x : Nat × Group) => could k x
      ∧ (s.fitsWithout k x.2 = true ∨ ∀ y, could k y → s.fitsWithout k y.2 = false)
    let before := fun (x y : Nat × Group) => x.2.prio < y.2.prio ∨ (x.2.prio = y.2.prio ∧ x.2.sliceAt < y.2.sliceAt)
    let asks := fun (k : Nat) => (∃ u, (k, u) ∈ s.dispatch.queues) ∧ (∃ x, may k x ∧ x.1 = launch ∧ ∀ y, may k y → ¬ before y x)
      ∧ g.prio ≤ s.qPrio k ∧ s.waitsForCores k = true ∧ s.ladderFor k = false
    let alone := fun (k : Nat) => ∃ x, may k x ∧ x.1 = launch ∧ ∀ y, may k y → y = x ∨ before x y
    (∃ t, exec (.preq (toWord launch)) s = .next t ∧ (g.phase = .run → softened t none) ∧ (g.phase ≠ .run → t = s)) ∧
    (∃ t, exec (.sliceEnd launch) s = .next t ∧ (g.phase ≠ .run ∨ s.now < g.sliceAt + g.sliceLen → t = s) ∧
      (g.phase = .run → g.sliceAt + g.sliceLen ≤ s.now → ((∃ k, asks k ∧ alone k) → ∃ k, asks k ∧ softened t (some k)) ∧
        ((∀ k, ¬ asks k) → t.group? launch = some { g with sliceAt := s.now, sliceLen := (sliceOf s g.tenant).1 }
          ∧ t.dispatch.debt.get g.tenant 0 = toWord (sliceOf s g.tenant).2 ∧ t.ctxs = s.ctxs ∧ t.cores = s.cores))) ∧
    (g.phase = .soft → g.complete = false →
      (∀ c ∈ g.cores, AllFree s c) → ∃ t, exec (.taskLevelSave launch) s = .next t ∧ { t with groups := s.groups } = s
        ∧ t.group? launch = some { g with phase := .saving, step := 1 }) ∧
    ((∃ c ∈ g.cores, ¬ AllFree s c) → ∃ t, exec (.taskLevelSave launch) s = .next t ∧ t = s) ∧
    (∃ t, exec (.graceTimerExpiry launch) s = .next t ∧
      (g.phase = .soft → g.complete = false → g.softAt + s.dispatch.tgrace.toNat ≤ s.now →
        t.group? launch = some { g with phase := .saving, step := 2 } ∧ ∀ c ∈ g.cores, ∀ n, n < 8 → let a := Agent.slot c n;
          (t.ctx a).regs = (s.ctx a).regs ∧ (t.ctx a).ctl.status = (s.ctx a).ctl.status ∧ (t.ctx a).ctl.pc = (s.ctx a).ctl.pc
            ∧ ((s.ctx a).ctl.status ≠ .free → (t.ctx a).ctl.quiesced = true)) ∧
      (s.now < g.softAt + s.dispatch.tgrace.toNat → t = s)) ∧
    (∀ pa, g.phase = .run ∨ g.phase = .soft ∨ g.phase = .saving → g.complete = true → s.drained launch g = true → g.frecs = [] →
      Reaches s g.partition g.asid cw 8 .store pa → ∃ t, exec (.groupCompletion launch) s = .next t
        ∧ Completed s t launch g.queue g.faults (if g.afterDone then 0x12 else 0) pa ∧ ∀ c ∈ g.cores, (t.core c).binding = none) ∧
    (∀ pa, g.phase = .ending → g.cores = [] → g.frecs = [] → Reaches s g.partition g.asid cw 8 .store pa →
      ∃ t, exec (.groupCompletion launch) s = .next t ∧ Completed s t launch g.queue g.faults g.status pa) ∧
    (g.phase ≠ .ending →
      (∀ pa, g.cores = [] → g.phase ≠ .saving → g.frecs = [] → Reaches s g.partition g.asid cw 8 .store pa →
        ∃ t, exec (.pkill (toWord launch)) s = .next t ∧ Completed s t launch g.queue g.faults 0x16 pa) ∧
      (g.cores ≠ [] → ∃ t, exec (.pkill (toWord launch)) s = .next t ∧ emptied t
        ∧ (∀ c ∈ g.cores, ∀ n, n < 8 → (s.ctx (.slot c n)).committing = false →
          (t.ctx (.slot c n)).ctl.status = .free ∧ (t.ctx (.slot c n)).queue = [])
        ∧ (∀ g', t.group? launch = some g' → g'.phase = .ending ∧ g'.status = 0x16)
        ∧ ((∀ c ∈ g.cores, ∀ n, n < 8 → (s.ctx (.slot c n)).committing = false) → gone t))) ∧
    (g.phase = .ending → ∃ t, exec (.pkill (toWord launch)) s = .next t ∧ t = s) ∧
    let due := (g.phase = .soft ∨ g.phase = .saving)
      ∧ g.softAt + max s.dispatch.tkill.toNat (s.dispatch.tgrace.toNat + 1) ≤ s.now
    (due → exec (.killTimerExpiry launch) s = exec (.pkill (toWord launch)) s) ∧ (¬ due → exec (.killTimerExpiry launch) s = .next s)

/-- R387, R389 to R391: once a group is at rest its save area is written; a full save holds in each slot record the slot's state, PC,
X, V and P registers and full/empty bits, and the group is SAVED, its cores free.
R393: a saved group that finds cores is bound to them again, once no tape that it reclaims issues a record, and each slot record becomes
its slot's activation, unless a TRPAIRS that is issued again in another cluster raises TRELLIS_STALE there (R309).  The slots of a free
core own no tape.  That the restored registers are the area's bytes whatever their poison, that a slot is FREE unless the model kept its
activation, and that a same-tenant tape is reclaimed for the group's are the model's choices (log entries 22, 14, 140). -/
def Obligations.SavesAndResumptions : Prop :=
  ∀ (s : State) (launch : Nat) (g : Group), launch < 2 ^ 32 → s.group? launch = some g → NoneWaits s none →
    let base := (g.word 1).toNat
    let slot := fun (r n : Nat) => 0x1000 + 0x70000 * r + 0x8000 + 0x3000 * n
    (∀ pa, s.saveReady g = true → Canonical s → Reaches s g.partition g.asid base (saveBytes g.cores.length) .store pa →
      (∀ p ∈ (s.beforeSave g).savePieces launch g, p.1 + p.2.length ≤ saveBytes g.cores.length) →
      ∃ t g', exec (.saveComplete launch) s = .next t ∧ t.group? launch = some g' ∧ g'.phase = .saved ∧ g'.cores = []
        ∧ (∀ c ∈ g.cores, (t.core c).binding = none ∧ AllFree t c)
        ∧ (∀ o, o < pa ∨ pa + saveBytes g.cores.length ≤ o → t.mem.read o = s.mem.read o)
        ∧ ∀ r c n, g.cores[r]? = some c → n < 8 → g.step = 2 → let x := s.ctx (.slot c n);
          let at_ := fun (off : Nat) => t.mem.word (pa + slot r n + off);
          x.ctl.status ≠ .free → (at_ 0).toNat % 4 = (if x.ctl.status = .yielded then 2 else 1)
            ∧ (x.ctl.status ≠ .parked → at_ 8 = x.ctl.pc.setWidth 64) ∧ (x.ctl.status = .parked → at_ 8 = x.trap.epc)
            ∧ (∀ i, i < 32 → at_ (0x100 + 8 * i) = x.regs.x.toList.getD i 0) ∧ (∀ i, i < 8 → at_ (0x200 + 8 * i) = x.regs.p.toList.getD i 0)
            ∧ (∀ i j, i < 32 → j < 8 → at_ (0x300 + 64 * i + 8 * j) = lane 64 (x.regs.v.toList.getD i 0) j)
            ∧ at_ 0x280 = (~~~x.regs.vEmpty) ++ (~~~x.regs.xEmpty)) ∧
    (∀ pa cores, g.phase = .saved → s.bindable g.partition none g.kept.length g.pump.isSome cores = true →
      Reaches s g.partition g.asid base (saveBytes g.kept.length) .load pa → s.tapesBusy g cores = false →
      ∃ t g', exec (.groupResume launch cores) s = .next t ∧ t.group? launch = some g' ∧ g'.phase = .run ∧ g'.cores = cores
        ∧ ∀ r c kp, cores[r]? = some c → g.kept.find? r = some kp → (∃ b, (t.core c).binding = some b ∧ b.launch = launch ∧ b.role = r)
          ∧ ∀ n, n < 8 → (∀ cl k, ((s.cluster cl).tape k).owner ≠ some (.slot c n)) → (kp.pairs = [] ∨ clusterOf kp.core = clusterOf c) →
            let x := t.ctx (.slot c n);
            let at_ := fun (off : Nat) => s.mem.word (pa + slot r n + off);
            ((g.step ≠ 2 ∨ kp.acts.find? n = none) → x.ctl.status = .free) ∧
            (g.step = 2 → (kp.acts.find? n).isSome = true → (at_ 0).toNat % 4 ≠ 0 →
              x.ctl.status = (if (at_ 0).toNat % 4 = 2 then .yielded else .running) ∧ x.ctl.pc = BitVec.ofNat 56 ((at_ 8).toNat % 2 ^ 56 / 4 * 4)
              ∧ (∀ i, i < 32 → x.regs.x.toList.getD i 0 = at_ (0x100 + 8 * i)) ∧ (∀ i, i < 8 → x.regs.p.toList.getD i 0 = at_ (0x200 + 8 * i))
              ∧ (∀ i j, i < 32 → j < 8 → lane 64 (x.regs.v.toList.getD i 0) j = at_ (0x300 + 64 * i + 8 * j))
              ∧ x.regs.xEmpty = ~~~((at_ 0x280).setWidth 32)))

/-! ### Errors, the combining tree, reduction packets -/

namespace Sys2Proof.Claims

/-- One count of an error register goes up by one, saturating; its other bits stand (Table 23-2). -/
def CountedUp (w v : Word) (lo : Nat) : Prop :=
  (v.extractLsb' lo 16).toNat = min 0xFFFF ((w.extractLsb' lo 16).toNat + 1)
    ∧ ∀ i, i < lo ∨ lo + 16 ≤ i → v.getLsbD i = w.getLsbD i

/-- An uncorrectable error has been counted; beside UECNT, and what stands in `u`, nothing is changed. -/
def CountedError (s t u : State) : Prop :=
  CountedUp s.hostPort.uecnt t.hostPort.uecnt 0 ∧ { t with hostPort := s.hostPort } = { u with hostPort := s.hostPort }
    ∧ { t.hostPort with uecnt := s.hostPort.uecnt } = s.hostPort

/-- The context of a cellarer core that starts at an image's entry, whose two lowest bits are not part of the PC (R64, R419). -/
def started (s : State) (entry : Nat) : Ctx :=
  { Ctx.reset .running with
    ctl := { Control.reset .running with pc := BitVec.ofNat 56 (entry / 4 * 4) }
    sp := { SlotRegs.reset with cycleBase := s.now } }

/-- The operands of an operation, by participant; one that is done is taken to have injected `e` (R407). -/
def injected (o : TreeOp) (g : Group) (e : Word) : List Word :=
  (o.participants g).map fun r => match o.operandOf r with
    | some x => x.value
    | none => e

/-- The exact sum of integer operands modulo 2^72 (R107). -/
def wideSum (vs : List Word) : BitVec 72 :=
  vs.foldl (fun n v => n + v.signExtend 72) 0

/-- The order of operations 3 to 6 of the tree, in which the result is the least operand (Table 22-4). -/
def before (op : Nat) (x y : Word) : Prop :=
  match op with
  | 3 => x.toInt ≤ y.toInt
  | 4 => y.toInt ≤ x.toInt
  | 5 => x.toNat ≤ y.toNat
  | _ => y.toNat ≤ x.toNat

/-- The operation ends: each participant that injected has the result at the tail of TEXT, and no other core has. -/
def ResultWritten (s t : State) (k : Nat) (o : TreeOp) (status value : Word) : Prop :=
  t.tree = dropAt s.tree k ∧ ∀ c, (t.core c).text = (s.core c).text
    ++ if ∃ x ∈ o.operands, s.coreOf? o.launch x.role = some c then [⟨status, value⟩] else []

/-- Two packets that a switch may merge: to one address, of one op and width, from disjoint devices, neither sent again (R411, R412). -/
def MayMerge (p q : Packet) : Prop :=
  q.dev = p.dev ∧ q.pa = p.pa ∧ q.op = p.op ∧ q.dbl = p.dbl ∧ q.devices &&& p.devices = 0 ∧ p.resent = false ∧ q.resent = false

/-- The packet that two have been merged into: an integer sum is carried with 8 more bits, every other op is the reduction's (R107,
R411). -/
def MergedOf (p q m : Packet) : Prop :=
  let w := 8 * atomBytes p.dbl
  { m with sum := p.sum, devices := p.devices, from_ := p.from_ } = p ∧ m.devices = p.devices ||| q.devices
    ∧ m.from_ = p.from_ ++ q.from_ ∧ m.sum.toNat = if p.op = .add then (p.sum.toNat + q.sum.toNat) % 2 ^ (w + 8)
      else (rmw p.op (p.sum.setWidth w) (q.sum.setWidth w) 0).toNat

/-- A core has taken the place of another (R402): its binding, slice and tiles are the old core's, and so are its slots. -/
def TookOver (s t : State) (old new : Nat) : Prop :=
  (t.core new).binding = (s.core old).binding ∧ (t.core new).slice = (s.core old).slice ∧ (t.core new).tiles = (s.core old).tiles
    ∧ (t.core new).service = .enabled ∧ (t.core old).service = .quarantined ∧ (t.core old).binding = none
    ∧ (∀ n, n < 8 → (t.ctx (.slot new n)).regs = (s.ctx (.slot old n)).regs
      ∧ (t.ctx (.slot new n)).sp = (s.ctx (.slot old n)).sp)
    ∧ ∀ b g, (s.core old).binding = some b → s.group? b.launch = some g →
      ∃ g', t.group? b.launch = some g' ∧ g'.cores = g.cores.map fun c => if c = old then new else c

end Sys2Proof.Claims

/-- R401 to R404: a corrected error is counted alone; an uncorrectable one is counted and poisons its line, word, accumulator
element or tape line, quarantines its core or cluster, or freezes a partition's queues and restarts its cellarer cores.  A core whose
started drain still runs has stopped, and its error stays at hand; so has a cluster without a spare whose killed groups have buffers
to commit.
R406 to R408: the tree writes one result to TEXT of its participants.  R411 to R413: a packet is merged with a later one of other
devices, or performed at its home, which discards one whose contributions it has performed.
The model's choices: an error that waits for a started drain stays at hand and is counted once (log entry 83); sp, C.SEED, the tiles and
the registers that R402 does not list move with a core (log entry 82); which of a merge and a performance happens is a free choice (log
entry 10); and a packet is discarded once every contribution of it has been performed (log entry 129). -/
def Obligations.DeviceEvents : Prop :=
  ∀ (s : State),
    let new := fun (place : ErrWhere) => place ∉ s.parts.failing
    (∀ kind, ∃ t, exec (.correctedError kind) s = .next t ∧ if kind < 3 then
        CountedUp s.hostPort.cecnt t.hostPort.cecnt (16 * kind) ∧ { t with hostPort := s.hostPort } = s
          ∧ { t.hostPort with cecnt := s.hostPort.cecnt } = s.hostPort
      else t = s) ∧
    (∀ pa, isMemory pa = true → new (.memory pa) → ∃ t, exec (.uncorrectableError (.memory pa)) s = .next t
      ∧ CountedError s t { s with poison := t.poison } ∧ ∀ l, l ∈ t.poison ↔ l = pa / 64 ∨ l ∈ s.poison) ∧
    (∀ core off, off < Config.sliceTop → new (.scratch core off) → ∃ t, exec (.uncorrectableError (.scratch core off)) s = .next t
      ∧ CountedError s t { s with cores := t.cores } ∧ (∀ c, c ≠ core → t.core c = s.core c)
      ∧ { t.core core with poisonWords := (s.core core).poisonWords } = s.core core
      ∧ ∀ w, w ∈ (t.core core).poisonWords ↔ w = off / 8 ∨ w ∈ (s.core core).poisonWords) ∧
    (∀ cl tape line, tape < 8 → line < ((s.cluster cl).tape tape).lines → new (.caskLine cl tape line) → ∃ t,
      exec (.uncorrectableError (.caskLine cl tape line)) s = .next t ∧ CountedError s t { s with clusters := t.clusters }
      ∧ (∀ c, c ≠ cl → t.cluster c = s.cluster c) ∧ (∀ j, j ≠ tape → (t.cluster cl).tape j = (s.cluster cl).tape j)
      ∧ { t.cluster cl with tapes := (s.cluster cl).tapes } = s.cluster cl
      ∧ ∀ l, l ∈ ((t.cluster cl).tape tape).badLines ↔ l = line ∨ l ∈ ((s.cluster cl).tape tape).badLines) ∧
    (∀ cl row col, row < 1024 → col < 128 → new (.accum cl row col) → ∃ t, exec (.uncorrectableError (.accum cl row col)) s = .next t
      ∧ CountedError s t { s with clusters := t.clusters } ∧ (∀ c, c ≠ cl → t.cluster c = s.cluster c) ∧
      let p := (s.cluster cl).press
      let q := (t.cluster cl).press
      (∀ r, r ≠ row → q.row r = p.row r) ∧ { q.row row with bad := (p.row row).bad } = p.row row
        ∧ ∀ j, (q.row row).bad.getLsbD j = ((p.row row).bad.getLsbD j || decide (j = col))) ∧
    (∀ old spare, clusterOf old < Config.clusters → (s.core old).service = .enabled → s.spareOf (clusterOf old) = some spare → old ≠ spare →
      new (.core old) →
      (AllFree s old → (s.core old).inflight = [] → s.pressRunning old = none →
        ∃ t, exec (.uncorrectableError (.core old)) s = .next t ∧ CountedUp s.hostPort.uecnt t.hostPort.uecnt 0
          ∧ TookOver s t old spare ∧ t.mem = s.mem) ∧
      (s.drainRuns old = true → ∃ t, exec (.uncorrectableError (.core old)) s = .next t ∧ ErrWhere.core old ∈ t.parts.failing
        ∧ t.pressRunning old = s.pressRunning old ∧ (t.core old).rackQueue = [] ∧ (t.core old).inflight = []
        ∧ (t.core old).vecQueue = [] ∧ (t.core old).pressQueue = []
        ∧ ∀ n, n < 8 → (s.ctx (.slot old n)).committing = false → (t.ctx (.slot old n)).ctl.status = .free)) ∧
    (∀ cl, cl < Config.clusters → cl ∉ s.parts.quar → new (.cluster cl) →
      let retired := fun (t : State) => cl ∈ t.parts.quar ∧ cl ∉ t.parts.spare
        ∧ ∀ c ∈ coresOf cl, (t.core c).service = .quarantined ∧ (t.core c).binding = none
      let spare := fun (c : Nat) => c ∈ s.parts.spare ∧ c / Config.clustersPerDie = cl / Config.clustersPerDie ∧ c ≠ cl
      ((∃ c, spare c) → (∀ c ∈ coresOf cl, s.drainRuns c = false) → ∃ t, exec (.uncorrectableError (.cluster cl)) s = .next t
        ∧ CountedUp s.hostPort.uecnt t.hostPort.uecnt 0 ∧ retired t) ∧
      ((∀ c, ¬ spare c) → ∃ t, exec (.uncorrectableError (.cluster cl)) s = .next t ∧ CountedUp s.hostPort.uecnt t.hostPort.uecnt 0
        ∧ (retired t ∨ (ErrWhere.cluster cl ∈ t.parts.failing ∧ ∃ c ∈ coresOf cl, (t.core c).binding.isSome = true))
        ∧ ∀ launch g, s.group? launch = some g → launch < 2 ^ 32 → (∃ c ∈ g.cores, clusterOf c = cl) → g.phase ≠ .ending →
          ∀ g', t.group? launch = some g' → g'.phase = .ending ∧ g'.status = 0x16)) ∧
    (∀ place, place ∈ s.parts.failing → ∃ t, exec (.uncorrectableError place) s = .next t ∧ t.hostPort.uecnt = s.hostPort.uecnt) ∧
    (∀ part, part < 16 → new (.kernel part) → ∃ t, exec (.uncorrectableError (.kernel part)) s = .next t
      ∧ CountedUp s.hostPort.uecnt t.hostPort.uecnt 0 ∧ part ∈ t.dispatch.frozen ∧ t.mem = s.mem
      ∧ (∀ k e, k < 16 → s.partOfCel k = part → s.board.entry.find? k = some e → t.ctx (.cel k) = started s e)
      ∧ ∀ a, (∀ k e, k < 16 → s.partOfCel k = part → s.board.entry.find? k = some e → a ≠ .cel k) → t.ctx a = s.ctx a) ∧
    (∀ k o g, s.tree[k]? = some o → s.group? o.launch = some g → g.phase ≠ .saved → g.cores.Nodup → g.cores.length ≤ 4096 →
      o.result = none → s.treeComplete o g = true → (∀ x ∈ o.operands, s.movesAway o.launch x.role = false) →
        (∀ x ∈ o.operands, s.earlierOperand o x = false) →
      (o.operands.map TreeOperand.role).Nodup → (∀ x ∈ o.operands, x.role ∈ o.participants g) → o.operands ≠ [] →
      (∀ ctl, (∀ x ∈ o.operands, opRm x.ctl = ctl) →
        (ctl.1 = 0 → let n := wideSum (injected o g 0)
          ∃ t, exec (.treeResultDeliver k) s = .next t ∧ ResultWritten s t k o
            (toWord (b2n (decide (n.toInt < -2 ^ 63 ∨ 2 ^ 63 ≤ n.toInt)) * 2 ^ 61 + o.tag * 2 ^ 48)) (n.setWidth 64)) ∧
        (3 ≤ ctl.1 → ctl.1 ≤ 6 → ∃ t v, exec (.treeResultDeliver k) s = .next t
          ∧ ResultWritten s t k o (toWord (o.tag * 2 ^ 48 + ctl.1)) v
          ∧ v ∈ injected o g (treeIdentity ctl.1) ∧ ∀ y ∈ injected o g (treeIdentity ctl.1), before ctl.1 v y)) ∧
      ∀ x ∈ o.operands, ∀ y ∈ o.operands, opRm x.ctl ≠ opRm y.ctl → ∃ t status, exec (.treeResultDeliver k) s = .next t
        ∧ ResultWritten s t k o status 0 ∧ (o.tag < 2 ^ 8 → status.toNat / 2 ^ 48 % 2 ^ 16 = 2 ^ 14 + o.tag)
        ∧ ∃ g', t.group? o.launch = some g' ∧ g'.faults = g.faults + 1) ∧
    (∀ k p, s.packets[k]? = some p → (∀ q ∈ s.packets.drop (k + 1), ¬ MayMerge p q) → Canonical s →
      let home := if p.dev = s.device then Loc.mem p.pa else Loc.peer p.dev p.pa
      let w := 8 * atomBytes p.dbl
      let again := p.from_ ≠ [] ∧ ∀ c ∈ p.from_, (p.dev, c.dev, c.seq) ∈ s.performed
      ∃ t, exec (.reductionPacketPerform k) s = .next t ∧ t.packets = dropAt s.packets k ∧
        (again → t.mem = s.mem ∧ t.peers = s.peers ∧ t.groups = s.groups ∧ t.performed = s.performed) ∧
        (¬ again → Sound s home (atomBytes p.dbl) →
          StoredAt s t home (updatedBytes s home p.op w (toWord (p.sum.toNat % 2 ^ w)) 0)
            ∧ t.performed = s.performed ++ p.from_.map fun c => (p.dev, c.dev, c.seq)) ∧
        (¬ again → ∀ c g, s.noRoute home = true → p.from_ = [c] → c.dev = s.device → s.group? c.launch = some g →
          ∃ g', t.group? c.launch = some g' ∧ g'.faults = g.faults + 1) ∧
        ∀ c ∈ p.from_, c.dev = s.device → ∀ core, s.coreOf? c.launch c.role = some core →
          ∀ a ∈ slotsOf core, ∀ e ∈ (t.ctx a).queue, e.id ≠ c.entry) ∧
    (∀ k p i q, s.packets[k]? = some p → s.packets[k + 1 + i]? = some q → MayMerge p q →
      (∀ r ∈ (s.packets.drop (k + 1)).take i, ¬ MayMerge p r) → ∃ t, exec (.reductionPacketPerform k) s = .next t ∧
        (t.packets = dropAt s.packets k ∨ ∃ m, t.packets = (dropAt s.packets (k + 1 + i)).set k m ∧ MergedOf p q m
          ∧ t.ctxs = s.ctxs ∧ t.mem = s.mem ∧ t.peers = s.peers)) ∧
    ∀ peer up, ∃ t, exec (.linkFailure peer up) s = .next t
      ∧ { t with packets := s.packets, unreachable := s.unreachable } = s
      ∧ t.packets = (s.packets.map fun p => if p.dev = peer then { p with resent := true } else p)
      ∧ ∀ d, d ∈ t.unreachable ↔ if d = peer then up = false else d ∈ s.unreachable

/-! ### Power-on, images, the board, plain registers -/

namespace Sys2Proof.Claims

/-- The host window after a failed boot attempt, the `a`-th (R417, Table 23-2). -/
def failedBoot (s : State) (reason a : Nat) : HostPort :=
  { s.hostPort with boot := 2, reason := reason, attempts := a, retryAt := s.now + 2 ^ min a 6 * 1250000000 }

/-- What a boot attempt leaves, given what the network gave its port: port 0 on odd attempts, port 1 on even ones (R416 to R418).
That the small cores leave reset with the start of cellarer core 0 is the model's reading (log entry 114). -/
def Attempted (s t : State) (inp : BootInput) : Prop :=
  let a := (s.hostPort.attempts + 1) % 2 ^ 32
  match if a % 2 = 1 then inp.port0 else inp.port1 with
  | .fails r => t = { s with hostPort := failedBoot s (max 1 (min r 3)) a }
  | .image bytes =>
    ∃ u, StoredAt s u (.mem 0) (bytes.take Config.hbmSize) ∧ SameButMemory s u ∧ u.ctxs = s.ctxs ∧
      (∀ r, u.verifyImage 0 0 = some r → t = { u with hostPort := failedBoot s r a }) ∧
      (u.verifyImage 0 0 = none →
        (u.imageWord 0 5 = 0 → t.hostPort = { s.hostPort with
            boot := 1, reason := 0, attempts := a, coresOn := some (s.hostPort.coresOn.getD s.now) }
          ∧ t.mem = u.mem ∧ t.ctx (.cel 0) = started s (u.imageEntry 0)
          ∧ (∀ b, b ≠ .cel 0 → (∀ c n, b ≠ .slot c n) → t.ctx b = s.ctx b)
          ∧ ∀ c n, t.ctx (.slot c n) = s.ctx (.slot c n)
            ∨ (s.ctx (.slot c n) = Ctx.reset .inReset ∧ t.ctx (.slot c n) = Ctx.reset .free)) ∧
        ((u.imageWord 0 5).toNat ≠ 0 → configWin (u.mem.word (u.imageWord 0 4).toNat).toNat = none →
          t = { u with hostPort := failedBoot s 8 a }))

/-- The board controller alone is changed, but for a free value that it may have taken. -/
def OnlyBoard (s t : State) (b : Board) : Prop :=
  t.board = b ∧ { t with board := s.board, fresh := s.fresh } = s

/-- The board controller has refused its command (R421). -/
def mbRefused (b : Board) : Board := { b with mbst := 3 }

end Sys2Proof.Claims

/-- R417 and R418: the first attempt, and each retry after its back-off, ends in BOOTST 2 with a reason or starts cellarer core 0.
R400, R419: kernels and TSC firmware start at the entry of an image that verifies.  R421: board commands; of two of one cycle the
lower core's runs, and one is done in a later cycle (log entry 113).  What survives a standby (log entry 115), that TSCLD ignores an index
of 272 or more and TGRACE is kept in 32 bits (log entry 88), and that a second KSTART replaces the mask (log entry 89) are the model's
choices.
R358: FQWAIT's limit. R8, R363, R420: a plain register holds what a write left under its access code. -/
def Obligations.BootAndBoard : Prop :=
  ∀ (s : State),
    let by_ := match s.cur with
      | .cel k => k
      | _ => 0
    let given := fun (w : Word) => if s.board.mbst = 0 ∨ (s.board.mbst = 1 ∧ s.board.commandAt = s.now ∧ by_ < s.board.commandBy) then
        { s.board with mbst := 1, command := w, commandAt := s.now, commandBy := by_ }
      else s.board
    (Canonical s → ∀ inp,
      (s.board.powered = true → s.hostPort.boot = 0 → s.hostPort.attempts = 0 →
        ∃ t, exec (.powerOn inp) s = .next t ∧ Attempted s t inp) ∧
      (s.board.powered = true → ¬ (s.hostPort.boot = 0 ∧ s.hostPort.attempts = 0) → exec (.powerOn inp) s = .next s) ∧
      (s.board.powered = false → ∃ t u, exec (.powerOn inp) s = .next t ∧ Attempted u t inp ∧ u = { State.reset with
          mem := u.mem, peers := s.peers, peerPoison := s.peerPoison, unreachable := s.unreachable, now := s.now, agenda := s.agenda,
          fresh := s.fresh, nextId := s.nextId }
        ∧ ∀ o, u.mem.read o = if Config.hostBase ≤ o ∧ o < Config.hostEnd then s.mem.read o else 0) ∧
      (s.hostPort.boot = 2 → s.hostPort.retryAt ≤ s.now → ∃ t, exec (.bootRetry inp) s = .next t ∧ Attempted s t inp) ∧
      (s.hostPort.boot ≠ 2 ∨ s.now < s.hostPort.retryAt → exec (.bootRetry inp) s = .next s)) ∧
    (∀ base kind, s.mem.word base ≠ 0x31464D5553595650 ∨ s.mem.word (base + 64) = 0 → s.verifyImage base kind = some 4) ∧
    (∀ part v, let barred := part ≠ 0 ∧ ∃ k, k < 16 ∧ v.getLsbD k = true ∧ s.partOfCel k ≠ part
      (barred → exec (.kstart part v) s = .next s) ∧
      (¬ barred → ∃ t, exec (.kstart part v) s = .next t ∧ OnlyBoard s t t.board ∧ t.board.kst.get part 0 = 1
        ∧ t.board.kmask.get part 0 = v.toNat % 2 ^ 16 ∧ t.board.entry = s.board.entry)) ∧
    (∀ part, s.board.kst.get part 0 = 1 → let base := (s.board.kimg.get part 0).toNat
      ∃ t, exec (.kernelImageVerified part) s = .next t ∧ t.mem = s.mem ∧
        t.board.kst.get part 0 = (if (s.verifyImage base 1).isSome then 2 else 0) ∧
        ∀ a, t.ctx a = match a with
          | .cel k => if s.verifyImage base 1 = none ∧ k < 16 ∧ (s.board.kmask.get part 0).testBit k = true then
              started s (s.imageEntry base) else s.ctx a
          | _ => s.ctx a) ∧
    (∀ v : Word, let c := v.toNat % 2 ^ 9
      (s.parts.tscst = 1 ∨ 272 ≤ c → exec (.tscld v) s = .next s) ∧
      (s.parts.tscst ≠ 1 → c < 272 → ∃ t, exec (.tscld v) s = .next t ∧ t.parts = { s.parts with tscst := 1 }
        ∧ AgentIs s t (.tsc c) { s.ctx (.tsc c) with ctl := { (s.ctx (.tsc c)).ctl with quiesced := true } }
        ∧ (t.cluster c).tscLoading = true)) ∧
    (∀ c, (s.cluster c).tscLoading = true → let x := s.ctx (.tsc c)
      let base := s.parts.tscimg.toNat
      ∃ t, exec (.tscLoadComplete c) s = .next t ∧ (t.cluster c).tscLoading = false ∧ t.mem = s.mem ∧
        if (s.verifyImage base 2).isSome then
          t.parts = { s.parts with tscst := 2 } ∧ AgentIs s t (.tsc c) { x with ctl := { x.ctl with quiesced := false } }
        else t.parts = { s.parts with tscst := 0 }
          ∧ AgentIs s t (.tsc c) { started s (s.imageEntry base) with queue := x.queue }) ∧
    (∀ p ∈ ([(.mbTemperature, 1), (.mbRail, 2), (.mbStandby, 4)] : List (Instr × Word)), ∃ t, exec p.1 s = .next t ∧ OnlyBoard s t (given p.2)) ∧
    (∀ w : BitVec 32, ∃ t, exec (.mbPowerLimit w) s = .next t ∧ OnlyBoard s t (given (w ++ 3#32))) ∧
    (s.board.mbst ≠ 1 ∨ s.now ≤ s.board.commandAt → exec .mbcmdDone s = .next s) ∧
    (s.board.mbst = 1 → s.board.commandAt < s.now → ∃ t, exec .mbcmdDone s = .next t ∧
      let b := s.board
      let arg := b.command.toNat / 2 ^ 32
      match b.command.toNat % 2 ^ 8 with
      | 1 => if arg = 0 then ∃ r, OnlyBoard s t { b with mbst := 2, mbrsp := r } else OnlyBoard s t (mbRefused b)
      | 2 => if arg = 0 then ∃ r, OnlyBoard s t { b with mbst := 2, mbrsp := r } else OnlyBoard s t (mbRefused b)
      | 3 => if 1 ≤ arg ∧ arg ≤ 3600 then ∃ r, OnlyBoard s t { b with mbst := 2, mbrsp := r, limit := arg }
          else OnlyBoard s t (mbRefused b)
      | 4 => if arg = 0 then OnlyBoard s t { b with powered := false } else OnlyBoard s t (mbRefused b)
      | _ => OnlyBoard s t (mbRefused b)) ∧
    (∃ t, exec .mbst s = .next t ∧ OnlyBoard s t (if s.board.mbst < 2 then s.board else { s.board with mbst := 0 })) ∧
    (∀ k d until_, (s.ctx (.cel k)).ctl.hold = some (.fqwait d (some until_)) → (s.ctx (.cel k)).ctl.status = .running →
      (s.now < until_ → exec (.fqwaitTimeout k) s = .next s) ∧
      (until_ ≤ s.now → ∃ t c, exec (.fqwaitTimeout k) s = .next t ∧ AgentIs s t (.cel k) c ∧ { t with ctxs := s.ctxs } = s
        ∧ c.ctl = (s.ctx (.cel k)).ctl.advance
        ∧ ∀ n, c.x n = if n = d ∧ d ≠ 0 then BitVec.allOnes 64 else (s.ctx (.cel k)).x n)) ∧
    ∀ v : Word,
      (∀ q, q < 256 → let at_ := fun (r : Nat) => Instr.registerWrite true (0x100000 + 0x1000 * q + r) v
        let u := s.queue q
        ∀ p ∈ [(0x00, { u with base := v }), (0x08, { u with size := v }), (0x10, { u with widx := v })],
          ∃ t, exec (at_ p.1) s = .next t ∧ QueueBecame s t q p.2 s.dispatch.qerr) ∧
      (∀ i, i < 8 → ∃ t, exec (.registerWrite true (0x10000 + 8 * i) v) s = .next t ∧ { t with hostPort := s.hostPort } = s
        ∧ { t.hostPort with mailh := s.hostPort.mailh } = s.hostPort
        ∧ ∀ j, t.hostPort.mailh.get j 0 = if j = i then v else s.hostPort.mailh.get j 0) ∧
      (exec (.registerWrite true 8 v) s = .next { s with hostPort := { s.hostPort with cecnt := s.hostPort.cecnt &&& ~~~v } }) ∧
      (exec (.registerWrite true 16 v) s = .next { s with hostPort := { s.hostPort with uecnt := s.hostPort.uecnt &&& ~~~v } }) ∧
      (exec (.registerWrite true 0 v) s = .next s) ∧
      (exec (.registerWrite false Config.deviceWindow v) s = .next { s with xlat := { s.xlat with inva := v } }) ∧
      (exec (.registerWrite false (Config.deviceWindow + 0x18) v) s = .next { s with xlat := { s.xlat with pzb := v } }) ∧
      (exec (.registerWrite false (Config.deviceWindow + 0x48) v) s = .next s) ∧
      (exec (.registerWrite false Config.dispatchWindow v) s
        = .next { s with dispatch := { s.dispatch with tgrace := v &&& 0xFFFFFFFF } }) ∧
      (exec (.registerWrite false Config.boardWindow v) s = .next { s with board := { s.board with domain := v &&& 0xFF } }) ∧
      ∀ c, c < 272 → ∃ t, exec (.registerWrite false (Config.partitionWindow + 8 * c) v) s = .next t ∧
        let barred := c ∈ s.parts.quar ∨ ∃ k ∈ coresOf c, (s.core k).binding.isSome = true
        (barred → t = s) ∧ (¬ barred → { t with parts := s.parts } = s ∧ { t.parts with cpart := s.parts.cpart } = s.parts
          ∧ ∀ j, t.parts.cpart.get j 0 = if j = c then v.toNat % 16 else s.parts.cpart.get j 0)

/-! ### Encoding, one step, reset -/

/-- R64, R66, R72 to R74, Table 3-14: words written out from the tables of the encodings, with the instructions they stand for, and
words that no entry assigns. -/
def Obligations.DecodedWords : Prop :=
  (∀ p ∈ ([(0b000001_00011_00100_00101_1_0_000000000, .add 3 4 5 1 0),
      (0b000010_00001_00010_00011_0_1_000001000, .div 1 2 3 0 1),
      (0b000011_01001_00000_00101_0_0_000010000, .crr 9 5),
      (0b000100_00110_00111_1_111111111111110, .addi 6 7 1 0x7FFE),
      (0b010000_0001_00101_00000000000000010, .bEqz 5 2),
      (0b010001_11111111111111111111111110, .j 0x3FFFFFE),
      (0b010100_00001_00010_00011_1_0_000000100, .send 1 2 3 1 0),
      (0b011000_00001_00010_0_00_011_1111111110, .lds 1 2 0 0 3 0x3FE),
      (0b011111_00001_00010_00011_0_0_000_0_1_0010, .aadd 1 2 3 0 0 0 1),
      (0b100000_00100_00101_00110_011_10_000000, .vadd 4 5 6 3 2),
      (0b100001_01001_10100_10111_011_01_000_011, .vfadd 9 20 23 3 1 3),
      (0b100010_11111_00001_0_100_0_100_0000_1001, .vcvt 31 1 4 4 9),
      (0b100011_00001_00010_00000_011_00_000000, .vmov 1 2 3 0),
      (0b100100_00011_10000_11001_100_00_000100, .vgatherG 3 16 25 4 0),
      (0b100110_00001_00111_00101_00000000111, .tmac 1 7 5),
      (0b101000_0011_0100_0101_000000_1_0000000, .qand 3 4 5 1),
      (0b101100_0000000_0001_0010_00011_1_0_0_000, .rack 1 2 3 1 0 0),
      (0b110000_000000_00000000000000000101, .syscall 5)] : List (IWord × Instr)),
    decode p.1 = some p.2) ∧
  ∀ w ∈ ([0x00000000, 0xFFFFFFFF, 0x04000024, 0x60001800] : List IWord), decode w = none

/-- R64 to R74: decoding the word of any well-formed instruction gives it back, every field at every value its entry accepts; and
every word that decodes is the word of the well-formed instruction it decodes to. -/
def Obligations.EncodeDecodeRoundTrip : Prop :=
  (∀ (i : Instr) (w : IWord), wellFormed i = true → encode i = some w → decode w = some i) ∧
  ∀ (w : IWord) (i : Instr), decode w = some i → wellFormed i = true ∧ encode i = some w

namespace Sys2Proof.Claims

/-- It is a slot's turn (R29): each slot that comes between the last to issue of its core and this one may not issue, or its last
result may still be on its way. -/
def Turn (s : State) (a : Agent) : Prop :=
  match a with
  | .slot core n => ∀ k, k < 8 → k ≠ n →
      (k + 7 - (s.core core).lastSlot % 8) % 8 < (n + 7 - (s.core core).lastSlot % 8) % 8 →
      (s.ctx (.slot core k)).ctl.canIssue = false ∨ s.issueCycle a < (s.ctx (.slot core k)).ctl.late
  | _ => True

end Sys2Proof.Claims

/-- R29, R64, R70, R271: one step takes the choice at the head of the agenda.  An agent that may issue fetches the word at its PC and runs
exec of the instruction the word decodes to, with that word as its instruction word; an event is exec of the event. A slot issues when
every slot that the round robin of R29 comes to before it may not issue, or may have to wait for its last result (which of those waits is
the environment's choice: log entry 5).  A word whose meaning leaves everything as it was has to wait, and its slot alone is passed over
for a cycle, which is the model's choice (log entry 5).  A packet that carries nothing but contributions already on their way is dropped,
which is the model's choice too (log entry 129).  A device without power makes no step but POWER_ON (R417, R421). -/
def Obligations.StepRunsDecoded : Prop :=
  ∀ (s : State), (s.board.powered = false →
      (∀ inp rest, s.agenda = .take (.powerOn inp) :: rest → step s = exec (.powerOn inp) { s with agenda := rest }) ∧
      ((∀ inp rest, s.agenda ≠ .take (.powerOn inp) :: rest) → step s = .fault .noPower)) ∧
    (s.board.powered = true → ∀ rest,
      let s0 := { s with agenda := rest }
      (∀ a, s.agenda = .issue a :: rest → (∀ core n, a = .slot core n → n < 8) →
        ((s.ctx a).ctl.canIssue = false ∨ ¬ Turn s a → step s = .next s0) ∧
        ((s.ctx a).ctl.canIssue = true → Turn s a → let u := s0.beginIssue a
          let v := u.countFetch a
          let ready := fun (w : IWord) => v.onCtx a fun c => { c with
            ctl := { c.ctl.capture w with iword := (s.ctx a).ctl.issued w, late := v.now + lateFor ((s.ctx a).ctl.issued w) } }
          let runs := fun (i : Instr) (x : State) => (exec i x ≠ .next x → step s = exec i x)
            ∧ (exec i x = .next x → step s = .next (s0.passOver a))
          let same := fun (t : State) => t.cur = a ∧ t.now = s.issueCycle a ∧ t.mem = s.mem ∧ (∀ b, b ≠ a → t.ctx b = s.ctx b)
            ∧ { t.ctx a with issuedAt := (s.ctx a).issuedAt } = s.ctx a
          same u ∧ same v ∧
          (∀ w i, u.fetch a = .word w → decode ((s.ctx a).ctl.issued w) = some i → runs i (ready w)) ∧
          (∀ w, u.fetch a = .word w → decode ((s.ctx a).ctl.issued w) = none →
            runs (.illegalInstruction ((s.ctx a).ctl.issued w)) (ready w)) ∧
          (∀ cause, u.fetch a = .fails cause → runs .instructionFetchFault u) ∧
          (s0.passOver a = s0 ∨ s0.passOver a = s0.onCtx a fun c => { c with
            ctl := { c.ctl with late := max c.ctl.late (s.issueCycle a + 1) } }) ∧
          (u.fetch a = .miss → step s = .next (u.missOf a (u.asidFor a) (s.ctx a).ctl.pc.toNat .fetch)) ∧
          (u.fetch a = .held → step s = .next (s0.passOver a)) ∧
          ((s.ctx a).ctl.frame = none → ∀ loc page ent,
            u.xlate a (u.asidFor a) (s.ctx a).ctl.pc.toNat .fetch = .hit loc page ent → u.noRoute loc = false → u.poisonAt loc 4 = none →
            u.fetch a = .word (BitVec.ofNat 32 (fromBytes (u.readBytes loc 4))) ∧ ∀ w, (s.ctx a).ctl.issued w = w))) ∧
      (∀ e, s.agenda = .take e :: rest → step s = exec e s0) ∧
      (∀ p, s.agenda = .packet p :: rest → p.devices.getLsbD s.device = false → (∀ c ∈ p.from_, c.dev ≠ s.device) →
        step s = .next (if p.from_ ≠ [] ∧ ∀ c ∈ p.from_, ∃ q ∈ s.packets, q.dev = p.dev ∧ ∃ d ∈ q.from_, d.dev = c.dev ∧ d.seq = c.seq
          then s0 else { s0 with packets := s0.packets ++ [p] })) ∧
      ∀ n, s.agenda = .elapse n :: rest → step s = .next { s0 with now := s.now + n })

/-- R24 and R417, with the reset columns of Tables 18-8, 20-1 and 23-2: what reset leaves where the spec gives it.  (Values the spec
does not give are log entries 1 and 2, and are not stated.) -/
def Obligations.ResetState : Prop :=
  let s := State.reset
  Canonical s ∧ (∀ pa, s.mem.read pa = 0) ∧ (∀ c o, (s.core c).slice.read o = 0)
    ∧ (s.ctx (.cel 0)).ctl.status = .inRom ∧ (∀ k, k ≠ 0 → (s.ctx (.cel k)).ctl.status = .inReset)
    ∧ (∀ c, (s.ctx (.tsc c)).ctl.status = .inReset) ∧ (∀ c n, (s.ctx (.slot c n)).ctl.status = .inReset)
    ∧ s.hostPort.coresOn = none ∧ (∀ a, (s.ctx a).ctl.canIssue = false) ∧ (∀ k, (s.ctx (.cel k)).supervisor (.cel k) = true)
    ∧ (∀ k, s.partOfCel k = 0) ∧ (∀ c, s.partOfCluster c = 0) ∧ s.hostPort.boot = 0 ∧ s.hostPort.attempts = 0
    ∧ (∀ a, (s.ctx a).trap.cause = 0) ∧ (∀ r, s.xlat.gens.get r 0 = 0) ∧ s.groups = [] ∧ s.board.powered = true

/-- R4, R24, R168: every step keeps every memory of the device in its canonical form: addresses strictly rising, and no byte listed
that an unlisted address reads as. -/
def Obligations.MemoryStaysCanonical : Prop :=
  ∀ (s t : State), Canonical s → step s = .next t → Canonical t
end

