-- ==== Sys2Proof/Laws/State.lean ====
section
/-! SUPPORT. The updates of a state: what each leaves as it was, and what it reads back. -/

namespace Sys2Proof.Machine

/-! ### Tables -/

@[simp] theorem Table.find?_put_self {κ α : Type} [DecidableEq κ] (t : Table κ α) (k : κ) (v : α) :
    (t.put k v).find? k = some v := by
  induction t with
  | nil => simp [Table.put, Table.find?]
  | cons e t ih =>
    obtain ⟨k', v'⟩ := e
    by_cases h : k' = k <;> simp [Table.put, Table.find?, h, ih]

@[simp] theorem Table.find?_put_ne {κ α : Type} [DecidableEq κ] (t : Table κ α) (k j : κ) (v : α) (h : j ≠ k) :
    (t.put k v).find? j = t.find? j := by
  have h' : k ≠ j := fun e => h e.symm
  induction t with
  | nil => simp [Table.put, Table.find?, h']
  | cons e t ih =>
    obtain ⟨k', v'⟩ := e
    by_cases hk : k' = k
    · subst hk; simp [Table.put, Table.find?, h']
    · by_cases hj : k' = j
      · subst hj; simp [Table.put, Table.find?, hk]
      · simp [Table.put, Table.find?, hk, hj, ih]

@[simp] theorem Table.get_put_self {κ α : Type} [DecidableEq κ] (t : Table κ α) (k : κ) (v d : α) :
    (t.put k v).get k d = v := by
  simp [Table.get]

@[simp] theorem Table.get_put_ne {κ α : Type} [DecidableEq κ] (t : Table κ α) (k j : κ) (v d : α) (h : j ≠ k) :
    (t.put k v).get j d = t.get j d := by
  simp [Table.get, h]

/-! ### The parts of the device read back -/

@[simp] theorem State.ctx_onCtx_self (s : State) (a : Agent) (f : Ctx → Ctx) : (s.onCtx a f).ctx a = f (s.ctx a) := by
  simp [State.onCtx, State.ctx]

@[simp] theorem State.ctx_onCtx_ne (s : State) (a b : Agent) (f : Ctx → Ctx) (h : b ≠ a) :
    (s.onCtx a f).ctx b = s.ctx b := by
  simp [State.onCtx, State.ctx, h]

@[simp] theorem State.core_onCore_self (s : State) (n : Nat) (f : Core → Core) : (s.onCore n f).core n = f (s.core n) := by
  simp [State.onCore, State.core]

@[simp] theorem State.core_onCore_ne (s : State) (n m : Nat) (f : Core → Core) (h : m ≠ n) :
    (s.onCore n f).core m = s.core m := by
  simp [State.onCore, State.core, h]

@[simp] theorem State.cluster_onCluster_self (s : State) (c : Nat) (f : Cluster → Cluster) :
    (s.onCluster c f).cluster c = f (s.cluster c) := by
  simp [State.onCluster, State.cluster]

@[simp] theorem State.cluster_onCluster_ne (s : State) (c d : Nat) (f : Cluster → Cluster) (h : d ≠ c) :
    (s.onCluster c f).cluster d = s.cluster d := by
  simp [State.onCluster, State.cluster, h]

@[simp] theorem State.ctx_onCore (s : State) (n : Nat) (f : Core → Core) (a : Agent) : (s.onCore n f).ctx a = s.ctx a := rfl

@[simp] theorem State.ctx_onCluster (s : State) (c : Nat) (f : Cluster → Cluster) (a : Agent) :
    (s.onCluster c f).ctx a = s.ctx a := rfl

@[simp] theorem State.core_onCtx (s : State) (a : Agent) (f : Ctx → Ctx) (n : Nat) : (s.onCtx a f).core n = s.core n := rfl

@[simp] theorem State.core_onCluster (s : State) (c : Nat) (f : Cluster → Cluster) (n : Nat) :
    (s.onCluster c f).core n = s.core n := rfl

@[simp] theorem State.cluster_onCtx (s : State) (a : Agent) (f : Ctx → Ctx) (c : Nat) :
    (s.onCtx a f).cluster c = s.cluster c := rfl

@[simp] theorem State.cluster_onCore (s : State) (n : Nat) (f : Core → Core) (c : Nat) :
    (s.onCore n f).cluster c = s.cluster c := rfl

/-! ### Fields that an update of a context, a core or a cluster leaves -/

@[simp] theorem State.cores_onCtx_field (s : State) (a : Agent) (f : Ctx → Ctx) : (s.onCtx a f).cores = s.cores := rfl
@[simp] theorem State.clusters_onCtx_field (s : State) (a : Agent) (f : Ctx → Ctx) : (s.onCtx a f).clusters = s.clusters := rfl
@[simp] theorem State.mem_onCtx_field (s : State) (a : Agent) (f : Ctx → Ctx) : (s.onCtx a f).mem = s.mem := rfl
@[simp] theorem State.poison_onCtx_field (s : State) (a : Agent) (f : Ctx → Ctx) : (s.onCtx a f).poison = s.poison := rfl
@[simp] theorem State.peers_onCtx_field (s : State) (a : Agent) (f : Ctx → Ctx) : (s.onCtx a f).peers = s.peers := rfl
@[simp] theorem State.peerPoison_onCtx_field (s : State) (a : Agent) (f : Ctx → Ctx) : (s.onCtx a f).peerPoison = s.peerPoison := rfl
@[simp] theorem State.unreachable_onCtx_field (s : State) (a : Agent) (f : Ctx → Ctx) : (s.onCtx a f).unreachable = s.unreachable := rfl
@[simp] theorem State.packets_onCtx_field (s : State) (a : Agent) (f : Ctx → Ctx) : (s.onCtx a f).packets = s.packets := rfl
@[simp] theorem State.packetSeq_onCtx_field (s : State) (a : Agent) (f : Ctx → Ctx) : (s.onCtx a f).packetSeq = s.packetSeq := rfl
@[simp] theorem State.performed_onCtx_field (s : State) (a : Agent) (f : Ctx → Ctx) : (s.onCtx a f).performed = s.performed := rfl
@[simp] theorem State.mesh_onCtx_field (s : State) (a : Agent) (f : Ctx → Ctx) : (s.onCtx a f).mesh = s.mesh := rfl
@[simp] theorem State.tree_onCtx_field (s : State) (a : Agent) (f : Ctx → Ctx) : (s.onCtx a f).tree = s.tree := rfl
@[simp] theorem State.groups_onCtx_field (s : State) (a : Agent) (f : Ctx → Ctx) : (s.onCtx a f).groups = s.groups := rfl
@[simp] theorem State.dispatch_onCtx_field (s : State) (a : Agent) (f : Ctx → Ctx) : (s.onCtx a f).dispatch = s.dispatch := rfl
@[simp] theorem State.xlat_onCtx_field (s : State) (a : Agent) (f : Ctx → Ctx) : (s.onCtx a f).xlat = s.xlat := rfl
@[simp] theorem State.parts_onCtx_field (s : State) (a : Agent) (f : Ctx → Ctx) : (s.onCtx a f).parts = s.parts := rfl
@[simp] theorem State.board_onCtx_field (s : State) (a : Agent) (f : Ctx → Ctx) : (s.onCtx a f).board = s.board := rfl
@[simp] theorem State.hostPort_onCtx_field (s : State) (a : Agent) (f : Ctx → Ctx) : (s.onCtx a f).hostPort = s.hostPort := rfl
@[simp] theorem State.cur_onCtx_field (s : State) (a : Agent) (f : Ctx → Ctx) : (s.onCtx a f).cur = s.cur := rfl
@[simp] theorem State.now_onCtx_field (s : State) (a : Agent) (f : Ctx → Ctx) : (s.onCtx a f).now = s.now := rfl
@[simp] theorem State.agenda_onCtx_field (s : State) (a : Agent) (f : Ctx → Ctx) : (s.onCtx a f).agenda = s.agenda := rfl
@[simp] theorem State.fresh_onCtx_field (s : State) (a : Agent) (f : Ctx → Ctx) : (s.onCtx a f).fresh = s.fresh := rfl
@[simp] theorem State.nextId_onCtx_field (s : State) (a : Agent) (f : Ctx → Ctx) : (s.onCtx a f).nextId = s.nextId := rfl

@[simp] theorem State.ctxs_onCore_field (s : State) (n : Nat) (f : Core → Core) : (s.onCore n f).ctxs = s.ctxs := rfl
@[simp] theorem State.clusters_onCore_field (s : State) (n : Nat) (f : Core → Core) : (s.onCore n f).clusters = s.clusters := rfl
@[simp] theorem State.mem_onCore_field (s : State) (n : Nat) (f : Core → Core) : (s.onCore n f).mem = s.mem := rfl
@[simp] theorem State.poison_onCore_field (s : State) (n : Nat) (f : Core → Core) : (s.onCore n f).poison = s.poison := rfl
@[simp] theorem State.peers_onCore_field (s : State) (n : Nat) (f : Core → Core) : (s.onCore n f).peers = s.peers := rfl
@[simp] theorem State.peerPoison_onCore_field (s : State) (n : Nat) (f : Core → Core) : (s.onCore n f).peerPoison = s.peerPoison := rfl
@[simp] theorem State.unreachable_onCore_field (s : State) (n : Nat) (f : Core → Core) : (s.onCore n f).unreachable = s.unreachable := rfl
@[simp] theorem State.packets_onCore_field (s : State) (n : Nat) (f : Core → Core) : (s.onCore n f).packets = s.packets := rfl
@[simp] theorem State.packetSeq_onCore_field (s : State) (n : Nat) (f : Core → Core) : (s.onCore n f).packetSeq = s.packetSeq := rfl
@[simp] theorem State.performed_onCore_field (s : State) (n : Nat) (f : Core → Core) : (s.onCore n f).performed = s.performed := rfl
@[simp] theorem State.mesh_onCore_field (s : State) (n : Nat) (f : Core → Core) : (s.onCore n f).mesh = s.mesh := rfl
@[simp] theorem State.tree_onCore_field (s : State) (n : Nat) (f : Core → Core) : (s.onCore n f).tree = s.tree := rfl
@[simp] theorem State.groups_onCore_field (s : State) (n : Nat) (f : Core → Core) : (s.onCore n f).groups = s.groups := rfl
@[simp] theorem State.dispatch_onCore_field (s : State) (n : Nat) (f : Core → Core) : (s.onCore n f).dispatch = s.dispatch := rfl
@[simp] theorem State.xlat_onCore_field (s : State) (n : Nat) (f : Core → Core) : (s.onCore n f).xlat = s.xlat := rfl
@[simp] theorem State.parts_onCore_field (s : State) (n : Nat) (f : Core → Core) : (s.onCore n f).parts = s.parts := rfl
@[simp] theorem State.board_onCore_field (s : State) (n : Nat) (f : Core → Core) : (s.onCore n f).board = s.board := rfl
@[simp] theorem State.hostPort_onCore_field (s : State) (n : Nat) (f : Core → Core) : (s.onCore n f).hostPort = s.hostPort := rfl
@[simp] theorem State.cur_onCore_field (s : State) (n : Nat) (f : Core → Core) : (s.onCore n f).cur = s.cur := rfl
@[simp] theorem State.now_onCore_field (s : State) (n : Nat) (f : Core → Core) : (s.onCore n f).now = s.now := rfl
@[simp] theorem State.agenda_onCore_field (s : State) (n : Nat) (f : Core → Core) : (s.onCore n f).agenda = s.agenda := rfl
@[simp] theorem State.fresh_onCore_field (s : State) (n : Nat) (f : Core → Core) : (s.onCore n f).fresh = s.fresh := rfl
@[simp] theorem State.nextId_onCore_field (s : State) (n : Nat) (f : Core → Core) : (s.onCore n f).nextId = s.nextId := rfl

@[simp] theorem State.ctxs_onCluster_field (s : State) (c : Nat) (f : Cluster → Cluster) : (s.onCluster c f).ctxs = s.ctxs := rfl
@[simp] theorem State.cores_onCluster_field (s : State) (c : Nat) (f : Cluster → Cluster) : (s.onCluster c f).cores = s.cores := rfl
@[simp] theorem State.mem_onCluster_field (s : State) (c : Nat) (f : Cluster → Cluster) : (s.onCluster c f).mem = s.mem := rfl
@[simp] theorem State.poison_onCluster_field (s : State) (c : Nat) (f : Cluster → Cluster) : (s.onCluster c f).poison = s.poison := rfl
@[simp] theorem State.peers_onCluster_field (s : State) (c : Nat) (f : Cluster → Cluster) : (s.onCluster c f).peers = s.peers := rfl
@[simp] theorem State.peerPoison_onCluster_field (s : State) (c : Nat) (f : Cluster → Cluster) : (s.onCluster c f).peerPoison = s.peerPoison := rfl
@[simp] theorem State.unreachable_onCluster_field (s : State) (c : Nat) (f : Cluster → Cluster) : (s.onCluster c f).unreachable = s.unreachable := rfl
@[simp] theorem State.packets_onCluster_field (s : State) (c : Nat) (f : Cluster → Cluster) : (s.onCluster c f).packets = s.packets := rfl
@[simp] theorem State.packetSeq_onCluster_field (s : State) (c : Nat) (f : Cluster → Cluster) : (s.onCluster c f).packetSeq = s.packetSeq := rfl
@[simp] theorem State.performed_onCluster_field (s : State) (c : Nat) (f : Cluster → Cluster) : (s.onCluster c f).performed = s.performed := rfl
@[simp] theorem State.mesh_onCluster_field (s : State) (c : Nat) (f : Cluster → Cluster) : (s.onCluster c f).mesh = s.mesh := rfl
@[simp] theorem State.tree_onCluster_field (s : State) (c : Nat) (f : Cluster → Cluster) : (s.onCluster c f).tree = s.tree := rfl
@[simp] theorem State.groups_onCluster_field (s : State) (c : Nat) (f : Cluster → Cluster) : (s.onCluster c f).groups = s.groups := rfl
@[simp] theorem State.dispatch_onCluster_field (s : State) (c : Nat) (f : Cluster → Cluster) : (s.onCluster c f).dispatch = s.dispatch := rfl
@[simp] theorem State.xlat_onCluster_field (s : State) (c : Nat) (f : Cluster → Cluster) : (s.onCluster c f).xlat = s.xlat := rfl
@[simp] theorem State.parts_onCluster_field (s : State) (c : Nat) (f : Cluster → Cluster) : (s.onCluster c f).parts = s.parts := rfl
@[simp] theorem State.board_onCluster_field (s : State) (c : Nat) (f : Cluster → Cluster) : (s.onCluster c f).board = s.board := rfl
@[simp] theorem State.hostPort_onCluster_field (s : State) (c : Nat) (f : Cluster → Cluster) : (s.onCluster c f).hostPort = s.hostPort := rfl
@[simp] theorem State.cur_onCluster_field (s : State) (c : Nat) (f : Cluster → Cluster) : (s.onCluster c f).cur = s.cur := rfl
@[simp] theorem State.now_onCluster_field (s : State) (c : Nat) (f : Cluster → Cluster) : (s.onCluster c f).now = s.now := rfl
@[simp] theorem State.agenda_onCluster_field (s : State) (c : Nat) (f : Cluster → Cluster) : (s.onCluster c f).agenda = s.agenda := rfl
@[simp] theorem State.fresh_onCluster_field (s : State) (c : Nat) (f : Cluster → Cluster) : (s.onCluster c f).fresh = s.fresh := rfl
@[simp] theorem State.nextId_onCluster_field (s : State) (c : Nat) (f : Cluster → Cluster) : (s.onCluster c f).nextId = s.nextId := rfl

/-! ### Fields that an update of a group leaves -/

@[simp] theorem State.ctxs_onGroup_field (s : State) (l : Nat) (f : Group → Group) : (s.onGroup l f).ctxs = s.ctxs := by
  unfold State.onGroup; split <;> rfl
@[simp] theorem State.cores_onGroup_field (s : State) (l : Nat) (f : Group → Group) : (s.onGroup l f).cores = s.cores := by
  unfold State.onGroup; split <;> rfl
@[simp] theorem State.clusters_onGroup_field (s : State) (l : Nat) (f : Group → Group) : (s.onGroup l f).clusters = s.clusters := by
  unfold State.onGroup; split <;> rfl
@[simp] theorem State.mem_onGroup_field (s : State) (l : Nat) (f : Group → Group) : (s.onGroup l f).mem = s.mem := by
  unfold State.onGroup; split <;> rfl
@[simp] theorem State.poison_onGroup_field (s : State) (l : Nat) (f : Group → Group) : (s.onGroup l f).poison = s.poison := by
  unfold State.onGroup; split <;> rfl
@[simp] theorem State.peers_onGroup_field (s : State) (l : Nat) (f : Group → Group) : (s.onGroup l f).peers = s.peers := by
  unfold State.onGroup; split <;> rfl
@[simp] theorem State.peerPoison_onGroup_field (s : State) (l : Nat) (f : Group → Group) : (s.onGroup l f).peerPoison = s.peerPoison := by
  unfold State.onGroup; split <;> rfl
@[simp] theorem State.unreachable_onGroup_field (s : State) (l : Nat) (f : Group → Group) : (s.onGroup l f).unreachable = s.unreachable := by
  unfold State.onGroup; split <;> rfl
@[simp] theorem State.packets_onGroup_field (s : State) (l : Nat) (f : Group → Group) : (s.onGroup l f).packets = s.packets := by
  unfold State.onGroup; split <;> rfl
@[simp] theorem State.packetSeq_onGroup_field (s : State) (l : Nat) (f : Group → Group) : (s.onGroup l f).packetSeq = s.packetSeq := by
  unfold State.onGroup; split <;> rfl
@[simp] theorem State.performed_onGroup_field (s : State) (l : Nat) (f : Group → Group) : (s.onGroup l f).performed = s.performed := by
  unfold State.onGroup; split <;> rfl
@[simp] theorem State.mesh_onGroup_field (s : State) (l : Nat) (f : Group → Group) : (s.onGroup l f).mesh = s.mesh := by
  unfold State.onGroup; split <;> rfl
@[simp] theorem State.tree_onGroup_field (s : State) (l : Nat) (f : Group → Group) : (s.onGroup l f).tree = s.tree := by
  unfold State.onGroup; split <;> rfl
@[simp] theorem State.dispatch_onGroup_field (s : State) (l : Nat) (f : Group → Group) : (s.onGroup l f).dispatch = s.dispatch := by
  unfold State.onGroup; split <;> rfl
@[simp] theorem State.xlat_onGroup_field (s : State) (l : Nat) (f : Group → Group) : (s.onGroup l f).xlat = s.xlat := by
  unfold State.onGroup; split <;> rfl
@[simp] theorem State.parts_onGroup_field (s : State) (l : Nat) (f : Group → Group) : (s.onGroup l f).parts = s.parts := by
  unfold State.onGroup; split <;> rfl
@[simp] theorem State.board_onGroup_field (s : State) (l : Nat) (f : Group → Group) : (s.onGroup l f).board = s.board := by
  unfold State.onGroup; split <;> rfl
@[simp] theorem State.hostPort_onGroup_field (s : State) (l : Nat) (f : Group → Group) : (s.onGroup l f).hostPort = s.hostPort := by
  unfold State.onGroup; split <;> rfl
@[simp] theorem State.cur_onGroup_field (s : State) (l : Nat) (f : Group → Group) : (s.onGroup l f).cur = s.cur := by
  unfold State.onGroup; split <;> rfl
@[simp] theorem State.now_onGroup_field (s : State) (l : Nat) (f : Group → Group) : (s.onGroup l f).now = s.now := by
  unfold State.onGroup; split <;> rfl
@[simp] theorem State.agenda_onGroup_field (s : State) (l : Nat) (f : Group → Group) : (s.onGroup l f).agenda = s.agenda := by
  unfold State.onGroup; split <;> rfl
@[simp] theorem State.fresh_onGroup_field (s : State) (l : Nat) (f : Group → Group) : (s.onGroup l f).fresh = s.fresh := by
  unfold State.onGroup; split <;> rfl
@[simp] theorem State.nextId_onGroup_field (s : State) (l : Nat) (f : Group → Group) : (s.onGroup l f).nextId = s.nextId := by
  unfold State.onGroup; split <;> rfl

/-! ### Registers -/

@[simp] theorem Ctx.setX_trap (c : Ctx) (n : BitVec 5) (v : Word) : (c.setX n v).trap = c.trap := by
  unfold Ctx.setX; split <;> rfl
@[simp] theorem Ctx.setX_sp (c : Ctx) (n : BitVec 5) (v : Word) : (c.setX n v).sp = c.sp := by
  unfold Ctx.setX; split <;> rfl
@[simp] theorem Ctx.setX_act (c : Ctx) (n : BitVec 5) (v : Word) : (c.setX n v).act = c.act := by
  unfold Ctx.setX; split <;> rfl
@[simp] theorem Ctx.setX_tiles (c : Ctx) (n : BitVec 5) (v : Word) : (c.setX n v).tiles = c.tiles := by
  unfold Ctx.setX; split <;> rfl
@[simp] theorem Ctx.setX_rackFault (c : Ctx) (n : BitVec 5) (v : Word) : (c.setX n v).rackFault = c.rackFault := by
  unfold Ctx.setX; split <;> rfl
@[simp] theorem Ctx.setX_pressFault (c : Ctx) (n : BitVec 5) (v : Word) : (c.setX n v).pressFault = c.pressFault := by
  unfold Ctx.setX; split <;> rfl
@[simp] theorem Ctx.setX_trelFault (c : Ctx) (n : BitVec 5) (v : Word) : (c.setX n v).trelFault = c.trelFault := by
  unfold Ctx.setX; split <;> rfl
@[simp] theorem Ctx.setX_cask (c : Ctx) (n : BitVec 5) (v : Word) : (c.setX n v).cask = c.cask := by
  unfold Ctx.setX; split <;> rfl
@[simp] theorem Ctx.setX_decantTape (c : Ctx) (n : BitVec 5) (v : Word) : (c.setX n v).decantTape = c.decantTape := by
  unfold Ctx.setX; split <;> rfl
@[simp] theorem Ctx.setX_decantDst (c : Ctx) (n : BitVec 5) (v : Word) : (c.setX n v).decantDst = c.decantDst := by
  unfold Ctx.setX; split <;> rfl
@[simp] theorem Ctx.setX_decantPv (c : Ctx) (n : BitVec 5) (v : Word) : (c.setX n v).decantPv = c.decantPv := by
  unfold Ctx.setX; split <;> rfl
@[simp] theorem Ctx.setX_queue (c : Ctx) (n : BitVec 5) (v : Word) : (c.setX n v).queue = c.queue := by
  unfold Ctx.setX; split <;> rfl
@[simp] theorem Ctx.setX_loads (c : Ctx) (n : BitVec 5) (v : Word) : (c.setX n v).loads = c.loads := by
  unfold Ctx.setX; split <;> rfl

@[simp] theorem Ctx.setV_trap (c : Ctx) (n : BitVec 5) (v : VReg) : (c.setV n v).trap = c.trap := rfl
@[simp] theorem Ctx.setV_sp (c : Ctx) (n : BitVec 5) (v : VReg) : (c.setV n v).sp = c.sp := rfl
@[simp] theorem Ctx.setV_act (c : Ctx) (n : BitVec 5) (v : VReg) : (c.setV n v).act = c.act := rfl
@[simp] theorem Ctx.setV_tiles (c : Ctx) (n : BitVec 5) (v : VReg) : (c.setV n v).tiles = c.tiles := rfl
@[simp] theorem Ctx.setV_rackFault (c : Ctx) (n : BitVec 5) (v : VReg) : (c.setV n v).rackFault = c.rackFault := rfl
@[simp] theorem Ctx.setV_pressFault (c : Ctx) (n : BitVec 5) (v : VReg) : (c.setV n v).pressFault = c.pressFault := rfl
@[simp] theorem Ctx.setV_trelFault (c : Ctx) (n : BitVec 5) (v : VReg) : (c.setV n v).trelFault = c.trelFault := rfl
@[simp] theorem Ctx.setV_cask (c : Ctx) (n : BitVec 5) (v : VReg) : (c.setV n v).cask = c.cask := rfl
@[simp] theorem Ctx.setV_decantTape (c : Ctx) (n : BitVec 5) (v : VReg) : (c.setV n v).decantTape = c.decantTape := rfl
@[simp] theorem Ctx.setV_decantDst (c : Ctx) (n : BitVec 5) (v : VReg) : (c.setV n v).decantDst = c.decantDst := rfl
@[simp] theorem Ctx.setV_decantPv (c : Ctx) (n : BitVec 5) (v : VReg) : (c.setV n v).decantPv = c.decantPv := rfl
@[simp] theorem Ctx.setV_queue (c : Ctx) (n : BitVec 5) (v : VReg) : (c.setV n v).queue = c.queue := rfl
@[simp] theorem Ctx.setV_loads (c : Ctx) (n : BitVec 5) (v : VReg) : (c.setV n v).loads = c.loads := rfl

@[simp] theorem Ctx.setP_trap (c : Ctx) (n : BitVec 3) (v : Word) : (c.setP n v).trap = c.trap := by
  unfold Ctx.setP; split <;> rfl
@[simp] theorem Ctx.setP_sp (c : Ctx) (n : BitVec 3) (v : Word) : (c.setP n v).sp = c.sp := by
  unfold Ctx.setP; split <;> rfl
@[simp] theorem Ctx.setP_act (c : Ctx) (n : BitVec 3) (v : Word) : (c.setP n v).act = c.act := by
  unfold Ctx.setP; split <;> rfl
@[simp] theorem Ctx.setP_tiles (c : Ctx) (n : BitVec 3) (v : Word) : (c.setP n v).tiles = c.tiles := by
  unfold Ctx.setP; split <;> rfl
@[simp] theorem Ctx.setP_rackFault (c : Ctx) (n : BitVec 3) (v : Word) : (c.setP n v).rackFault = c.rackFault := by
  unfold Ctx.setP; split <;> rfl
@[simp] theorem Ctx.setP_pressFault (c : Ctx) (n : BitVec 3) (v : Word) : (c.setP n v).pressFault = c.pressFault := by
  unfold Ctx.setP; split <;> rfl
@[simp] theorem Ctx.setP_trelFault (c : Ctx) (n : BitVec 3) (v : Word) : (c.setP n v).trelFault = c.trelFault := by
  unfold Ctx.setP; split <;> rfl
@[simp] theorem Ctx.setP_cask (c : Ctx) (n : BitVec 3) (v : Word) : (c.setP n v).cask = c.cask := by
  unfold Ctx.setP; split <;> rfl
@[simp] theorem Ctx.setP_decantTape (c : Ctx) (n : BitVec 3) (v : Word) : (c.setP n v).decantTape = c.decantTape := by
  unfold Ctx.setP; split <;> rfl
@[simp] theorem Ctx.setP_decantDst (c : Ctx) (n : BitVec 3) (v : Word) : (c.setP n v).decantDst = c.decantDst := by
  unfold Ctx.setP; split <;> rfl
@[simp] theorem Ctx.setP_decantPv (c : Ctx) (n : BitVec 3) (v : Word) : (c.setP n v).decantPv = c.decantPv := by
  unfold Ctx.setP; split <;> rfl
@[simp] theorem Ctx.setP_queue (c : Ctx) (n : BitVec 3) (v : Word) : (c.setP n v).queue = c.queue := by
  unfold Ctx.setP; split <;> rfl
@[simp] theorem Ctx.setP_loads (c : Ctx) (n : BitVec 3) (v : Word) : (c.setP n v).loads = c.loads := by
  unfold Ctx.setP; split <;> rfl

@[simp] theorem Ctx.setQ_trap (c : Ctx) (n : BitVec 4) (v : Region) : (c.setQ n v).trap = c.trap := rfl
@[simp] theorem Ctx.setQ_sp (c : Ctx) (n : BitVec 4) (v : Region) : (c.setQ n v).sp = c.sp := rfl
@[simp] theorem Ctx.setQ_act (c : Ctx) (n : BitVec 4) (v : Region) : (c.setQ n v).act = c.act := rfl
@[simp] theorem Ctx.setQ_tiles (c : Ctx) (n : BitVec 4) (v : Region) : (c.setQ n v).tiles = c.tiles := rfl
@[simp] theorem Ctx.setQ_rackFault (c : Ctx) (n : BitVec 4) (v : Region) : (c.setQ n v).rackFault = c.rackFault := rfl
@[simp] theorem Ctx.setQ_pressFault (c : Ctx) (n : BitVec 4) (v : Region) : (c.setQ n v).pressFault = c.pressFault := rfl
@[simp] theorem Ctx.setQ_trelFault (c : Ctx) (n : BitVec 4) (v : Region) : (c.setQ n v).trelFault = c.trelFault := rfl
@[simp] theorem Ctx.setQ_cask (c : Ctx) (n : BitVec 4) (v : Region) : (c.setQ n v).cask = c.cask := rfl
@[simp] theorem Ctx.setQ_decantTape (c : Ctx) (n : BitVec 4) (v : Region) : (c.setQ n v).decantTape = c.decantTape := rfl
@[simp] theorem Ctx.setQ_decantDst (c : Ctx) (n : BitVec 4) (v : Region) : (c.setQ n v).decantDst = c.decantDst := rfl
@[simp] theorem Ctx.setQ_decantPv (c : Ctx) (n : BitVec 4) (v : Region) : (c.setQ n v).decantPv = c.decantPv := rfl
@[simp] theorem Ctx.setQ_queue (c : Ctx) (n : BitVec 4) (v : Region) : (c.setQ n v).queue = c.queue := rfl
@[simp] theorem Ctx.setQ_loads (c : Ctx) (n : BitVec 4) (v : Region) : (c.setQ n v).loads = c.loads := rfl

@[simp] theorem Ctx.setFmt_trap (c : Ctx) (n : BitVec 4) (v : BitVec 32) : (c.setFmt n v).trap = c.trap := rfl
@[simp] theorem Ctx.setFmt_sp (c : Ctx) (n : BitVec 4) (v : BitVec 32) : (c.setFmt n v).sp = c.sp := rfl
@[simp] theorem Ctx.setFmt_act (c : Ctx) (n : BitVec 4) (v : BitVec 32) : (c.setFmt n v).act = c.act := rfl
@[simp] theorem Ctx.setFmt_tiles (c : Ctx) (n : BitVec 4) (v : BitVec 32) : (c.setFmt n v).tiles = c.tiles := rfl
@[simp] theorem Ctx.setFmt_rackFault (c : Ctx) (n : BitVec 4) (v : BitVec 32) : (c.setFmt n v).rackFault = c.rackFault := rfl
@[simp] theorem Ctx.setFmt_pressFault (c : Ctx) (n : BitVec 4) (v : BitVec 32) : (c.setFmt n v).pressFault = c.pressFault := rfl
@[simp] theorem Ctx.setFmt_trelFault (c : Ctx) (n : BitVec 4) (v : BitVec 32) : (c.setFmt n v).trelFault = c.trelFault := rfl
@[simp] theorem Ctx.setFmt_cask (c : Ctx) (n : BitVec 4) (v : BitVec 32) : (c.setFmt n v).cask = c.cask := rfl
@[simp] theorem Ctx.setFmt_decantTape (c : Ctx) (n : BitVec 4) (v : BitVec 32) : (c.setFmt n v).decantTape = c.decantTape := rfl
@[simp] theorem Ctx.setFmt_decantDst (c : Ctx) (n : BitVec 4) (v : BitVec 32) : (c.setFmt n v).decantDst = c.decantDst := rfl
@[simp] theorem Ctx.setFmt_decantPv (c : Ctx) (n : BitVec 4) (v : BitVec 32) : (c.setFmt n v).decantPv = c.decantPv := rfl
@[simp] theorem Ctx.setFmt_queue (c : Ctx) (n : BitVec 4) (v : BitVec 32) : (c.setFmt n v).queue = c.queue := rfl
@[simp] theorem Ctx.setFmt_loads (c : Ctx) (n : BitVec 4) (v : BitVec 32) : (c.setFmt n v).loads = c.loads := rfl

@[simp] theorem Ctx.makeEmpty_trap (c : Ctx) (r : RegName) : (c.makeEmpty r).trap = c.trap := by
  cases r <;> simp only [Ctx.makeEmpty]
  split <;> rfl
@[simp] theorem Ctx.makeEmpty_sp (c : Ctx) (r : RegName) : (c.makeEmpty r).sp = c.sp := by
  cases r <;> simp only [Ctx.makeEmpty]
  split <;> rfl
@[simp] theorem Ctx.makeEmpty_act (c : Ctx) (r : RegName) : (c.makeEmpty r).act = c.act := by
  cases r <;> simp only [Ctx.makeEmpty]
  split <;> rfl
@[simp] theorem Ctx.makeEmpty_tiles (c : Ctx) (r : RegName) : (c.makeEmpty r).tiles = c.tiles := by
  cases r <;> simp only [Ctx.makeEmpty]
  split <;> rfl
@[simp] theorem Ctx.makeEmpty_rackFault (c : Ctx) (r : RegName) : (c.makeEmpty r).rackFault = c.rackFault := by
  cases r <;> simp only [Ctx.makeEmpty]
  split <;> rfl
@[simp] theorem Ctx.makeEmpty_pressFault (c : Ctx) (r : RegName) : (c.makeEmpty r).pressFault = c.pressFault := by
  cases r <;> simp only [Ctx.makeEmpty]
  split <;> rfl
@[simp] theorem Ctx.makeEmpty_trelFault (c : Ctx) (r : RegName) : (c.makeEmpty r).trelFault = c.trelFault := by
  cases r <;> simp only [Ctx.makeEmpty]
  split <;> rfl
@[simp] theorem Ctx.makeEmpty_cask (c : Ctx) (r : RegName) : (c.makeEmpty r).cask = c.cask := by
  cases r <;> simp only [Ctx.makeEmpty]
  split <;> rfl
@[simp] theorem Ctx.makeEmpty_decantTape (c : Ctx) (r : RegName) : (c.makeEmpty r).decantTape = c.decantTape := by
  cases r <;> simp only [Ctx.makeEmpty]
  split <;> rfl
@[simp] theorem Ctx.makeEmpty_decantDst (c : Ctx) (r : RegName) : (c.makeEmpty r).decantDst = c.decantDst := by
  cases r <;> simp only [Ctx.makeEmpty]
  split <;> rfl
@[simp] theorem Ctx.makeEmpty_decantPv (c : Ctx) (r : RegName) : (c.makeEmpty r).decantPv = c.decantPv := by
  cases r <;> simp only [Ctx.makeEmpty]
  split <;> rfl
@[simp] theorem Ctx.makeEmpty_queue (c : Ctx) (r : RegName) : (c.makeEmpty r).queue = c.queue := by
  cases r <;> simp only [Ctx.makeEmpty]
  split <;> rfl
@[simp] theorem Ctx.makeEmpty_loads (c : Ctx) (r : RegName) : (c.makeEmpty r).loads = c.loads := by
  cases r <;> simp only [Ctx.makeEmpty]
  split <;> rfl

@[simp] theorem Ctx.advance_trap (c : Ctx) : (c.advance).trap = c.trap := rfl
@[simp] theorem Ctx.advance_sp (c : Ctx) : (c.advance).sp = c.sp := rfl
@[simp] theorem Ctx.advance_act (c : Ctx) : (c.advance).act = c.act := rfl
@[simp] theorem Ctx.advance_tiles (c : Ctx) : (c.advance).tiles = c.tiles := rfl
@[simp] theorem Ctx.advance_rackFault (c : Ctx) : (c.advance).rackFault = c.rackFault := rfl
@[simp] theorem Ctx.advance_pressFault (c : Ctx) : (c.advance).pressFault = c.pressFault := rfl
@[simp] theorem Ctx.advance_trelFault (c : Ctx) : (c.advance).trelFault = c.trelFault := rfl
@[simp] theorem Ctx.advance_cask (c : Ctx) : (c.advance).cask = c.cask := rfl
@[simp] theorem Ctx.advance_decantTape (c : Ctx) : (c.advance).decantTape = c.decantTape := rfl
@[simp] theorem Ctx.advance_decantDst (c : Ctx) : (c.advance).decantDst = c.decantDst := rfl
@[simp] theorem Ctx.advance_decantPv (c : Ctx) : (c.advance).decantPv = c.decantPv := rfl
@[simp] theorem Ctx.advance_queue (c : Ctx) : (c.advance).queue = c.queue := rfl
@[simp] theorem Ctx.advance_loads (c : Ctx) : (c.advance).loads = c.loads := rfl
@[simp] theorem Ctx.advance_regs (c : Ctx) : (c.advance).regs = c.regs := rfl

@[simp] theorem Ctx.branchTo_trap (c : Ctx) (t : Addr) : (c.branchTo t).trap = c.trap := rfl
@[simp] theorem Ctx.branchTo_sp (c : Ctx) (t : Addr) : (c.branchTo t).sp = c.sp := rfl
@[simp] theorem Ctx.branchTo_act (c : Ctx) (t : Addr) : (c.branchTo t).act = c.act := rfl
@[simp] theorem Ctx.branchTo_tiles (c : Ctx) (t : Addr) : (c.branchTo t).tiles = c.tiles := rfl
@[simp] theorem Ctx.branchTo_rackFault (c : Ctx) (t : Addr) : (c.branchTo t).rackFault = c.rackFault := rfl
@[simp] theorem Ctx.branchTo_pressFault (c : Ctx) (t : Addr) : (c.branchTo t).pressFault = c.pressFault := rfl
@[simp] theorem Ctx.branchTo_trelFault (c : Ctx) (t : Addr) : (c.branchTo t).trelFault = c.trelFault := rfl
@[simp] theorem Ctx.branchTo_cask (c : Ctx) (t : Addr) : (c.branchTo t).cask = c.cask := rfl
@[simp] theorem Ctx.branchTo_decantTape (c : Ctx) (t : Addr) : (c.branchTo t).decantTape = c.decantTape := rfl
@[simp] theorem Ctx.branchTo_decantDst (c : Ctx) (t : Addr) : (c.branchTo t).decantDst = c.decantDst := rfl
@[simp] theorem Ctx.branchTo_decantPv (c : Ctx) (t : Addr) : (c.branchTo t).decantPv = c.decantPv := rfl
@[simp] theorem Ctx.branchTo_queue (c : Ctx) (t : Addr) : (c.branchTo t).queue = c.queue := rfl
@[simp] theorem Ctx.branchTo_loads (c : Ctx) (t : Addr) : (c.branchTo t).loads = c.loads := rfl
@[simp] theorem Ctx.branchTo_regs (c : Ctx) (t : Addr) : (c.branchTo t).regs = c.regs := rfl

end Sys2Proof.Machine
end

