-- ==== Sys2Proof/Laws/Issue.lean ====
section
/-! SUPPORT. The checks before an instruction's own effect, and what writing a register and stepping past an instruction do. -/

namespace Sys2Proof.Machine

/-- A context that no load keeps has no register busy. -/
theorem Ctx.busy_of_owed {c : Ctx} (h : c.owed = false) (r : RegName) : c.busy r = false := by
  simp only [Ctx.owed, List.any_eq_false] at h
  simp only [Ctx.busy, List.any_eq_false]
  intro l hl; simp [h l hl]

/-- Where no load keeps the slot, the checks alone decide. -/
theorem Needs.verdict_of_owed (n : Needs) (a : Agent) (c : Ctx) (h : c.owed = false) : n.verdict a c = n.checks a c := by
  have hb : n.names.any c.busy = false := by
    rw [List.any_eq_false]; intro r _; simp [Ctx.busy_of_owed h r]
  simp [Needs.verdict, hb, h]

/-- The checks of R70 pass exactly when the word may stand where it is, its privilege is there, and every register that it
names is full and not poisoned. -/
theorem Needs.verdict_go (n : Needs) (a : Agent) (c : Ctx) (ho : c.owed = false)
    (hp : (n.coreOk a && n.placeOk c.ctl && n.legal) = true) (hs : n.priv = false ∨ c.supervisor a = true)
    (hr : ∀ r ∈ n.srcs.map Prod.fst ++ n.dsts, c.isEmpty r = false ∧ c.isPoisoned r = false) :
    n.verdict a c = .go := by
  have h1 : n.names.find? c.isPoisoned = none := by
    rw [List.find?_eq_none]; intro r h; simp [(hr r h).2]
  have h2 : n.names.find? c.isEmpty = none := by
    rw [List.find?_eq_none]; intro r h; simp [(hr r h).1]
  have h3 : n.srcs.find? (fun r => r.2 && c.isEmpty r.1) = none := by
    rw [List.find?_eq_none]; intro r h
    have := hr r.1 (List.mem_append_left _ (List.mem_map_of_mem h))
    simp [this.1]
  have h4 : (n.priv && !c.supervisor a) = false := by
    rcases hs with h | h <;> simp [h]
  rw [Needs.verdict_of_owed n a c ho]
  simp only [Needs.checks, hp, h4, h1, h2, h3, Bool.not_true, Bool.false_eq_true, if_false]

/-- Where no load keeps the slot, an effect is not put behind one. -/
theorem State.behind_of_owed (s : State) (f : State → State) (h : s.me.owed = false) : s.behind f = f s := by
  simp [State.behind, h]

/-- An instruction that passes its checks has its own effect. -/
theorem State.issue_go (s : State) (n : Needs) (f : State → State) (ho : s.me.owed = false)
    (h : n.verdict s.cur s.me = .go) : s.issue n f = f s := by
  simp [State.issue, h, State.behind_of_owed s f ho]

/-- A running slot awaits nothing, so filling a register leaves its control as it is. -/
theorem Control.filled_running (k : Control) (r : RegName) (h : k.status = .running) : k.filled r = k := by
  simp [Control.filled, h]

/-- X[m] after a write of X[n]. -/
theorem Ctx.x_setX (c : Ctx) (n m : BitVec 5) (v : Word) : (c.setX n v).x m = if m = n ∧ n ≠ 0 then v else c.x m := by
  unfold Ctx.setX
  by_cases hn : n = 0
  · rw [if_pos hn]; simp [hn]
  · rw [if_neg hn]
    by_cases hm : m = n
    · subst hm
      simp only [Ctx.x, hn, ne_eq, not_false_eq_true, and_self, if_true]
      exact Vector.getElem_set_self ..
    · have hne : n.toNat ≠ m.toNat := fun e => hm (BitVec.eq_of_toNat_eq e.symm)
      simp only [hm, false_and, if_false, Ctx.x]
      by_cases h0 : m = 0
      · rw [if_pos h0, if_pos h0]
      · rw [if_neg h0, if_neg h0]; exact Vector.getElem_set_ne _ _ hne

/-- V[m] after a write of V[n]. -/
theorem Ctx.v_setV (c : Ctx) (n m : BitVec 5) (v : VReg) : (c.setV n v).v m = if m = n then v else c.v m := by
  by_cases hm : m = n
  · subst hm; simp [Ctx.setV, Ctx.v]
  · have hne : n.toNat ≠ m.toNat := fun e => hm (BitVec.eq_of_toNat_eq e.symm)
    simp [Ctx.setV, Ctx.v, hm, hne]

/-- P[m] after a write of P[n]; P0 is all ones. -/
theorem Ctx.p_setP (c : Ctx) (n m : BitVec 3) (v : Word) : (c.setP n v).p m = if m = n ∧ n ≠ 0 then v else c.p m := by
  unfold Ctx.setP
  by_cases hn : n = 0
  · rw [if_pos hn]; simp [hn]
  · rw [if_neg hn]
    by_cases hm : m = n
    · subst hm
      simp only [Ctx.p, hn, ne_eq, not_false_eq_true, and_self, if_true]
      exact Vector.getElem_set_self ..
    · have hne : n.toNat ≠ m.toNat := fun e => hm (BitVec.eq_of_toNat_eq e.symm)
      simp only [hm, false_and, if_false, Ctx.p]
      by_cases h0 : m = 0
      · rw [if_pos h0, if_pos h0]
      · rw [if_neg h0, if_neg h0]; exact Vector.getElem_set_ne _ _ hne

/-- Q[m] after a write of Q[n]. -/
theorem Ctx.q_setQ (c : Ctx) (n m : BitVec 4) (v : Region) : (c.setQ n v).q m = if m = n then v else c.q m := by
  by_cases hm : m = n
  · subst hm; simp [Ctx.setQ, Ctx.q]
  · have hne : n.toNat ≠ m.toNat := fun e => hm (BitVec.eq_of_toNat_eq e.symm)
    simp [Ctx.setQ, Ctx.q, hm, hne]

/-- FMT[m] after a write of FMT[n]. -/
theorem Ctx.fmt_setFmt (c : Ctx) (n m : BitVec 4) (v : BitVec 32) : (c.setFmt n v).fmt m = if m = n then v else c.fmt m := by
  by_cases hm : m = n
  · subst hm; simp [Ctx.setFmt, Ctx.fmt]
  · have hne : n.toNat ≠ m.toNat := fun e => hm (BitVec.eq_of_toNat_eq e.symm)
    simp [Ctx.setFmt, Ctx.fmt, hm, hne]

/-- One bit of a mask changed. -/
theorem getLsbD_setBit (m : BitVec 32) (n : BitVec 5) (b : Bool) (i : Nat) (hi : i < 32) :
    (setBit m n b).getLsbD i = if i = n.toNat then b else m.getLsbD i := by
  have hn := n.isLt
  have key : (1#32 <<< n.toNat).getLsbD i = decide (i = n.toNat) := by
    rw [BitVec.getLsbD_shiftLeft]
    by_cases h : i = n.toNat
    · subst h; simp [hi]
    · by_cases h2 : i < n.toNat
      · simp [h, h2]
      · have : i - n.toNat ≠ 0 := by omega
        simp [h, h2, this]
  cases b
  · have e : setBit m n false = m &&& ~~~(1#32 <<< n.toNat) := rfl
    rw [e, BitVec.getLsbD_and, BitVec.getLsbD_not, key]
    by_cases h : i = n.toNat <;> simp [h, hi]
  · have e : setBit m n true = m ||| (1#32 <<< n.toNat) := rfl
    rw [e, BitVec.getLsbD_or, key]
    by_cases h : i = n.toNat <;> simp [h]

/-- Which registers are empty after a write of X[n]. -/
theorem Ctx.isEmpty_setX (c : Ctx) (n : BitVec 5) (v : Word) (r : RegName) :
    (c.setX n v).isEmpty r = (c.isEmpty r && decide (r ≠ .x n)) := by
  unfold Ctx.setX
  by_cases hn : n = 0
  · rw [if_pos hn]; subst hn
    cases r with
    | x m =>
      by_cases hm : m = 0
      · subst hm; simp [Ctx.isEmpty]
      · have : RegName.x m ≠ RegName.x 0 := fun e => hm (RegName.x.inj e)
        simp only [this, ne_eq, not_false_eq_true, decide_true, Bool.and_true]
    | v m => simp [Ctx.isEmpty]
  · rw [if_neg hn]
    cases r with
    | x m =>
      have hm := m.isLt
      simp only [Ctx.isEmpty, getLsbD_setBit _ _ _ _ (by omega : m.toNat < 32)]
      by_cases h : m = n
      · subst h; simp
      · have hne : m.toNat ≠ n.toNat := fun e => h (BitVec.eq_of_toNat_eq e)
        simp [h, hne]
    | v m => simp [Ctx.isEmpty]

/-- Which registers are empty after a write of V[n]. -/
theorem Ctx.isEmpty_setV (c : Ctx) (n : BitVec 5) (v : VReg) (r : RegName) :
    (c.setV n v).isEmpty r = (c.isEmpty r && decide (r ≠ .v n)) := by
  cases r with
  | x m => simp [Ctx.setV, Ctx.isEmpty]
  | v m =>
    have hm := m.isLt
    by_cases h : m = n
    · subst h; simp [Ctx.setV, Ctx.isEmpty, getLsbD_setBit _ _ _ _ (by omega : m.toNat < 32)]
    · have hne : m.toNat ≠ n.toNat := fun e => h (BitVec.eq_of_toNat_eq e)
      simp [Ctx.setV, Ctx.isEmpty, h, hne, getLsbD_setBit _ _ _ _ (by omega : m.toNat < 32)]

/-- The context of the issuing agent past an instruction, and what stands as it was. -/
theorem State.finish_spec (s : State) (f : Ctx → Ctx) :
    (s.finish f).ctx s.cur = (f (s.ctx s.cur)).advance ∧ (∀ b, b ≠ s.cur → (s.finish f).ctx b = s.ctx b)
      ∧ { s.finish f with ctxs := s.ctxs } = s := by
  refine ⟨by simp [State.finish], fun b h => by simp [State.finish, h], rfl⟩

/-- A change of contexts alone changes no byte. -/
theorem State.readLoc_onCtx (s : State) (a : Agent) (f : Ctx → Ctx) (p : Loc) : (s.onCtx a f).readLoc p = s.readLoc p := by
  cases p <;> rfl

end Sys2Proof.Machine
end

