-- ==== Sys2Proof/Laws/Memory.lean ====
section
/-! SUPPORT. Byte memory: a read after a write, and the canonical form that every memory operation keeps. -/

namespace Sys2Proof.Machine

theorem Memory.read_below {m : Memory} {lo a : Nat} (h : Memory.risesFrom lo m = true) (ha : a < lo) :
    m.read a = unlistedByte := by
  cases m with
  | nil => rfl
  | cons e m =>
    obtain ⟨b, v⟩ := e
    simp [Memory.risesFrom] at h
    have hb : b ≠ a := by omega
    have hl : a < b := by omega
    simp [Memory.read, hb, hl]

/-- A read after a write: the byte written at its own address, the byte from before at every other. -/
theorem Memory.read_write {m : Memory} {lo : Nat} (h : Memory.risesFrom lo m = true) (a x : Nat) (v : Byte) :
    (m.write a v).read x = if x = a then v else m.read x := by
  induction m generalizing lo with
  | nil =>
    by_cases hv : v = unlistedByte
    · simp [Memory.write, Memory.read, hv]
    · by_cases hx : x = a
      · subst hx; simp [Memory.write, Memory.read, hv]
      · have : a ≠ x := fun e => hx e.symm
        simp [Memory.write, Memory.read, hv, hx, this]
  | cons e m ih =>
    obtain ⟨b, w⟩ := e
    have hr := h
    simp only [Memory.risesFrom, Bool.and_eq_true, decide_eq_true_eq] at hr
    obtain ⟨⟨_, hw⟩, hm⟩ := hr
    have hbelow : ∀ y, y ≤ b → Memory.read m y = unlistedByte := fun y hy => Memory.read_below hm (by omega)
    by_cases hab : a < b
    · by_cases hv : v = unlistedByte
      · by_cases hx : x = a
        · subst hx; have : b ≠ x := by omega
          simp [Memory.write, Memory.read, hab, hv, this]
        · simp [Memory.write, hab, hv, hx]
      · by_cases hx : x = a
        · subst hx; simp [Memory.write, Memory.read, hab, hv]
        · by_cases hxa : x < a
          · have h1 : a ≠ x := by omega
            have h2 : b ≠ x := by omega
            have h3 : x < b := by omega
            simp [Memory.write, Memory.read, hab, hv, hx, h1, h2, h3, hxa]
          · have h1 : a ≠ x := fun e => hx e.symm
            simp [Memory.write, Memory.read, hab, hv, hx, h1, hxa]
    · by_cases hba : b = a
      · subst hba
        by_cases hv : v = unlistedByte
        · by_cases hx : x = b
          · subst hx; simp [Memory.write, hv, hbelow x (Nat.le_refl x)]
          · by_cases hl : x < b
            · have h1 : b ≠ x := fun e => hx e.symm
              simp [Memory.write, Memory.read, hv, hx, h1, hl, hbelow x (by omega)]
            · have h1 : b ≠ x := fun e => hx e.symm
              simp [Memory.write, Memory.read, hv, hx, h1, hl]
        · by_cases hx : x = b
          · subst hx; simp [Memory.write, Memory.read, hv]
          · have h1 : b ≠ x := fun e => hx e.symm
            simp [Memory.write, Memory.read, hv, hx, h1]
      · have e := ih hm
        by_cases hxb : b = x
        · subst hxb
          have hxa : b ≠ a := hba
          simp [Memory.write, Memory.read, hab, hba]
        · by_cases hl : x < b
          · have hxa : x ≠ a := by omega
            simp [Memory.write, Memory.read, hab, hba, hxb, hl, hxa]
          · simp [Memory.write, Memory.read, hab, hba, hxb, hl, e]

theorem Memory.rises_mono {m : Memory} {lo lo' : Nat} (h : Memory.risesFrom lo m = true) (hl : lo' ≤ lo) :
    Memory.risesFrom lo' m = true := by
  cases m with
  | nil => rfl
  | cons e m =>
    obtain ⟨b, v⟩ := e
    simp only [Memory.risesFrom, Bool.and_eq_true, decide_eq_true_eq] at h ⊢
    exact ⟨⟨by omega, h.1.2⟩, h.2⟩

theorem Memory.rises_write {m : Memory} {lo : Nat} (h : Memory.risesFrom lo m = true) (a : Nat) (v : Byte) (ha : lo ≤ a) :
    Memory.risesFrom lo (m.write a v) = true := by
  induction m generalizing lo with
  | nil =>
    by_cases hv : v = unlistedByte <;> simp [Memory.write, Memory.risesFrom, hv, ha]
  | cons e m ih =>
    obtain ⟨b, w⟩ := e
    have hr := h
    simp only [Memory.risesFrom, Bool.and_eq_true, decide_eq_true_eq] at hr
    obtain ⟨⟨hlb, hw⟩, hm⟩ := hr
    by_cases hab : a < b
    · by_cases hv : v = unlistedByte
      · simpa [Memory.write, hab, hv] using h
      · have : a + 1 ≤ b := by omega
        simp [Memory.write, Memory.risesFrom, hab, hv, ha, this, hw, hm]
    · by_cases hba : b = a
      · subst hba
        by_cases hv : v = unlistedByte
        · simpa [Memory.write, hv] using Memory.rises_mono hm (by omega)
        · simp [Memory.write, Memory.risesFrom, hv, ha, hm]
      · have := ih hm (by omega : b + 1 ≤ a)
        simp [Memory.write, Memory.risesFrom, hab, hba, hlb, hw, this]

/-- A write keeps the canonical form. -/
theorem Memory.wf_write {m : Memory} (h : m.wf = true) (a : Nat) (v : Byte) : (m.write a v).wf = true :=
  Memory.rises_write h a v (Nat.zero_le a)

/-- A write of bytes keeps the canonical form. -/
theorem Memory.wf_writeL {m : Memory} (h : m.wf = true) (a : Nat) (bs : List Byte) : (m.writeL a bs).wf = true := by
  induction bs generalizing m a with
  | nil => exact h
  | cons b bs ih => exact ih (Memory.wf_write h a b) (a + 1)

/-- A read after a write of bytes: the byte written inside them, the byte from before outside. -/
theorem Memory.read_writeL {m : Memory} (h : m.wf = true) (a x : Nat) (bs : List Byte) :
    (m.writeL a bs).read x = if a ≤ x ∧ x < a + bs.length then bs[x - a]?.getD 0 else m.read x := by
  induction bs generalizing m a with
  | nil => simp [Memory.writeL] <;> omega
  | cons b bs ih =>
    rw [Memory.writeL, ih (Memory.wf_write h a b) (a + 1), Memory.read_write h]
    by_cases h1 : x = a
    · subst h1
      have h2 : ¬ (x + 1 ≤ x ∧ x < x + 1 + bs.length) := by omega
      have h3 : x ≤ x ∧ x < x + (b :: bs).length := by simp
      rw [if_neg h2, if_pos h3, if_pos rfl]; simp
    · by_cases h2 : a + 1 ≤ x ∧ x < a + 1 + bs.length
      · have h3 : a ≤ x ∧ x < a + (b :: bs).length := by simp only [List.length_cons]; omega
        have h4 : x - a = (x - (a + 1)) + 1 := by omega
        rw [if_pos h2, if_pos h3, h4]; simp
      · have h3 : ¬ (a ≤ x ∧ x < a + (b :: bs).length) := by simp only [List.length_cons]; omega
        rw [if_neg h2, if_neg h3, if_neg h1]

/-- Bytes read back as they were written. -/
theorem Memory.readN_writeL {m : Memory} (h : m.wf = true) (a : Nat) (bs : List Byte) :
    (m.writeL a bs).readN a bs.length = bs := by
  have key : ∀ (n k : Nat), k + n = bs.length → (m.writeL a bs).readN (a + k) n = bs.drop k := by
    intro n
    induction n with
    | zero => intro k hk; simp [Memory.readN, List.drop_eq_nil_of_le (by omega : bs.length ≤ k)]
    | succ n ih =>
      intro k hk
      have hlt : k < bs.length := by omega
      rw [Memory.readN, Memory.read_writeL h]
      have hin : a ≤ a + k ∧ a + k < a + bs.length := by omega
      rw [if_pos hin, show a + k + 1 = a + (k + 1) by omega, ih (k + 1) (by omega)]
      rw [show a + k - a = k by omega, List.drop_eq_getElem_cons hlt]
      simp [List.getElem?_eq_getElem hlt]
  simpa using key bs.length 0 (by omega)

/-- The slice of a core after a store to it. -/
@[simp] theorem Core.slice_sliceStore (c : Core) (off : Nat) (bs : List Byte) :
    (c.sliceStore off bs).slice = c.slice.writeL off bs := rfl

/-- A store to a slice keeps its canonical form. -/
theorem Core.wf_sliceStore {c : Core} (h : c.slice.wf = true) (off : Nat) (bs : List Byte) :
    (c.sliceStore off bs).slice.wf = true :=
  Memory.wf_writeL h off bs

/-- The memory at reset has the canonical form. -/
theorem State.reset_mem_wf : State.reset.mem.wf = true := rfl

end Sys2Proof.Machine
end

