-- ==== Sys2Proof/Laws/Access.lean ====
section
/-! SUPPORT. What the shared steps of memory accesses do: footprints, reads of the own slice and of memory, the making of
entries and of load records, and translated accesses. -/

namespace Sys2Proof.Machine

/-! ### Lists of numbers -/

/-- What `upFrom` holds. -/
theorem mem_upFrom (lo n i : Nat) : i ∈ upFrom lo n ↔ lo ≤ i ∧ i < lo + n := by
  induction n generalizing lo with
  | zero => simp [upFrom]
  | succ n ih => simp only [upFrom, List.mem_cons, ih]; omega

/-- The bytes of a run, one by one. -/
theorem Memory.readN_eq_map (m : Memory) (a k n : Nat) : (upFrom k n).map (fun i => m.read (a + i)) = m.readN (a + k) n := by
  induction n generalizing k with
  | zero => rfl
  | succ n ih => simp only [upFrom, List.map_cons, Memory.readN, ih]; rfl

/-! ### Footprints (R31) -/

/-- The search for a byte outside boxes answers one, or there is none. -/
theorem outsideFrom_none (boxes : List (Nat × Nat)) (e : Nat) :
    ∀ fuel p (l : List (Nat × Nat)), l ⊆ boxes → l.Nodup → l.length < fuel →
      (∀ x ∈ boxes, x ∉ l → x.2 ≤ p ∨ x.2 ≤ x.1) →
      (∀ o, p ≤ o → o < e → ∃ x ∈ boxes, x.1 ≤ o ∧ o < x.2) → outsideFrom boxes e fuel p = none := by
  intro fuel
  induction fuel with
  | zero => intro p l _ _ h; omega
  | succ fuel ih =>
    intro p l hl hd hlen hout hin
    simp only [outsideFrom]
    by_cases hp : e ≤ p
    · simp [hp]
    · rw [if_neg hp]
      obtain ⟨x, hx, hx1, hx2⟩ := hin p (le_refl _) (by omega)
      cases hf : boxes.find? (fun b => decide (b.1 ≤ p) && decide (p < b.2)) with
      | none =>
        rw [List.find?_eq_none] at hf
        have := hf x hx
        simp [hx1, hx2] at this
      | some y =>
        have hy := List.find?_some hf
        have hym := List.mem_of_find?_eq_some hf
        simp only [Bool.and_eq_true, decide_eq_true_eq] at hy
        have hyl : y ∈ l := by
          by_contra hc
          rcases hout y hym hc with h | h <;> omega
        refine ih y.2 (l.erase y) (fun z hz => hl (List.mem_of_mem_erase hz)) (hd.erase y) ?_ ?_ ?_
        · rw [List.length_erase_of_mem hyl]; have := List.length_pos_of_mem hyl; omega
        · intro z hz hzn
          by_cases hzy : z = y
          · subst hzy; left; exact le_refl _
          · have : z ∉ l := fun hc => hzn ((List.mem_erase_of_ne hzy).2 hc)
            rcases hout z hz this with h | h
            · left; omega
            · right; exact h
        · intro o ho1 ho2; exact hin o (by omega) ho2

/-- A run whose every byte lies in a box passes its footprint check. -/
theorem footprintCheck_within (boxes : List (Nat × Nat)) (role off n : Nat)
    (h : ∀ o, off ≤ o → o < off + n → ∃ x ∈ boxes, x.1 ≤ o ∧ o < x.2) : footprintCheck boxes role off n = none := by
  have hle : boxes.dedup.length ≤ boxes.length := (List.dedup_sublist boxes).length_le
  have : firstOutside boxes off n = none := by
    refine outsideFrom_none boxes (off + n) _ off boxes.dedup (fun z hz => List.mem_dedup.1 hz) (List.nodup_dedup _)
      (by omega) (fun x hx hn => absurd (List.mem_dedup.2 hx) hn) h
  simp [footprintCheck, this]

/-! ### Reads (R174, R276) -/

/-- A slice offset whose word is not poisoned. -/
theorem Core.slicePoison_one (c : Core) (off : Nat) (h : off / 8 ∉ c.poisonWords) : c.slicePoison off 1 = none := by
  simp [Core.slicePoison, wordsOf, upFrom, h]

/-- A load that no earlier store of its slot touches answers the bytes of the home. -/
theorem State.loadBytes_home (s : State) (loc : Loc) (va n : Nat) (h : ∀ i, i < n → s.poisonAt (loc.add i) 1 = none) :
    s.loadBytes [] [] loc va n = .inl ((upFrom 0 n).map fun i => (s.readLoc (loc.add i)).getD 0) := by
  have : (List.map (fun i => (i, s.loadByte [] [] (loc.add i) (va + i))) (upFrom 0 n)).find?
      (fun g => g.2.2 && (s.poisonAt (loc.add g.1) 1).isSome) = none := by
    rw [List.find?_eq_none]
    intro g hg
    obtain ⟨i, hi, rfl⟩ := List.mem_map.1 hg
    have hi' := (mem_upFrom 0 n i).1 hi
    simp [h i (by omega)]
  simp only [State.loadBytes, this]
  simp [State.loadByte, Function.comp]

/-- A read of the own slice by a slot with no entry. -/
theorem State.readOwn_empty (s : State) (core n off len : Nat) (b : Binding) (rel : Bool) (hc : s.cur = .slot core n)
    (hb : (s.core core).binding = some b) (hr : s.coreOf? b.launch b.role = some core) (hq : (s.ctx s.cur).queue = [])
    (hp : ∀ o, off ≤ o → o < off + len → o / 8 ∉ (s.core core).poisonWords) :
    s.readOwn s.cur off len rel = .bytes ((s.core core).slice.readN off len) := by
  have hl : s.launchOf s.cur = b.launch := by rw [hc]; simp [State.launchOf, State.binding, hb]
  have hm : s.myRole s.cur = b.role := by rw [hc]; simp [State.myRole, State.binding, hb]
  have := s.loadBytes_home (s.ownLoc s.cur off) off len (by
    intro i hi
    simp only [State.ownLoc, Loc.add, State.poisonAt, hl, hm, hr, Core.slicePoison_one _ _ (hp (off + i) (by omega) (by omega)),
      Option.map_none])
  simp only [State.readOwn, hq, List.all_nil, if_true, this]
  simp only [State.ownLoc, Loc.add, State.readLoc, hl, hm, hr, Option.map_some, Option.getD_some]
  rw [Memory.readN_eq_map]; rfl

/-! ### Entries -/

/-- An entry made, and the step past the instruction: what changes, and what stands. -/
theorem State.finish_enqueue (s : State) (mk : Nat → Entry) (f : Ctx → Ctx) :
    ((s.enqueue s.cur mk).finish f).ctx s.cur = (f { s.ctx s.cur with queue := (s.ctx s.cur).queue ++ [mk s.nextId] }).advance
      ∧ (∀ b, b ≠ s.cur → ((s.enqueue s.cur mk).finish f).ctx b = s.ctx b)
      ∧ { (s.enqueue s.cur mk).finish f with ctxs := s.ctxs, nextId := s.nextId } = s
      ∧ ∀ p, ((s.enqueue s.cur mk).finish f).readLoc p = s.readLoc p := by
  refine ⟨?_, fun b h => ?_, rfl, fun p => by cases p <;> rfl⟩
  · simp [State.finish, State.enqueue, State.onCtx, State.ctx]
  · simp [State.finish, State.enqueue, State.onCtx, State.ctx, h]

/-- A load of one part made: its record and its entry, and the step past the instruction. -/
theorem State.finish_loadPart (s : State) (acq rel : Bool) (nib : Option Bool) (dst : LoadDst) (own : Option Control) (p : Part)
    (f : Ctx → Ctx) :
    ((s.loadParts s.cur acq rel nib dst own [p]).finish f).ctx s.cur
        = (f { s.ctx s.cur with
            queue := (s.ctx s.cur).queue ++ [⟨s.nextId + 1, acq && p.page != .un, rel && p.page != .un, p.page, p.va,
              .load s.nextId p.loc p.n (s.ctx s.cur).act.buffer.length, none, p.tlb⟩]
            loads := (s.ctx s.cur).loads
              ++ [⟨s.nextId, dst, [(s.nextId + 1, none)], nib, none, p.page == .so, own, none⟩] }).advance
      ∧ (∀ b, b ≠ s.cur → ((s.loadParts s.cur acq rel nib dst own [p]).finish f).ctx b = s.ctx b)
      ∧ { (s.loadParts s.cur acq rel nib dst own [p]).finish f with ctxs := s.ctxs, nextId := s.nextId } = s
      ∧ ∀ q, ((s.loadParts s.cur acq rel nib dst own [p]).finish f).readLoc q = s.readLoc q := by
  refine ⟨?_, fun b h => ?_, rfl, fun p => by cases p <;> rfl⟩
  · simp [State.finish, State.loadParts, State.openParts, State.openLoad, State.enqueue, State.onCtx, State.ctx, upFrom]
  · simp [State.finish, State.loadParts, State.openParts, State.openLoad, State.enqueue, State.onCtx, State.ctx, upFrom, h]

/-! ### Accesses in one page (R173) -/

/-- The one run of an access within a page. -/
theorem runsOf_one (va n : Nat) (hn : 0 < n) (h : va / 2 ^ 16 = (va + n - 1) / 2 ^ 16) : runsOf va n = [(va, n)] := by
  have h0 : n ≠ 0 := by omega
  have hp : pagesOf va n = [va / 2 ^ 16] := by
    simp only [pagesOf, h0, if_false, ← h]
    rw [show va / 2 ^ 16 + 1 - va / 2 ^ 16 = 1 by omega]; rfl
  simp only [runsOf, hp, List.map_cons, List.map_nil]
  have h1 := Nat.div_mul_le_self va (2 ^ 16)
  have h2 : va + n ≤ va / 2 ^ 16 * 2 ^ 16 + 2 ^ 16 := by omega
  rw [Nat.max_eq_left h1, Nat.min_eq_left h2]; congr 2; omega

/-- A translated access in one page, with no earlier SO access in its way. -/
theorem State.withParts_one (s : State) (a : Agent) (va n : Nat) (kind : AccessKind) (loc : Loc) (page : PageKind)
    (ent : Word × Word) (k : List Part → State) (hva : va < 2 ^ 56) (hn : 0 < n) (hp : va / 2 ^ 16 = (va + n - 1) / 2 ^ 16)
    (hx : s.xlate a (s.asidOf (coreNo a)) va kind = .hit loc page ent) (hso : page = .so → s.soPending a = false)
    (hc : page ≠ .cellar) :
    s.withParts a va n kind k = k [⟨va, n, loc, page, ent⟩] ∧ kindOf [⟨va, n, loc, page, ent⟩] = page := by
  have hk : kindOf [⟨va, n, loc, page, ent⟩] = page := by cases page <;> simp_all [kindOf, strongest]
  have hpt : s.partsOf a (s.asidOf (coreNo a)) va n kind = .ok [⟨va, n, loc, page, ent⟩] := by
    simp [State.partsOf, runsOf_one va n hn hp, State.partsOf.go, hx, joinParts]
  refine ⟨?_, hk⟩
  have : ¬ (page = .so ∧ s.soPending a = true) := fun ⟨e, e2⟩ => by simp [hso e] at e2
  simp only [State.withParts, if_neg (by omega : ¬ 2 ^ 56 ≤ va), hpt, hk, if_neg this]

/-- What counting an access through a translation leaves as it was. -/
theorem State.useEntry_spec (s : State) (core : Option Nat) (cluster : Nat) (e : Word × Word) (m : MissWait) :
    { s.useEntry core cluster e m with cores := s.cores, clusters := s.clusters } = s
      ∧ (∀ n, { (s.useEntry core cluster e m).core n with utlb := (s.core n).utlb } = s.core n)
      ∧ ∀ k, { (s.useEntry core cluster e m).cluster k with
          tlb := (s.cluster k).tlb, missWaits := (s.cluster k).missWaits } = s.cluster k := by
  have h1 : ∀ (n : Nat) (f : Core → Core), (∀ k : Core, { f k with utlb := k.utlb } = k) →
      ∀ m, { (s.onCore n f).core m with utlb := (s.core m).utlb } = s.core m := by
    intro n f hf m
    by_cases h : m = n
    · subst h; simp [hf]
    · simp [h]
  have h2 : ∀ (s : State) (n : Nat) (f : Cluster → Cluster),
      (∀ k : Cluster, { f k with tlb := k.tlb, missWaits := k.missWaits } = k) →
      ∀ m, { (s.onCluster n f).cluster m with tlb := (s.cluster m).tlb, missWaits := (s.cluster m).missWaits } = s.cluster m := by
    intro s n f hf m
    by_cases h : m = n
    · subst h; simp [hf]
    · simp [h]
  have h3 : ∀ (s u : State) (n : Nat) (f : Cluster → Cluster),
      (∀ k : Cluster, { f k with tlb := k.tlb, missWaits := k.missWaits } = k) →
      (∀ m, { s.cluster m with tlb := (u.cluster m).tlb, missWaits := (u.cluster m).missWaits } = u.cluster m) →
      ∀ m, { (s.onCluster n f).cluster m with tlb := (u.cluster m).tlb, missWaits := (u.cluster m).missWaits } = u.cluster m := by
    intro s u n f hf hu m
    have a := h2 s n f hf m
    have b := hu m
    generalize (s.onCluster n f).cluster m = x at a
    generalize s.cluster m = y at a b
    generalize u.cluster m = z at b
    rw [← b]; rw [← a]
  unfold State.useEntry
  cases core with
  | none =>
    dsimp only
    split
    · exact ⟨rfl, fun _ => rfl, fun _ => rfl⟩
    · split
      · exact ⟨rfl, fun _ => rfl, h3 _ _ _ _ (fun _ => rfl) (h2 _ _ _ (fun _ => rfl))⟩
      · exact ⟨rfl, fun _ => rfl, h2 _ _ _ (fun _ => rfl)⟩
  | some n =>
    dsimp only
    have hu : ∀ k : Core, { (if k.utlb.contains e then k else { k with utlb := e :: roomIn 48 s.now id k.utlb }) with utlb := k.utlb } = k := by
      intro k; split <;> rfl
    split
    · exact ⟨rfl, h1 n _ hu, fun _ => rfl⟩
    · split
      · exact ⟨rfl, h1 n _ hu, h3 _ s _ _ (fun _ => rfl) (h3 _ s _ _ (fun _ => rfl) (fun _ => rfl))⟩
      · exact ⟨rfl, h1 n _ hu, h3 _ s _ _ (fun _ => rfl) (fun _ => rfl)⟩

/-- The byte at a place depends on groups, slices and memories alone. -/
theorem State.readLoc_congr (s t : State) (hg : t.groups = s.groups) (hm : t.mem = s.mem) (hp : t.peers = s.peers)
    (hc : ∀ n, (t.core n).slice = (s.core n).slice) (p : Loc) : t.readLoc p = s.readLoc p := by
  cases p <;> simp [State.readLoc, State.coreOf?, State.peer, hg, hm, hp, hc]

/-- A translated access changes no byte. -/
theorem State.readLoc_useEntry (s : State) (core : Option Nat) (cluster : Nat) (e : Word × Word) (m : MissWait) (p : Loc) :
    (s.useEntry core cluster e m).readLoc p = s.readLoc p := by
  obtain ⟨h1, h2, -⟩ := s.useEntry_spec core cluster e m
  refine State.readLoc_congr s (s.useEntry core cluster e m) (congrArg State.groups h1 :) (congrArg State.mem h1 :)
    (congrArg State.peers h1 :) (fun n => ?_) p
  have := congrArg Core.slice (h2 n)
  exact this

end Sys2Proof.Machine
end

