-- ==== Sys2Proof/Safety.lean ====
section
/-! DEFINITION. What a run of the device is, and when a run is safe. -/

namespace Sys2Proof.Machine

/-- `t` is reached from `s` by steps that each answer a next state. -/
inductive Reaches (s : State) : State → Prop where
  | here : Reaches s s
  | next {t u : State} (r : Reaches s t) (h : step t = .next u) : Reaches s u

/-- A run from `s` never stops: every state that it reaches has a next one.  A device stops only when its board controller has
taken its power away (R421), and nothing of the model refuses. -/
def SafeFrom (s : State) : Prop :=
  ∀ t, Reaches s t → ∃ u, step t = .next u

/-- A property of states that every step keeps. -/
def KeptByStep (inv : State → Prop) : Prop :=
  ∀ s t, inv s → step s = .next t → inv t

end Sys2Proof.Machine
end

