-- ==== Sys2Proof/Laws/Run.lean ====
section
/-! SUPPORT. What every step keeps holds of every state that a run reaches. -/

namespace Sys2Proof.Machine

/-- The induction over a run, once. -/
theorem Reaches.keeps {inv : State → Prop} (k : KeptByStep inv) {s t : State} (r : Reaches s t) (h : inv s) : inv t := by
  induction r with
  | here => exact h
  | next _ e ih => exact k _ _ ih e

/-- Runs follow one another. -/
theorem Reaches.trans {s t u : State} (a : Reaches s t) (b : Reaches t u) : Reaches s u := by
  induction b with
  | here => exact a
  | next _ e ih => exact .next ih e

/-- A device without power makes no step but POWER_ON (R417, R421). -/
theorem step_noPower (s : State) (h : s.board.powered = false) (a : ∀ inp rest, s.agenda ≠ .take (.powerOn inp) :: rest) :
    step s = .fault .noPower := by
  simp only [step, h, Bool.not_false, if_true]

/-- POWER_ON at the head of the agenda of a device without power (R417). -/
theorem step_powerOn (s : State) (inp : BootInput) (rest : List Move) (h : s.board.powered = false)
    (a : s.agenda = .take (.powerOn inp) :: rest) : step s = exec (.powerOn inp) { s with agenda := rest } := by
  simp [step, h, a]

/-- A device with power takes the head of its agenda. -/
theorem step_agenda (s : State) (m : Move) (rest : List Move) (h : s.board.powered = true) (a : s.agenda = m :: rest) :
    step s = moveStep m { s with agenda := rest } := by
  simp [step, h, a]

/-- An event at the head of the agenda is exec of it. -/
theorem step_take (s : State) (e : Instr) (rest : List Move) (h : s.board.powered = true) (a : s.agenda = .take e :: rest) :
    step s = exec e { s with agenda := rest } := by
  rw [step_agenda s _ _ h a]; rfl

/-- An agent that may not issue leaves the state as it is. -/
theorem issueStep_idle (a : Agent) (s : State) (h : (s.ctx a).ctl.canIssue = false) : issueStep a s = .next s := by
  simp [issueStep, h]

/-- An agent whose turn it is not leaves the state as it is (R29). -/
theorem issueStep_outOfTurn (a : Agent) (s : State) (h : s.inTurn a = false) : issueStep a s = .next s := by
  simp [issueStep, h]

end Sys2Proof.Machine
end

