-- ==== Sys2Proof/Laws/Scalar.lean ====
section
/-! SUPPORT. The bit functions of the scalar instructions agree with the library's (Tables 5-4 and 5-5). -/

namespace Sys2Proof.Machine

/-- The low 32 bits. -/
theorem low32_eq (x : Word) : low32 x = x.setWidth 32 := by
  ext i hi; simp [low32, BitVec.getElem_setWidth]

/-- A .W result is the low 32 bits, sign-extended. -/
theorem sextW_eq (x : Word) : sextW x = (x.setWidth 32).signExtend 64 := by
  rw [sextW, show x.extractLsb' 0 32 = x.setWidth 32 from low32_eq x]

/-- A rotation right. -/
theorem rotr_eq (x : Word) (n : Nat) : rotr x n = x.rotateRight (n % 64) := by
  rw [rotr, BitVec.rotateRight_def, Nat.mod_mod]
  by_cases h : n % 64 = 0
  · simp [h]
  · have : (64 - n % 64) % 64 = 64 - n % 64 := Nat.mod_eq_of_lt (by omega)
    rw [this]

/-- The leading zeros. -/
theorem leadingZeros_eq (x : Word) : toWord (leadingZeros x) = x.clz := by
  apply BitVec.eq_of_toNat_eq
  by_cases h : x = 0
  · subst h; decide
  · have h0 : x ≠ 0#64 := h
    have hn : x.toNat ≠ 0 := fun e => h (BitVec.eq_of_toNat_eq (by simpa using e))
    have h1 : x.toNat < 2 ^ (64 - x.clz.toNat) := BitVec.toNat_lt_two_pow_sub_clz
    have h2 : 2 ^ (64 - 1 - x.clz.toNat) ≤ x.toNat := BitVec.two_pow_sub_clz_le_toNat_of_ne_zero (by omega) h0
    have h3 : x.clz < 64#64 := (BitVec.clz_lt_iff_ne_zero).2 h0
    have h4 : x.clz.toNat < 64 := by simpa [BitVec.lt_def] using h3
    have h5 : x.toNat.log2 = 64 - x.clz.toNat - 1 := by
      rw [Nat.log2_eq_iff hn]; exact ⟨by rwa [show 64 - x.clz.toNat - 1 = 64 - 1 - x.clz.toNat by omega], by rwa [show 64 - x.clz.toNat - 1 + 1 = 64 - x.clz.toNat by omega]⟩
    simp only [toWord, leadingZeros, if_neg h, h5, BitVec.toNat_ofNat]
    rw [Nat.mod_eq_of_lt (by omega)]; omega

theorem trailingZeros_spec (fuel n t : Nat) (ht : t < fuel) (hz : ∀ i, i < t → n.testBit i = false)
    (ho : n.testBit t = true) : trailingZeros fuel n = t := by
  induction fuel generalizing n t with
  | zero => omega
  | succ fuel ih =>
    cases t with
    | zero => simp only [Nat.testBit_zero, decide_eq_true_eq] at ho; simp [trailingZeros, ho]
    | succ t =>
      have h0 := hz 0 (by omega)
      simp only [Nat.testBit_zero, decide_eq_false_iff_not] at h0
      rw [trailingZeros, if_neg h0, ih (n / 2) t (by omega) (fun i hi => by
        rw [← Nat.testBit_succ]; exact hz (i + 1) (by omega)) (by rw [← Nat.testBit_succ]; exact ho)]

/-- The trailing zeros. -/
theorem trailingZeros_eq (x : Word) : toWord (trailingZeros 64 x.toNat) = x.ctz := by
  by_cases h : x = 0
  · subst h; simp [trailingZeros, toWord, BitVec.ctz, BitVec.reverse_eq_zero_iff.2 rfl]
  · have h0 : x ≠ 0#64 := h
    have h3 : x.ctz < 64#64 := (BitVec.ctz_lt_iff_ne_zero).2 h0
    have h4 : x.ctz.toNat < 64 := by simpa [BitVec.lt_def] using h3
    rw [trailingZeros_spec 64 x.toNat x.ctz.toNat h4
      (fun i hi => by rw [BitVec.testBit_toNat]; exact BitVec.getLsbD_false_of_lt_ctz hi)
      (by rw [BitVec.testBit_toNat]; exact BitVec.getLsbD_true_ctz_of_ne_zero h0)]
    simp [toWord]

theorem onesIn_eq_sum (w n : Nat) : onesIn w n = ∑ i ∈ Finset.range w, (n.testBit i).toNat := by
  induction w generalizing n with
  | zero => rfl
  | succ w ih =>
    rw [Finset.sum_range_succ', onesIn, ih]
    simp only [Nat.testBit_succ, Nat.testBit_zero]
    rcases Nat.mod_two_eq_zero_or_one n with h | h <;> simp [h, Nat.add_comm]

theorem cpopNatRec_eq_sum (x : Word) (n acc : Nat) :
    x.cpopNatRec n acc = acc + ∑ i ∈ Finset.range n, (x.getLsbD i).toNat := by
  induction n generalizing acc with
  | zero => simp
  | succ n ih => rw [BitVec.cpopNatRec_succ, ih, Finset.sum_range_succ]; omega

/-- The one bits. -/
theorem onesIn_eq (x : Word) : toWord (onesIn 64 x.toNat) = x.cpop := by
  rw [BitVec.cpop, cpopNatRec_eq_sum, onesIn_eq_sum]
  simp [toWord, BitVec.testBit_toNat]

theorem testBit_reverseBits (w n i : Nat) : (reverseBits w n).testBit i = (decide (i < w) && n.testBit (w - 1 - i)) := by
  induction w generalizing n i with
  | zero => simp [reverseBits]
  | succ w ih =>
    have hlt : reverseBits w (n / 2) < 2 ^ w := by
      apply Nat.lt_pow_two_of_testBit
      intro j hj; rw [ih]; simp; omega
    rw [reverseBits, Nat.mul_comm, Nat.testBit_two_pow_mul_add _ hlt]
    by_cases h : i < w
    · rw [if_pos h, ih]
      have : w + 1 - 1 - i = (w - 1 - i) + 1 := by omega
      rw [this, Nat.testBit_succ]
      simp [h, (by omega : i < w + 1)]
    · rw [if_neg h]
      by_cases h2 : i = w
      · subst h2; simp [Nat.testBit_zero]
      · have h3 : i - w ≠ 0 := by omega
        have h4 : ¬ i < w + 1 := by omega
        have h5 : n % 2 < 2 ^ (i - w) := lt_of_lt_of_le (Nat.mod_lt _ (by omega)) (by
          calc 2 = 2 ^ 1 := rfl
            _ ≤ 2 ^ (i - w) := Nat.pow_le_pow_right (by omega) (by omega))
        simp [h4, Nat.testBit_lt_two_pow h5]

/-- The bits in reverse order. -/
theorem reverseBits_eq (x : Word) : toWord (reverseBits 64 x.toNat) = x.reverse := by
  apply BitVec.eq_of_getLsbD_eq
  intro i hi
  rw [toWord, BitVec.getLsbD_ofNat, BitVec.getLsbD_reverse, testBit_reverseBits, BitVec.getMsbD_eq_getLsbD, BitVec.testBit_toNat]
  simp [hi]

end Sys2Proof.Machine
end

