-- ==== Sys2Proof/Laws/Trap.lean ====
section
/-! SUPPORT. What taking a trap can do, once for the slots of small cores and once for cellarer cores and TSCs. -/

namespace Sys2Proof.Machine

/-- The context that a trap of a slot leaves: its EMPTY handler, or PARKED (R57, R348). -/
theorem State.trapAt_slot_ctx (s : State) (core n cause : Nat) (faddr prog : Word) :
    (s.trapAt (.slot core n) cause faddr prog).ctx (.slot core n)
      = let c := (s.ctx (.slot core n)).recordTrap (s.ctx (.slot core n)).sp.pl cause faddr prog
        if (s.ctx (.slot core n)).takesEmpty cause then c.enterHandler else c.park := by
  simp only [State.trapAt]
  split <;> simp_all [State.sendRecord]

/-- A trap of a slot changes no other context. -/
theorem State.trapAt_slot_others (s : State) (core n cause : Nat) (faddr prog : Word) (b : Agent) (h : b ≠ .slot core n) :
    (s.trapAt (.slot core n) cause faddr prog).ctx b = s.ctx b := by
  simp only [State.trapAt]
  split <;> simp_all [State.sendRecord]

/-- A slot that parks sends its record to its own cluster, and changes no other (R352). -/
theorem State.trapAt_slot_cluster (s : State) (core n cause k : Nat) (faddr prog : Word) (h : k ≠ clusterOf core) :
    (s.trapAt (.slot core n) cause faddr prog).cluster k = s.cluster k := by
  simp only [State.trapAt]
  split <;> simp_all [State.sendRecord]

/-- An EMPTY that a slot takes itself leaves no record. -/
theorem State.trapAt_handler (s : State) (core n cause : Nat) (faddr prog : Word)
    (h : (s.ctx (.slot core n)).takesEmpty cause = true) (k : Nat) :
    (s.trapAt (.slot core n) cause faddr prog).cluster k = s.cluster k := by
  simp [State.trapAt, h]

/-- A trap of a slot changes contexts and clusters alone. -/
theorem State.trapAt_slot_frame (s : State) (core n cause : Nat) (faddr prog : Word) :
    { s.trapAt (.slot core n) cause faddr prog with ctxs := s.ctxs, clusters := s.clusters } = s := by
  simp only [State.trapAt]
  split <;> simp [State.sendRecord, State.onCtx, State.onCluster]

/-- A trap of a servicer changes its context alone (R359). -/
theorem State.trapAt_servicer_frame (s : State) (a : Agent) (cause : Nat) (faddr prog : Word)
    (h : ∀ core n, a ≠ .slot core n) :
    { s.trapAt a cause faddr prog with ctxs := s.ctxs } = s ∧ ∀ b, b ≠ a → (s.trapAt a cause faddr prog).ctx b = s.ctx b := by
  cases a with
  | slot core n => exact absurd rfl (h core n)
  | cel k => exact ⟨by simp [State.trapAt, State.onCtx], fun b hb => by simp [State.trapAt, hb]⟩
  | tsc k => exact ⟨by simp [State.trapAt, State.onCtx], fun b hb => by simp [State.trapAt, hb]⟩

/-- A trap changes no byte of memory. -/
theorem State.trapAt_mem (s : State) (a : Agent) (cause : Nat) (faddr prog : Word) :
    (s.trapAt a cause faddr prog).mem = s.mem ∧ (s.trapAt a cause faddr prog).cores = s.cores
      ∧ (s.trapAt a cause faddr prog).peers = s.peers := by
  cases a <;> simp only [State.trapAt]
  · split <;> simp [State.sendRecord]
  all_goals simp

/-- A slot that waits keeps everything but its status. -/
theorem State.block_ctx (s : State) (a : Agent) (r : RegName) :
    (s.block a r).ctx a = { s.ctx a with ctl := { (s.ctx a).ctl with status := .blocked, awaits := some r } } := by
  simp [State.block]

/-- The ways in which an instruction's checks end (R70, log entry 18). -/
theorem State.issue_cases (s : State) (n : Needs) (f : State → State) :
    s.issue n f = s.behind f ∨ (∃ w, s.issue n f = s.illegal s.cur w)
      ∨ (∃ cause faddr, s.issue n f = s.trap s.cur cause faddr) ∨ (∃ r, s.issue n f = s.block s.cur r) ∨ s.issue n f = s := by
  unfold State.issue
  split
  · exact .inl rfl
  · split
    · exact .inr (.inl ⟨_, rfl⟩)
    · exact .inr (.inr (.inl ⟨_, _, rfl⟩))
  · exact .inr (.inr (.inr (.inl ⟨_, rfl⟩)))
  · exact .inr (.inr (.inr (.inr rfl)))

end Sys2Proof.Machine
end

