-- ==== Sys2Proof/Tests/Slice0.lean ====
section
/-! SUPPORT. Tests: words decoded, ill-formed terms refused, states that meet the hypotheses of the statements, and steps whose
results the spec gives. -/

namespace Sys2Proof.Tests

open Sys2Proof.Machine Sys2Proof.Claims

set_option maxRecDepth 100000
set_option exponentiation.threshold 1024
/-! ### States to test on -/

/-- Slot 0 of core 0 runs at SUPERVISOR for role 0 of a group of one role; the small cores have left reset. -/
noncomputable def one : State :=
  let s := State.reset.withFetchWord 32 0
  { s with agenda := [], hostPort := { s.hostPort with coresOn := some 0 } }

/-- Role 0 of that group. -/
def r1 : Binding := ⟨1, 0, 0, 0, 1, 1, 1, 1, false, false, true⟩

/-- A state whose issuing context is changed. -/
noncomputable def mine (s : State) (f : Ctx → Ctx) : State := s.onCtx s.cur f

/-- A state with X registers written. -/
noncomputable def xs (s : State) (l : List (BitVec 5 × Word)) : State :=
  mine s fun c => l.foldl (fun c p => c.setX p.1 p.2) c

/-- A state whose issuing agent's control is changed. -/
noncomputable def flow (s : State) (f : Control → Control) : State := mine s fun c => { c with ctl := f c.ctl }

/-- The group of `one` with roles 0 and 1 on cores 0 and 1, and an RC page of HBM at 0x500000 for loads and stores. -/
noncomputable def two : State :=
  let s : State := { one with groups := one.groups.map fun (p : Nat × Group) => (p.1, { p.2 with cores := [0, 1], stages := [0, 0] }) }
  let s := s.onCore 0 fun k => { k with binding := some ⟨1, 0, 0, 0, 2, 2, 1, 1, false, false, true⟩ }
  let s := s.onCore 1 fun k => { k with binding := some ⟨1, 1, 0, 1, 2, 2, 1, 1, false, false, true⟩ }
  s.onCluster 0 fun c => { c with
    tlb := c.tlb ++ [(⟨toWord (0x500000 + 1), toWord (2 ^ 63 + 2 ^ 59 + 2 ^ 58 + 2 ^ 57 + 0x500000), 0, false⟩ : TlbEntry)] }

/-- Role 0 of the group of `two`. -/
def r2 : Binding := ⟨1, 0, 0, 0, 2, 2, 1, 1, false, false, true⟩

/-- The issuing activation has the bytes below 0x3FF00 as its footprint. -/
noncomputable def boxed (s : State) : State :=
  mine s fun c => { c with act := { c.act with ctl := c.act.ctl ||| toWord (2 ^ 56), boxes := [toWord (0x3FF00 * 2 ^ 32)] } }

/-- Cellarer core 0 runs at SUPERVISOR. -/
noncomputable def cel : State := { State.reset.withFetchWord 32 0xC0800000 with agenda := [] }

/-- A state with words laid in the slice of core 0. -/
noncomputable def laid (s : State) (off : Nat) (ws : List Word) : State :=
  s.onCore 0 fun k => k.sliceStore off (ws.flatMap wordToBytes)

/-- A state with Q registers. -/
noncomputable def qs (s : State) (l : List (BitVec 4 × Region)) : State :=
  mine s fun c => l.foldl (fun c p => c.setQ p.1 p.2) c

/-- Words 1 and 2 of a descriptor of an own-slice tensor of INT8 with 4 × 4 cells, at `base`, with strides of 4. -/
def descWords (base : Nat) : List Word :=
  [toWord base, toWord (0x01000000 * 2 ^ 32 + 2 * 2 ^ 4 + 1), toWord (4 * 2 ^ 32 + 4), 0, 4, 0, 0, 0]

/-- A dense region of rows `lo` to `hi` and all columns of a 4 × 4 tensor. -/
def rows4 (didx : Nat) (lo hi : Int) : Region := ⟨didx, 2, false, false, false, 0, 0, [[⟨lo, hi, 0, 0⟩, ⟨0, 4, 0, 0⟩]]⟩

/-- A PLOADW block of BF16 at 0x2000 with a stride of 256 bytes. -/
def weightBlock : List Word := [0x2000, toWord ((5 * 2 ^ 28 + 16 * 2 ^ 21) * 2 ^ 32 + 256), 0, 0, 0, 0, 0, 0]

/-- A PSTREAM block of one BF16 row at 0x20000 into row 1, initialised. -/
def streamBlock : List Word :=
  [0x20000, toWord ((5 * 2 ^ 28 + 16 * 2 ^ 21) * 2 ^ 32 + 256), 0, toWord (1 * 2 ^ 37 + 1 * 2 ^ 27 + 2 ^ 14), 0, 0, 0, 0]

/-- A Trellis block: periodic, 4 × 4 × 4 cells of side 2, a cut-off of 1, no skin, and work records at global 0x500000. -/
def trellisBlock : List Word :=
  [0, toWord (0x3F800000 * 2 ^ 32), toWord (0x40000000 * 2 ^ 32 + 0x40000000), 0x40000000,
    toWord (7 * 2 ^ 48 + 4 * 2 ^ 32 + 4 * 2 ^ 16 + 4), 0x500000, 0, 0]

/-- The state after an instruction that answers a next one. -/
noncomputable def after (i : Instr) (s : State) : State :=
  match exec i s with
  | .next t => t
  | _ => s

theorem alone_of {s : State} {rs : List RegName} (h : s.me.ctl.status = .running ∧ s.me.owed = false)
    (g : (rs.all fun r => !s.me.isEmpty r && !s.me.isPoisoned r) = true) (f : s.me.ctl.frame = none) : Alone s rs :=
  ⟨⟨h, fun r m => by simpa using List.all_eq_true.mp g r m⟩, f⟩

theorem running_of {s : State} (h : s.me.ctl.status = .running ∧ s.me.owed = false) : Running s := h

theorem within_of {s : State} {off n : Nat}
    (h : ((s.boxes s.cur).any fun x => decide (x.1 ≤ off) && decide (off + n ≤ x.2)) = true) : Within s off n := by
  intro o h1 h2
  obtain ⟨x, hx, hb⟩ := List.any_eq_true.mp h
  simp at hb
  exact ⟨x, hx, by omega, by omega⟩

theorem clean_of {s : State} {core off n : Nat} (h : (s.core core).poisonWords = []) : Clean s core off n := by
  intro o _ _; simp [h]

theorem get_of {κ α : Type} [DecidableEq κ] (P : α → Prop) (l : Table κ α) (k : κ) (d : α) (h : ∀ p ∈ l, P p.2) (g : P d) :
    P (l.get k d) := by
  induction l with
  | nil => simpa [Table.get, Table.find?] using g
  | cons p t ih =>
    have ih := ih fun q m => h q (List.mem_cons_of_mem _ m)
    by_cases e : p.1 = k
    · simpa [Table.get, Table.find?, e] using h p List.mem_cons_self
    · simpa [Table.get, Table.find?, e] using ih

theorem canonical_of {s : State} (h : s.mem.wf = true) (g : ∀ p ∈ s.cores, p.2.slice.wf = true) (q : ∀ p ∈ s.peers, p.2.wf = true) :
    Canonical s :=
  ⟨h, fun n => get_of (fun k => k.slice.wf = true) s.cores n (Core.init n) g rfl,
    fun d => get_of (fun m => m.wf = true) s.peers d [] q rfl⟩

theorem ready_of {s : State} {rs : List RegName} (h : s.me.ctl.status = .running ∧ s.me.owed = false)
    (g : (rs.all fun r => !s.me.isEmpty r && !s.me.isPoisoned r) = true) : Ready s rs :=
  ⟨h, fun r m => by simpa using List.all_eq_true.mp g r m⟩

theorem slot_of {s : State} {rs : List RegName} (p : isSmall s.cur = true) (h : s.me.ctl.status = .running ∧ s.me.owed = false)
    (g : (rs.all fun r => !s.me.isEmpty r && !s.me.isPoisoned r) = true) (f : s.me.ctl.frame = none) : OnSlot s rs :=
  ⟨p, alone_of h g f⟩

theorem serves_of {s : State} {rs : List RegName} (a : isSmall s.cur = false) (b : s.me.supervisor s.cur = true)
    (c : s.me.ctl.frame = none) (d : s.me.ctl.redirect = none) (h : s.me.ctl.status = .running ∧ s.me.owed = false)
    (g : (rs.all fun r => !s.me.isEmpty r && !s.me.isPoisoned r) = true) : Serves s rs :=
  ⟨a, b, ⟨c, d⟩, ready_of h g⟩

/-! ### States that meet the hypotheses of the statements -/

/-- A repeat frame in its first pass. -/
noncomputable def framed (s : State) : State := flow s fun k => { k with frame := some ⟨0x400000, 2, 3, 1, 1, 1, 0, 0, []⟩ }

/-- A word in the second delay slot of a jump to 0x400100. -/
noncomputable def delayed (s : State) : State := flow s fun k => { k with redirect := some ⟨0x400100, 1⟩ }

theorem witness_ScalarResults : Ready two [.x 3, .x 4, .x 5] ∧ Ready (framed (delayed two)) [.x 31, .x 31, .x 0] ∧ NoFrame two
    ∧ ¬ NoFrame (framed two) :=
  ⟨ready_of (by decide) (by decide), ready_of (by decide) (by decide), by unfold NoFrame; decide, by unfold NoFrame; decide⟩

theorem witness_BranchAndJumpResults : Running two ∧ Straight two ∧ Ready two [.x 31] ∧ Ready two [.x 1, .x 2] :=
  ⟨running_of (by decide), ⟨by decide, by decide⟩, ready_of (by decide) (by decide), ready_of (by decide) (by decide)⟩

theorem witness_DelaySlotsAndRepeatFrames : (Running two ∧ Straight two ∧ two.me.trap.uh = false)
    ∧ (Running (delayed two) ∧ ¬ Straight (delayed two)) ∧ (Running (framed two) ∧ ¬ Straight (framed two))
    ∧ (framed two).me.ctl.frame = some ⟨0x400000, 2, 3, 1, 1, 1, 0, 0, []⟩ :=
  ⟨⟨running_of (by decide), ⟨by decide, by decide⟩, by decide⟩, ⟨running_of (by decide), fun h => absurd h.2 (by decide)⟩,
    ⟨running_of (by decide), fun h => absurd h.1 (by decide)⟩, by decide⟩

/-- The issuing slot at USER. -/
noncomputable def user (s : State) : State := mine s fun c => { c with sp := { c.sp with pl := false } }

theorem onCore_two : OnCore two 0 0 r2 := ⟨by decide, by decide, by decide⟩

theorem witness_ControlRegisterReads : OnCore two 0 0 r2 ∧ Alone two [.x 31] ∧ two.me.sp.pl = true ∧ Alone two [.x 5]
    ∧ OnCore (user two) 0 0 r2 ∧ Alone (user two) [.x 0] ∧ (user two).me.sp.pl = false :=
  ⟨onCore_two, alone_of (by decide) (by decide) (by decide), by decide, alone_of (by decide) (by decide) (by decide),
    ⟨by decide, by decide, by decide⟩, alone_of (by decide) (by decide) (by decide), by decide⟩

/-- A cellarer core below SUPERVISOR. -/
noncomputable def celUser : State := mine cel fun c => { c with sp := { c.sp with kstat := 0 } }

theorem witness_ControlRegisterWrites : OnCore two 0 0 r2 ∧ Alone two [.x 1] ∧ Alone two [.x 2] ∧ cel.cur = .cel 0
    ∧ cel.me.sp.kstat.getLsbD 0 = true ∧ Alone cel [.x 1, .x 2] ∧ celUser.cur = .cel 0 ∧ celUser.me.sp.kstat.getLsbD 0 = false
    ∧ Alone celUser [.x 1, .x 2] :=
  ⟨onCore_two, alone_of (by decide) (by decide) (by decide), alone_of (by decide) (by decide) (by decide), by decide, by decide,
    alone_of (by decide) (by decide) (by decide), by decide, by decide, alone_of (by decide) (by decide) (by decide)⟩

/-- A slot at an address that no entry maps to a fetchable place. -/
noncomputable def lost (s : State) : State := flow s fun k => { k with pc := 0x500000 }

/-- A slot whose X3 is empty. -/
noncomputable def emptied (s : State) : State := mine s fun c => c.makeEmpty (.x 3)

/-- A slot whose X4 is poisoned. -/
noncomputable def poisoned (s : State) : State :=
  mine s fun c => { c with regs := { c.regs with xPoison := 0x10, xEmpty := 0x10 } }

theorem witness_TrapsByInstruction : Running two ∧ Straight two ∧ (lost two).fetch (lost two).cur = .fails 0x05
    ∧ Running (lost two) ∧ Running (delayed two) ∧ ¬ Straight (delayed two) ∧ two.cur = .slot 0 0
    ∧ (Running celUser ∧ Straight celUser ∧ celUser.cur = .cel 0 ∧ celUser.me.sp.kstat.getLsbD 0 = false)
    ∧ (Running (poisoned two) ∧ [RegName.x 3, .x 4, .x 5].find? (poisoned two).me.isPoisoned = some (.x 4))
    ∧ Running (emptied two) ∧ [RegName.x 3, .x 4, .x 5].find? (emptied two).me.isPoisoned = none
    ∧ (emptied two).me.isEmpty (.x 3) = true :=
  ⟨running_of (by decide), ⟨by decide, by decide⟩, by decide, running_of (by decide), running_of (by decide),
    fun h => absurd h.2 (by decide), by decide, ⟨running_of (by decide), ⟨by decide, by decide⟩, by decide, by decide⟩,
    ⟨running_of (by decide), by decide⟩, running_of (by decide), by decide, by decide⟩

/-- A slot with an EMPTY handler at 0x400200. -/
noncomputable def handled (s : State) : State := mine s fun c => { c with trap := { c.trap with utvec := 0x400201 } }

theorem witness_HandlerAndKernelReturn : (let s := delayed (handled two)
      s.cur = .slot 0 0 ∧ Running s ∧ s.me.ctl.hold = none ∧ s.me.ctl.pc.toNat % 4 = 0 ∧ s.me.trap.utvec.getLsbD 0 = true
        ∧ s.me.trap.uh = false ∧ s.me.ctl.redirect = some ⟨0x400100, 1⟩ ∧ (0x400100 : Addr).toNat % 4 = 0)
    ∧ (cel.cur = .cel 0 ∧ Running cel ∧ Straight cel ∧ cel.me.sp.kstat.getLsbD 0 = true) :=
  ⟨⟨by decide, running_of (by decide), by decide⟩, by decide, running_of (by decide), ⟨by decide, by decide⟩, by decide⟩

theorem witness_SliceLoads : (let s := boxed (xs two [(1, 0x3FEF8), (2, 0xFF8), (3, 0x3FEFF), (4, 0x1FFF8)])
      OnCore s 0 0 r2 ∧ Alone s [.x 1, dataReg 3 5] ∧ s.me.queue = [] ∧ s.me.loads = []
        ∧ (effAddr (s.me.x 1) 3 0).toNat + sizeBytes 3 ≤ 0x3FF00 ∧ (effAddr (s.me.x 1) 3 0).toNat < 2 ^ 30
        ∧ Within s 0x3FEF8 8 ∧ Clean s 0 0x3FEF8 8 ∧ caRole (effAddr (s.me.x 1) 3 0).toNat = r2.role ∧ r2.role < r2.nroles
        ∧ s.failing 0 = false ∧ Alone s [.x 4, dataReg 4 5] ∧ Within s (effAddr (s.me.x 4) 4 0).toNat 64
        ∧ ((effAddr (s.me.x 3) 3 0).toNat < 0x3FF00 ∧ Within s 0x3FEF8 8 ∧ (s.core 0).isFull 0x3FEF8 = true)
        ∧ caOff (s.me.x 3).toNat < 0x3FF00 ∧ caRole (s.me.x 3).toNat = r2.role) :=
  ⟨⟨by decide, by decide, by decide⟩, alone_of (by decide) (by decide) (by decide), by decide, by decide, by decide, by decide,
    within_of (by decide), clean_of (by decide), by decide, by decide, by decide, alone_of (by decide) (by decide) (by decide),
    within_of (by decide), ⟨by decide, within_of (by decide), by decide⟩, by decide, by decide⟩

/-- X1 to X5 are at TCTL, TOP, TSTAT, TRES and the last TEXT word, and results wait in TEXT. -/
noncomputable def treeWords (results : List TextResult) : State :=
  (xs two [(1, 0x3FF00), (2, 0x3FF08), (3, 0x3FF80), (4, 0x3FF88), (5, 0x3FFF8)]).onCore 0 fun k => { k with text := results }

theorem witness_SliceLoads_tree : ∀ l ∈ ([[], [⟨5, 7⟩]] : List (List TextResult)), let s := treeWords l
    OnCore s 0 0 r2 ∧ (∀ r ∈ [1, 2, 3, 4, 5], Alone s [.x r, .x 6]) ∧ (s.core 0).text = l ∧ s.me.queue = [] ∧ s.me.loads = []
      ∧ s.failing 0 = false ∧ (effAddr (s.me.x 1) 3 0).toNat = 0x3FF00 ∧ (effAddr (s.me.x 2) 3 0).toNat < 0x3FF80
      ∧ (effAddr (s.me.x 3) 3 0).toNat = 0x3FF80 ∧ (effAddr (s.me.x 4) 3 0).toNat = 0x3FF88 ∧ (effAddr (s.me.x 5) 3 0).toNat = 0x3FFF8 := by
  intro l h
  simp only [List.mem_cons, List.not_mem_nil, or_false] at h
  rcases h with rfl | rfl <;>
    exact ⟨⟨by decide, by decide, by decide⟩, fun r h => by
        simp only [List.mem_cons, List.not_mem_nil, or_false] at h
        rcases h with rfl | rfl | rfl | rfl | rfl <;> exact alone_of (by decide) (by decide) (by decide),
      by decide, by decide, by decide, by decide, by decide, by decide, by decide, by decide, by decide⟩

theorem witness_PostedSliceStores_tree : (let s := treeWords []
      OnCore s 0 0 r2 ∧ Alone s [.x 2, dataReg 3 6] ∧ (effAddr (s.me.x 2) 3 0).toNat = 0x3FF08 ∧ tctlBad s.me.sp.tctl = false
        ∧ (s.core 0).treeOpen < 4 ∧ (effAddr (s.me.x 1) 3 0).toNat ≠ 0x3FF08) :=
  ⟨⟨by decide, by decide, by decide⟩, alone_of (by decide) (by decide) (by decide), by decide, by decide, by decide, by decide⟩

theorem witness_PostedSliceStores : (let s := boxed (xs two [(1, 0x3FEC0), (2, 0x7FEC0), (3, 0x7FEFF)])
      OnCore s 0 0 r2 ∧ Alone s [.x 1, dataReg 4 23] ∧ ((4 : BitVec 3) = 4 → s.me.act.source = 0 → (23 : BitVec 5).toNat < 24)
        ∧ Within s 0x3FEC0 64 ∧ (effAddr (s.me.x 2) 4 0).toNat < 2 ^ 30 ∧ caRole (effAddr (s.me.x 2) 4 0).toNat < r2.nroles
        ∧ caOff (effAddr (s.me.x 2) 4 0).toNat + sizeBytes 4 ≤ 0x3FF00 ∧ Within s (caOff 0x7FEC0) 64
        ∧ caOff (s.me.x 3).toNat < 0x3FF00 ∧ Within s (caOff (s.me.x 3).toNat / 8 * 8) 8) :=
  ⟨⟨by decide, by decide, by decide⟩, alone_of (by decide) (by decide) (by decide), by decide, within_of (by decide), by decide,
    by decide, by decide, within_of (by decide), by decide, within_of (by decide)⟩

/-- The page at 0x500000. -/
theorem page_two (kind : AccessKind) (h : kind = .load ∨ kind = .store) : OnePage two 0 0x50FFF8 8 kind (.mem 0x50FFF8) .rc
    (toWord (0x500000 + 1), toWord (2 ^ 63 + 2 ^ 59 + 2 ^ 58 + 2 ^ 57 + 0x500000)) := by
  rcases h with rfl | rfl <;> exact ⟨by decide, by decide, by decide, by decide, by decide, by decide⟩

theorem witness_LoadsInFlight : (let s := boxed (xs two [(1, 0x40010), (2, 0x50FFF8)])
      OnCore s 0 0 r2 ∧ Alone s [.x 1, dataReg 3 5] ∧ caRole (effAddr (s.me.x 1) 3 0).toNat < r2.nroles
        ∧ caRole (effAddr (s.me.x 1) 3 0).toNat ≠ r2.role ∧ Within s (caOff (effAddr (s.me.x 1) 3 0).toNat) 8
        ∧ OnePage s 0 (effAddr (s.me.x 2) 3 0).toNat 8 .load (.mem 0x50FFF8) .rc
          (toWord (0x500000 + 1), toWord (2 ^ 63 + 2 ^ 59 + 2 ^ 58 + 2 ^ 57 + 0x500000))) :=
  ⟨⟨by decide, by decide, by decide⟩, alone_of (by decide) (by decide) (by decide), by decide, by decide, within_of (by decide),
    by decide, by decide, by decide, by decide, by decide, by decide⟩

/-- The entry of the page behind that at 0x500000, at another place. -/
def ent6 : Word × Word := (toWord (0x510000 + 1), toWord (2 ^ 63 + 2 ^ 59 + 2 ^ 58 + 2 ^ 57 + 0x700000))

/-- X2 is an address four bytes below the page behind that of `two`, which translates too. -/
noncomputable def crossing : State :=
  (xs two [(2, 0x50FFFC), (3, 5)]).onCluster 0 fun c => { c with tlb := c.tlb ++ [(⟨ent6.1, ent6.2, 0, false⟩ : TlbEntry)] }

/-- The parts of eight bytes there. -/
def crossed : List Part :=
  [⟨0x50FFFC, 4, .mem 0x50FFFC, .rc, (toWord (0x500000 + 1), toWord (2 ^ 63 + 2 ^ 59 + 2 ^ 58 + 2 ^ 57 + 0x500000))⟩,
    ⟨0x510000, 4, .mem 0x700000, .rc, ent6⟩]

theorem straddles_crossing (kind : AccessKind) (h : kind = .load ∨ kind = .store) :
    Straddles crossing 0 (effAddr (crossing.me.x 2) 3 0).toNat 8 kind false crossed := by
  refine ⟨crossed[0], crossed[1], ?_, ?_, by decide, by decide, by decide, by decide, by decide, by decide, by decide, by decide, by decide,
    by decide, by decide⟩ <;> rcases h with rfl | rfl <;> decide

theorem witness_LoadsInFlight_straddles : OnCore crossing 0 0 r2 ∧ Alone crossing [.x 2, dataReg 3 5]
    ∧ Straddles crossing 0 (effAddr (crossing.me.x 2) 3 0).toNat 8 .load false crossed :=
  ⟨⟨by decide, by decide, by decide⟩, alone_of (by decide) (by decide) (by decide), straddles_crossing _ (Or.inl rfl)⟩

theorem witness_GlobalStores_straddles : OnCore crossing 0 0 r2 ∧ Alone crossing [.x 2, dataReg 3 5]
    ∧ crossing.me.act.ctl.getLsbD 63 = false ∧ Straddles crossing 0 (effAddr (crossing.me.x 2) 3 0).toNat 8 .store false crossed :=
  ⟨⟨by decide, by decide, by decide⟩, alone_of (by decide) (by decide) (by decide), by decide, straddles_crossing _ (Or.inr rfl)⟩

/-- The issuing activation is an atomic task. -/
noncomputable def atomicTask (s : State) : State :=
  mine s fun c => { c with act := { c.act with ctl := c.act.ctl ||| toWord (2 ^ 63) } }

theorem witness_GlobalStores : (let s := xs two [(2, 0x50FFF8)]
      OnCore s 0 0 r2 ∧ Alone s [.x 2, dataReg 3 5] ∧ s.me.act.ctl.getLsbD 63 = false
        ∧ OnePage s 0 (effAddr (s.me.x 2) 3 0).toNat 8 .store (.mem 0x50FFF8) .rc
          (toWord (0x500000 + 1), toWord (2 ^ 63 + 2 ^ 59 + 2 ^ 58 + 2 ^ 57 + 0x500000)))
    ∧ (let s := atomicTask (xs two [(2, 0x50FFF8)])
      s.me.act.ctl.getLsbD 63 = true ∧ s.me.act.used + 8 + 8 * ((8 + 7) / 8) ≤ 4096
        ∧ OnePage s 0 (effAddr (s.me.x 2) 3 0).toNat 8 .store (.mem 0x50FFF8) .rc
          (toWord (0x500000 + 1), toWord (2 ^ 63 + 2 ^ 59 + 2 ^ 58 + 2 ^ 57 + 0x500000))) :=
  ⟨⟨⟨by decide, by decide, by decide⟩, alone_of (by decide) (by decide) (by decide), by decide,
      by decide, by decide, by decide, by decide, by decide, by decide⟩,
    by decide, by decide, by decide, by decide, by decide, by decide, by decide, by decide⟩

theorem witness_ServicerMemory : (let s := xs cel [(1, 0x400000)]
      isSmall s.cur = false ∧ Alone s [.x 1, .x 2] ∧ s.me.queue = [] ∧ winOf (effAddr (s.me.x 1) 3 0).toNat = none
        ∧ inMemory (effAddr (s.me.x 1) 3 0).toNat 8 = true ∧ s.poisonAt (.mem (effAddr (s.me.x 1) 3 0).toNat) 8 = none) :=
  ⟨by decide, alone_of (by decide) (by decide) (by decide), by decide, by decide, by decide, by decide⟩

theorem witness_AtomicsAndReductions : (let s := boxed (xs two [(1, 0x3FEF8), (2, 0x7FEF8), (3, 0x50FFF8)])
      Canonical s ∧ OnCore s 0 0 r2 ∧ Alone s [.x 1, .x 4, .x 5] ∧ s.me.queue = [] ∧ CellarWord r2 (s.me.x 1).toNat 8
        ∧ s.me.loads = [] ∧ caRole (s.me.x 1).toNat = r2.role ∧ Within s (caOff (s.me.x 1).toNat) 8 ∧ Clean s 0 (caOff (s.me.x 1).toNat) 8
        ∧ CellarWord r2 (s.me.x 2).toNat 8 ∧ Within s (caOff (s.me.x 2).toNat) 8 ∧ caRole (s.me.x 2).toNat ≠ r2.role
        ∧ s.me.act.ctl.getLsbD 63 = false ∧ OnePage s 0 (s.me.x 3).toNat 8 .store (.mem 0x50FFF8) .rc
          (toWord (0x500000 + 1), toWord (2 ^ 63 + 2 ^ 59 + 2 ^ 58 + 2 ^ 57 + 0x500000))) :=
  ⟨canonical_of (by decide) (by decide) (by decide), ⟨by decide, by decide, by decide⟩,
    alone_of (by decide) (by decide) (by decide), by decide, by unfold CellarWord; decide, by decide, by decide, within_of (by decide),
    clean_of (by decide), by unfold CellarWord; decide, within_of (by decide), by decide, by decide,
    by decide, by decide, by decide, by decide, by decide, by decide⟩

theorem witness_AtomicsAndReductions_tasks : (let s := atomicTask (xs two [(3, 0x50FFF8)])
      OnCore s 0 0 r2 ∧ Alone s [.x 3, .x 5] ∧ s.me.act.ctl.getLsbD 63 = true ∧ (s.me.x 3).toNat % 8 = 0 ∧ s.me.act.used + 16 ≤ 4096
        ∧ OnePage s 0 (s.me.x 3).toNat 8 .store (.mem 0x50FFF8) .rc
          (toWord (0x500000 + 1), toWord (2 ^ 63 + 2 ^ 59 + 2 ^ 58 + 2 ^ 57 + 0x500000)))
    ∧ two.failing 0 = false :=
  ⟨⟨⟨by decide, by decide, by decide⟩, alone_of (by decide) (by decide) (by decide), by decide, by decide, by decide,
    by decide, by decide, by decide, by decide, by decide, by decide⟩, by decide⟩

theorem witness_AtomicsAndReductions_servicers : (let s := xs cel [(1, 0x500000)]
      isSmall s.cur = false ∧ Alone s [.x 1, .x 2, .x 3] ∧ s.me.queue = [] ∧ Canonical s ∧ (s.me.x 1).toNat % 8 = 0
        ∧ winOf (s.me.x 1).toNat = none ∧ isMemory (s.me.x 1).toNat = true ∧ s.poisonAt (.mem (s.me.x 1).toNat) 8 = none) :=
  ⟨by decide, alone_of (by decide) (by decide) (by decide), by decide, canonical_of (by decide) (by decide) (by decide), by decide,
    by decide, by decide, by decide⟩

theorem witness_Fences : OnCore two 0 0 r2 ∧ Alone two []
    ∧ (let s := flow two fun k => { k with hold := some (.fence true 1 true true 7) }
      OnCore s 0 0 r2 ∧ Alone s [] ∧ s.me.ctl.hold = some (.fence true (1 : BitVec 5).toNat true true 7) ∧ s.me.ctl.quiesced = false
        ∧ ∀ e ∈ s.me.queue, e.id < 7 → inFence true 1 true true r2.role e = false)
    ∧ (cel.cur = .cel 0 ∧ Alone cel []) ∧ ∀ w : Payload, (⟨0, false, false, .cellar, 0, w, none, none⟩ : Entry).what = w :=
  ⟨onCore_two, alone_of (by decide) (by decide) (by decide),
    ⟨⟨by decide, by decide, by decide⟩, alone_of (by decide) (by decide) (by decide), by decide, by decide, by decide⟩,
    ⟨by decide, alone_of (by decide) (by decide) (by decide)⟩, fun _ => rfl⟩

/-- A channel activation of channel 5 with a join decrement, which holds a mailbox message or not. -/
noncomputable def onChannel (s : State) (held : Bool) : State :=
  let s := mine s fun c => { c with act := { c.act with source := 5, named := held, join := toWord (2 ^ 63 + 0x100) } }
  if held then s.onCore 0 fun k => { k with handlers := [(5, ⟨true, true, true, 3, 0x100000, 4, 0x10, 1, true, 511, 0, 0, false⟩)] } else s

theorem witness_ActivationEnds : (∀ held, let s := onChannel two held
      OnCore s 0 0 r2 ∧ Alone s [] ∧ Straight s ∧ Canonical s ∧ s.me.act.ctl.getLsbD 63 = false ∧ s.me.firstPoison = none
        ∧ s.me.rackFault = 0 ∧ s.me.pressFault = 0 ∧ s.me.trelFault = 0 ∧ s.me.act.source < 64
        ∧ ((s.core 0).handler s.me.act.source).head < 512 ∧ ((s.core 0).handler s.me.act.source).tail < 512
        ∧ (s.me.act.named && !s.me.act.forgotten) = held
        ∧ ∀ ch, ch < 64 → ((s.core 0).handler ch).count = 0
          ∨ (ch = s.me.act.source ∧ held = true ∧ ((s.core 0).handler ch).count = 1))
    ∧ (let s := atomicTask two
      OnCore s 0 0 r2 ∧ Alone s [] ∧ Straight s ∧ s.me.act.ctl.getLsbD 63 = true ∧ r2.ended = false ∧ s.me.ctl.stallOn = none
        ∧ ∀ ch, ch < 64 → ((s.core 0).handler ch).count = 0) := by
  refine ⟨fun held => ?_, ⟨by decide, by decide, by decide⟩, alone_of (by decide) (by decide) (by decide), ⟨by decide, by decide⟩,
    by decide, by decide, by decide, by decide⟩
  cases held <;>
    exact ⟨⟨by decide, by decide, by decide⟩, alone_of (by decide) (by decide) (by decide), ⟨by decide, by decide⟩,
      canonical_of (by decide) (by decide) (by decide), by decide, by decide, by decide, by decide, by decide, by decide, by decide,
      by decide, by decide, by decide⟩

/-- The group of `two` with a pump of 2 × 2 × 1 numbers in row order. -/
noncomputable def pumped (s : State) : State :=
  { s with groups := s.groups.map fun (p : Nat × Group) => (p.1, { p.2 with pump := some ⟨2, 2, 1, 0, 0, 0, [], none⟩ }) }

theorem witness_TaskMessages : (let s := boxed (pumped (xs two [(1, 1), (2, toWord (63 + 256 * 60)), (3, 0x3FE80), (4, 0x7FEF8), (6, 0x3FEF8),
        (7, 0x3FEC4), (8, 62)]))
      OnCore s 0 0 r2 ∧ Alone s [.x 1, .x 2, .x 7] ∧ Alone s [.x 1, .x 8, .x 5] ∧ s.resolve s.cur (s.me.x 1) = some 1
        ∧ s.me.act.ctl.getLsbD 63 = false ∧ (s.me.x 2).toNat = 63 + 256 * 60 ∧ (s.me.x 8).toNat = 62 + 256 * 0 ∧ s.me.sp.pl = true
        ∧ ((s.me.x 7).toNat + 60 ≤ 0x3FF00 ∧ Within s (s.me.x 7).toNat 60 ∧ Clean s 0 (s.me.x 7).toNat 60 ∧ s.me.queue = [])
        ∧ (s.core 0).sendRoom = true ∧ Canonical s ∧ (s.me.x 3).toNat % 64 = 0 ∧ (s.me.x 3).toNat ≤ 0x3FE80
        ∧ Within s ((s.me.x 3).toNat + 8) 8 ∧ r2.ended = false ∧ (s.core 0).ringInput = [] ∧ (s.core 0).ring.length < 256
        ∧ (s.me.x 4).toNat < 2 ^ 30 ∧ caRole (s.me.x 4).toNat < r2.nroles ∧ caOff (s.me.x 4).toNat < 0x3FF00
        ∧ Within s (caOff (s.me.x 4).toNat / 8 * 8) 8 ∧ s.me.x 1 ≠ 0 ∧ (s.me.x 6).toNat < 0x3FF00
        ∧ Within s ((s.me.x 6).toNat / 8 * 8) 8 ∧ (s.core 0).pumpOut < 16
        ∧ (∃ g, s.group? 1 = some g ∧ g.pump = some ⟨2, 2, 1, 0, 0, 0, [], none⟩))
    ∧ (let s := atomicTask two
      s.me.act.ctl.getLsbD 63 = true ∧ s.me.act.used + 72 ≤ 4096) :=
  ⟨⟨⟨by decide, by decide, by decide⟩, alone_of (by decide) (by decide) (by decide), alone_of (by decide) (by decide) (by decide),
      by decide, by decide, by decide, by decide, by decide, ⟨by decide, within_of (by decide), clean_of (by decide), by decide⟩, by decide,
      canonical_of (by decide) (by decide) (by decide), by decide, by decide, within_of (by decide), by decide, by decide, by decide,
      by decide, by decide, by decide, within_of (by decide), by decide, by decide, within_of (by decide), by decide, _, rfl, by decide⟩,
    by decide⟩

theorem witness_TaskMessages_designated : (let s := user (xs two [(1, 1), (2, 63), (3, toWord (2 ^ 19)), (4, toWord (3 * 2 ^ 12))])
      OnCore s 0 0 r2 ∧ (∃ g, s.group? 1 = some g ∧ designated g r2 (s.me.x 1).toNat = some 1 ∧ designated g r2 (s.me.x 3).toNat = none
          ∧ designated g r2 (s.me.x 4).toNat = none ∧ designated g r2 (2 ^ 12 + 1) = some 1 ∧ designated g r2 (2 * 2 ^ 12 + 2) = none)
        ∧ Alone s [.x 1, .x 2, .x 5] ∧ Alone s [.x 3, .x 5] ∧ (s.me.x 2).toNat = 63 + 256 * 0 ∧ s.me.sp.pl = false) :=
  ⟨⟨by decide, by decide, by decide⟩, ⟨_, rfl, by decide, by decide, by decide, by decide, by decide⟩,
    alone_of (by decide) (by decide) (by decide), alone_of (by decide) (by decide) (by decide), by decide, by decide⟩

theorem witness_HandlerTable_refused : (∀ g < 6, let s := user (xs two [(1, toWord (g * 256 + 63)), (2, 1)])
      OnCore s 0 0 r2 ∧ Alone s [.x 1, .x 2] ∧ s.me.sp.pl = false ∧ s.me.x 1 = toWord (g * 256 + 63))
    ∧ (let s := two.onCore 0 fun k => { k with mailLast := [(5, two.now, 1)] }
      (s.core 0).mailLast.find? 5 = some (s.now, 1)) := by
  refine ⟨fun g h => ?_, by decide⟩
  have : g = 0 ∨ g = 1 ∨ g = 2 ∨ g = 3 ∨ g = 4 ∨ g = 5 := by omega
  rcases this with rfl | rfl | rfl | rfl | rfl | rfl <;>
    exact ⟨⟨by decide, by decide, by decide⟩, alone_of (by decide) (by decide) (by decide), by decide, by decide⟩

theorem witness_HandlerTable : (∀ ch ∈ [62, 63], let s := xs two [(1, toWord (0 * 256 + ch)), (2, 1), (3, toWord (2 * 256 + ch)), (4, 7),
        (5, toWord (3 * 256 + ch)), (6, 0x00FFFFFFFFFFFFFC), (7, toWord (4 * 256 + ch)), (8, 0x3FE80), (9, toWord (256 + ch)), (10, toWord ch),
        (11, toWord (5 * 256 + ch)), (12, toWord (4091 * 64 + 0 * 2 ^ 20 + 1 * 2 ^ 24))]
      OnCore s 0 0 r2 ∧ Alone s [.x 1, .x 2] ∧ s.me.sp.pl = true ∧ s.me.x 1 = toWord (0 * 256 + ch) ∧ (s.me.x 2).toNat < 2
        ∧ s.me.x 3 = toWord (2 * 256 + ch) ∧ (s.me.x 4).toNat < 8 ∧ s.me.x 5 = toWord (3 * 256 + ch) ∧ (s.me.x 6).toNat < 2 ^ 56
        ∧ (s.me.x 6).toNat % 4 = 0 ∧ s.me.x 7 = toWord (4 * 256 + ch) ∧ (s.me.x 8).toNat ≤ 0x3FE80 ∧ (s.me.x 8).toNat % 64 = 0
        ∧ s.me.x 9 = toWord (1 * 256 + ch) ∧ s.me.x 10 = toWord ch ∧ ((s.core 0).handler ch).prio < 8
        ∧ Alone s [.x 11, .x 12] ∧ s.me.x 11 = toWord (5 * 256 + ch) ∧ (s.me.x 12).toNat = 4091 * 64 + 0 * 2 ^ 20 + 1 * 2 ^ 24
        ∧ 4091 * 64 + 64 * 2 ^ 0 ≤ 0x3FF00) := by
  intro ch h
  simp only [List.mem_cons, List.not_mem_nil, or_false] at h
  rcases h with rfl | rfl <;>
    exact ⟨⟨by decide, by decide, by decide⟩, alone_of (by decide) (by decide) (by decide), by decide, by decide, by decide, by decide,
      by decide, by decide, by decide, by decide, by decide, by decide, by decide, by decide, by decide, by decide,
      alone_of (by decide) (by decide) (by decide), by decide, by decide, by decide⟩

theorem vecRoom_two : VecRoom two 0 0 := ⟨by decide, by decide⟩

theorem witness_VectorIntegerResults : VecRoom two 0 0 ∧ Ready two [.v 31, .v 0, .v 7] :=
  ⟨vecRoom_two, ready_of (by decide) (by decide)⟩

theorem witness_VectorCompareResults : VecRoom two 0 0 ∧ Ready two [.v 31, .v 0] ∧ (3 : BitVec 2) ≠ 0 :=
  ⟨vecRoom_two, ready_of (by decide) (by decide), by decide⟩

theorem witness_VectorMoveResults : VecRoom two 0 0 ∧ Ready two [.v 1, .v 2, .v 3] ∧ Ready two [.x 1, .x 2, .v 3]
    ∧ Ready two [.v 1, .x 2, .x 3] ∧ Ready two [] :=
  ⟨vecRoom_two, ready_of (by decide) (by decide), ready_of (by decide) (by decide), ready_of (by decide) (by decide),
    ready_of (by decide) (by decide)⟩

/-- FP32 in FMT0 and BF16 in FMT1, in round to nearest even. -/
noncomputable def formats (s : State) (f g : BitVec 32) : State :=
  mine s fun c => { c with regs := { c.regs with fmt := (c.regs.fmt.set 0 f).set 1 g } }

theorem witness_VectorFloatResults : VecRoom two 0 0 ∧ (1 : BitVec 2) ≠ 0 ∧ (4 : BitVec 3) < 5 ∧ Ready two [.v 1, .v 2, .v 3] :=
  ⟨vecRoom_two, by decide, by decide, ready_of (by decide) (by decide)⟩

theorem witness_VectorReductionResults : VecRoom two 0 0 ∧ Ready two [.v 31, .x 31] ∧ (4 : BitVec 3) < 5 ∧ (2 : BitVec 2) ≠ 0 :=
  ⟨vecRoom_two, ready_of (by decide) (by decide), by decide, by decide⟩

theorem witness_VectorFloatResults_conversions : (let fp32 := toWord (3 * 2 ^ 28 + 32 * 2 ^ 21) |>.setWidth 32
      let bf16 := toWord (5 * 2 ^ 28 + 16 * 2 ^ 21) |>.setWidth 32
      let mx := toWord (0 * 2 ^ 28 + 8 * 2 ^ 21 + 1 * 2 ^ 3) |>.setWidth 32
      ∀ p ∈ ([(fp32, bf16, false, false, 0), (0xFFFFFFFF, bf16, true, false, 0), (fp32, 0xFFFFFFFF, false, true, 0), (mx, bf16, false, false, 1),
          (fp32, mx, false, false, 2)] : List (BitVec 32 × BitVec 32 × Bool × Bool × Nat)),
        fmtBad p.1 = p.2.2.1 ∧ fmtBad p.2.1 = p.2.2.2.1 ∧ (p.2.2.2.2 = 1 ↔ fmtBad p.1 = false ∧ (fKind p.1 = 7 ∨ fMx p.1 ≠ 0))
          ∧ (p.2.2.2.2 = 2 → ¬ (fKind p.1 = 7 ∨ fMx p.1 ≠ 0) ∧ (fKind p.2.1 = 7 ∨ fKind p.2.1 = 8 ∨ fMx p.2.1 ≠ 0)))
    ∧ (let s := formats two (toWord (3 * 2 ^ 28 + 32 * 2 ^ 21) |>.setWidth 32) (toWord (5 * 2 ^ 28 + 16 * 2 ^ 21) |>.setWidth 32)
      VecRoom s 0 0 ∧ Alone s [.v 1, .v 3] ∧ s.me.fmt 0 = (toWord (3 * 2 ^ 28 + 32 * 2 ^ 21) |>.setWidth 32)
        ∧ vcvtPartBad (fWidth (s.me.fmt 0)) (fWidth (s.me.fmt 1)) 1 = false ∧ vcvtPartBad (fWidth (s.me.fmt 0)) (fWidth (s.me.fmt 1)) 2 = true) :=
  ⟨by decide, ⟨by decide, by decide⟩, alone_of (by decide) (by decide) (by decide), by decide, by decide, by decide⟩

theorem witness_VectorFloatResults_numbers : (0 < 3 ∧ (7 : Nat) < 2 ^ 32 ∧ roundF fp32 .rne false 7 (.fin true 3 200) = (.inf true, 5)
      ∧ roundF fp32 .rsr false 0 (.fin true 3 0) = (.fin true (3 * 2 ^ 22) (-22), 0))
    ∧ FVal.fin true 1 0 ≠ .nan ∧ ltV (.fin true 1 0) (.fin false 1 0) = true := by decide

/-- A slot whose P1 names byte lane 0 alone. -/
noncomputable def masked (s : State) : State := mine s fun c => { c with regs := { c.regs with p := c.regs.p.set 1 1 } }

theorem witness_GathersAndScatters : (let s := masked (boxed (xs two [(2, 0x3FEF8), (3, 0x50FFF8), (4, 0x7FEF8)]))
      OnCore s 0 0 r2 ∧ Alone s [.v 1, .x 2, .v 23] ∧ s.me.act.ctl.getLsbD 63 = false ∧ s.me.vmemElems 1 3 = [0] ++ []
        ∧ (∀ kind, s.elemParts s.cur .own (elemAddr (s.me.x 2) (s.me.v 1) 3 0) (elemBytes 3) kind
          = .ok [⟨0x3FEF8, 8, .slice 1 0 0x3FEF8, .cellar, (0, 0)⟩])
        ∧ (∀ kind, s.elemParts s.cur .cellar (elemAddr (s.me.x 4) (s.me.v 1) 3 0) (elemBytes 3) kind
          = .ok [⟨0x7FEF8, 8, .slice 1 1 0x3FEF8, .cellar, (0, 0)⟩])
        ∧ s.elemParts s.cur .global (elemAddr (s.me.x 3) (s.me.v 1) 3 0) (elemBytes 3) .load
          = .ok [⟨0x50FFF8, 8, .mem 0x50FFF8, .rc, (toWord (0x500000 + 1), toWord (2 ^ 63 + 2 ^ 59 + 2 ^ 58 + 2 ^ 57 + 0x500000))⟩]) :=
  ⟨⟨by decide, by decide, by decide⟩, alone_of (by decide) (by decide) (by decide), by decide, by decide, fun k => by cases k <;> decide,
    fun k => by cases k <;> decide, by decide⟩

/-- P1 names elements 0 and 1 of eight bytes, and element 1 of V1 lies past the slice; X2 is where element 0 lies. -/
noncomputable def gathering : State :=
  mine (boxed (xs two [(2, 0x3FEF8)])) fun c => (c.setV 1 (0x100#512 <<< 32)).setP 1 0x101

theorem witness_GathersAndScatters_stops : (let s := gathering
      s.me.vmemElems 1 3 = [0] ++ [1] ∧ [1].head? = some 1 ∧ Alone s [.v 1, .x 2, .v 23] ∧ (0x05 : Nat) ≠ 0x01 ∧ (0x05 : Nat) ≠ 0x07
        ∧ (∀ kind, s.elemParts s.cur .own (elemAddr (s.me.x 2) (s.me.v 1) 3 0) (elemBytes 3) kind
          = .ok [⟨0x3FEF8, 8, .slice 1 0 0x3FEF8, .cellar, (0, 0)⟩])
        ∧ ∀ kind, s.elemParts s.cur .own (elemAddr (s.me.x 2) (s.me.v 1) 3 1) (elemBytes 3) kind = .trap 0x05 0x406F8) :=
  ⟨by decide, by decide, alone_of (by decide) (by decide) (by decide), by decide, by decide, fun k => by cases k <;> decide,
    fun k => by cases k <;> decide⟩

theorem witness_GathersAndScatters_straddles : (let s := masked crossing
      OnCore s 0 0 r2 ∧ Alone s [.v 1, .x 2, .v 23] ∧ s.me.act.ctl.getLsbD 63 = false ∧ s.me.vmemElems 1 3 = [0] ++ []
        ∧ (∀ kind ∈ [.load, .store], s.elemParts s.cur .global (elemAddr (s.me.x 2) (s.me.v 1) 3 0) (elemBytes 3) kind = .ok crossed)
        ∧ strongestOf crossed = .rc) :=
  ⟨⟨by decide, by decide, by decide⟩, alone_of (by decide) (by decide) (by decide), by decide, by decide, by decide, by decide⟩

/-- The load of element 0 of a gather into V23 waits to be performed, and the gather stops at element 1 or not. -/
noncomputable def landing (stop : Option (Nat × Nat × Word)) : State :=
  mine gathering fun c => { c with
    queue := [⟨7, false, false, .cellar, 0x3FEF8, .load 3 (.slice 1 0 0x3FEF8) 8 0, none, none⟩]
    loads := [⟨3, .elem 23 8 0, [(7, none)], none, none, false, none, none⟩]
    ctl := { c.ctl with hold := some (.gather 23 true [3] stop) } }

theorem witness_GathersAndScatters_lands : ∀ stop ∈ ([none, some (1, 0x05, 0x406F8)] : List (Option (Nat × Nat × Word))),
    let s := landing stop
    let c := s.ctx (.slot 0 0)
    s.entryReady (.slot 0 0) 7 = some ⟨7, false, false, .cellar, 0x3FEF8, .load 3 (.slice 1 0 0x3FEF8) 8 0, none, none⟩
      ∧ c.loadOf? 3 = some ⟨3, .elem 23 8 0, [(7, none)], none, none, false, none, none⟩ ∧ c.ctl.status = .running
      ∧ c.ctl.hold = some (.gather 23 true [3] stop) ∧ c.act.buffer = [] ∧ earlier c.queue 7 = []
      ∧ s.noRoute (.slice 1 0 0x3FEF8) = false ∧ (∀ i, i < 8 → s.poisonAt (.slice 1 0 (0x3FEF8 + i)) 1 = none) ∧ 0 * 8 + 8 ≤ 64
      ∧ [3].filter (· ≠ 3) = ([] : List Nat) ∧ [3, 4].filter (· ≠ 3) ≠ ([] : List Nat) := by decide

/-- The load of the second part of that element waits to be performed, and its first part has been or not. -/
noncomputable def landingPart (first : Option (List Byte)) : State :=
  mine gathering fun c => { c with
    queue := [⟨7, false, false, .cellar, 0x3FEFC, .load 3 (.slice 1 0 0x3FEFC) 4 0, none, none⟩]
    loads := [⟨3, .elem 23 8 0, [(6, first), (7, none)], none, none, false, none, none⟩]
    ctl := { c.ctl with hold := some (.gather 23 true [3] none) } }

theorem witness_GathersAndScatters_landsPart : ∀ first ∈ ([none, some [1, 2, 3, 4]] : List (Option (List Byte))),
    let s := landingPart first
    let c := s.ctx (.slot 0 0)
    s.entryReady (.slot 0 0) 7 = some ⟨7, false, false, .cellar, 0x3FEFC, .load 3 (.slice 1 0 0x3FEFC) 4 0, none, none⟩
      ∧ c.loadOf? 3 = some ⟨3, .elem 23 8 0, [(6, first), (7, none)], none, none, false, none, none⟩ ∧ c.ctl.status = .running
      ∧ c.ctl.hold = some (.gather 23 true [3] none) ∧ c.act.buffer = [] ∧ earlier c.queue 7 = []
      ∧ s.noRoute (.slice 1 0 0x3FEFC) = false ∧ (∀ i, i < 4 → s.poisonAt (.slice 1 0 (0x3FEFC + i)) 1 = none) := by decide

/-- Tiles 0 to 2, of 16 rows and columns, are resident for slot 0, tile 3 is dirty for slot 1. -/
noncomputable def tiled (s : State) (sh : Word) : State :=
  let s := mine s fun c => ((c.setView 0 ⟨1, sh⟩).setView 1 ⟨1, sh⟩).setView 2 ⟨1, sh⟩
  let s := s.onCtx (.slot 0 1) fun c => c.setView 3 ⟨1, sh⟩
  s.onCore 0 fun k => { k with tiles := [(0, ⟨some 0, true, Vector.replicate 256 1⟩), (3, ⟨some 1, true, Vector.replicate 256 1⟩)] }

/-- INT32 of 16 rows and 16 columns, with a SAVE area at 0x3FA80. -/
def square : Word := toWord (0x3FA80 * 2 ^ 16 + 1 * 2 ^ 8 + 15 * 2 ^ 4 + 15)

theorem witness_TileWords : (∀ kind < 2, let w := toWord (0x3FA80 * 2 ^ 16 + kind * 2 ^ 8 + 15 * 2 ^ 4 + 15)
      let s := tiled (boxed (xs two [(1, 15), (2, w), (3, 16)])) w
      VecRoom s 0 0 ∧ NoFrame s ∧ Resident s 0 w ∧ Resident s 1 w ∧ Resident s 2 w ∧ Ready s [.v 31, .x 1] ∧ Ready s [.v 31, .x 3]
        ∧ (s.me.x 1).toNat < tRows w ∧ (s.me.x 1).toNat < tCols w ∧ tRows w ≤ (s.me.x 3).toNat ∧ tCols w ≤ (s.me.x 3).toNat
        ∧ tKind w = (if kind = 1 then 1 else 0) ∧ tCols w = tRows w
        ∧ OnCore s 0 0 r2 ∧ Alone s [.x 2] ∧ s.shapeBad (s.me.x 2) = none ∧ ((s.core 0).tile 4).owner = none
        ∧ ((s.core 0).tile 3).owner = some 1 ∧ ((s.core 0).tile 3).dirty = true ∧ (s.ctx (.slot 0 1)).view 3 = ⟨1, w⟩) := by
  intro kind h
  have : kind = 0 ∨ kind = 1 := by omega
  rcases this with rfl | rfl <;>
    exact ⟨⟨by decide, by decide⟩, by unfold NoFrame; decide, by unfold Resident; decide, by unfold Resident; decide,
      by unfold Resident; decide, ready_of (by decide) (by decide), ready_of (by decide) (by decide), by decide, by decide, by decide,
      by decide, by decide, by decide, ⟨by decide, by decide, by decide⟩, alone_of (by decide) (by decide) (by decide), by decide,
      by decide, by decide, by decide, by decide⟩

/-- Tile 0 is OUT for slot 0, with its save area at 0x3FA80, in which word `p` of the slice may be poisoned; tile 5 is UNCONF. -/
noncomputable def tileOut (p : List Nat) : State :=
  (mine (xs two [(1, 2)]) fun c => c.setView 0 ⟨2, square⟩).onCore 0 fun k => { k with poisonWords := p }

theorem witness_TileWords_away : (let s := tiled two square
      VecRoom s 0 0 ∧ NoFrame s ∧ Ready s [.x 1] ∧ Ready s [] ∧ (s.me.view 5).state = 0 ∧ ((s.core 0).tile 0).owner = some 0
        ∧ ((s.core 0).tile 3).owner = some 1)
    ∧ ((tileOut []).me.view 0).state = 2 :=
  ⟨⟨⟨by decide, by decide⟩, by unfold NoFrame; decide, ready_of (by decide) (by decide), ready_of (by decide) (by decide), by decide,
    by decide, by decide⟩, by decide⟩

theorem witness_TileWords_taken : (∀ p ∈ [[], [(0x3FA80 + 64) / 8 + 9]], let s := tileOut p
      OnCore s 0 0 r2 ∧ VecRoom s 0 0 ∧ NoFrame s ∧ Ready s [.v 31, .x 1] ∧ s.me.view 0 = ⟨2, square⟩ ∧ s.me.queue = []
        ∧ (s.me.x 1).toNat < tRows square ∧ ((s.core 0).tile 0).owner = none ∧ wbits square 33 16 = 0x3FA80 ∧ (s.me.view 5).state = 0)
    ∧ (∀ r, Clean (tileOut []) 0 (0x3FAC0 + 64 * r) 64)
    ∧ (let s := tileOut [(0x3FA80 + 64) / 8 + 9]
      Clean s 0 (0x3FAC0 + 64 * 0) 64 ∧ 0x3FAC0 + 64 * 1 ≤ 0x3FB08 ∧ 0x3FB08 < 0x3FAC0 + 64 * 1 + 64 ∧ 0x3FB08 / 8 ∈ (s.core 0).poisonWords
        ∧ Clean s 0 (0x3FAC0 + 64 * 1) (0x3FB08 - (0x3FAC0 + 64 * 1))) := by
  refine ⟨fun p h => ?_, fun r => clean_of (by decide), ?_⟩
  · simp only [List.mem_cons, List.not_mem_nil, or_false] at h
    rcases h with rfl | rfl <;>
      exact ⟨⟨by decide, by decide, by decide⟩, ⟨by decide, by decide⟩, by unfold NoFrame; decide, ready_of (by decide) (by decide),
        by decide, by decide, by decide, by decide, by decide, by decide⟩
  · have q : ((tileOut [(0x3FA80 + 64) / 8 + 9]).core 0).poisonWords = [0x3FB08 / 8] := by decide
    refine ⟨fun o h1 h2 => ?_, by decide, by decide, by decide, fun o h1 h2 => ?_⟩ <;>
      · rw [q, List.mem_singleton]; omega

/-- Descriptors 0 and 1, of tensors at 0x2000 and 0x3000, and descriptor 2, of one with a length table. -/
noncomputable def described (s : State) : State :=
  let s := mine s fun c => { c with sp := { c.sp with dtbase := 0x1000 } }
  laid s 0x1000 (descWords 0x2000 ++ descWords 0x3000
    ++ [0x3000, toWord (0x01000000 * 2 ^ 32 + 1 * 2 ^ 7 + 2 * 2 ^ 4 + 1), toWord (4 * 2 ^ 32 + 4), 0, 4, 0, 0, 0x3800])

/-- The world of the region words: Q1 and Q2 dense, Q3 OVER, Q4 strided, Q5 ragged, Q6 of rank 1. -/
noncomputable def regions : State :=
  qs (described (boxed (xs two [(1, 0x7FFFFFFD), (2, 1), (3, 0x2000), (4, 0x3FCC0), (10, toWord (4 * 2 ^ 32)), (11, toWord (3 * 2 ^ 32 + 1)),
    (12, toWord (1 * 2 ^ 16 + 2)), (13, toWord (2 * 2 ^ 16 + 2))])))
    [(1, rows4 0 0 2), (2, rows4 1 1 4), (3, { rows4 0 0 2 with isOver := true }),
     (4, ⟨0, 2, false, true, false, 0, 0, [[⟨0, 3, 2, 0⟩, ⟨0, 4, 0, 0⟩]]⟩), (5, { rows4 2 0 2 with ragged := true }),
     (6, ⟨0, 1, false, false, false, 0, 0, [[⟨0, 4, 0, 0⟩]]⟩)]

theorem plain_of {q : Region} (a : q.isOver = false) (b : q.strided = false) (c : q.ragged = false)
    (d : ∀ x ∈ q.boxes, x.length = q.rank ∧ ∀ d ∈ x, d.st = 0) : PlainQ q := ⟨a, b, c, d⟩

/-- What reading descriptor `k` of the issuing slot gives. -/
noncomputable def descAt (s : State) (k : Nat) : Desc :=
  let off := (s.ctx s.cur).sp.dtbase.toNat + 64 * k
  match s.readOwn s.cur off 64 false with
  | .bytes bs => descOf (s.ownCa s.cur off) (wordsOfBytes bs)
  | _ => Desc.none

theorem withDesc_of {s : State} {k : Nat} {bs : List Byte}
    (h : footprintCheck (s.boxes s.cur) (s.myRole s.cur) ((s.ctx s.cur).sp.dtbase.toNat + 64 * k) 64 = none)
    (g : s.readOwn s.cur ((s.ctx s.cur).sp.dtbase.toNat + 64 * k) 64 false = .bytes bs) (b : descBad (wordsOfBytes bs) = false) :
    ∀ f, s.withDescAs s.cur k none f = f (descAt s k) := by
  intro f
  simp [State.withDescAs, State.withOwn, descAt, h, g, b]

theorem told_of {s : State} {q : Region} {num : Nat} {bs : List Byte}
    (h : footprintCheck (s.boxes s.cur) (s.myRole s.cur) ((s.ctx s.cur).sp.dtbase.toNat + 64 * q.didx) 64 = none)
    (g : s.readOwn s.cur ((s.ctx s.cur).sp.dtbase.toNat + 64 * q.didx) 64 false = .bytes bs)
    (b : descBad (wordsOfBytes bs) = false) (r : (descAt s q.didx).rank = q.rank) (l : q.ragged = false ∨ (descAt s q.didx).ltv = true) :
    Told s q num (descAt s q.didx) := by
  intro f
  rw [State.withOperandDesc, State.withDesc, withDesc_of h g b]
  rcases l with l | l <;> simp [r, l]

theorem slab_rows (lo hi : Int) (h : lo < hi) : SlabForm 2 [[⟨lo, hi, 0, 0⟩, ⟨0, 4, 0, 0⟩]] := by
  refine ⟨[(lo, hi, [[⟨0, 4, 0, 0⟩]])], rfl, ?_, ?_⟩
  · simp only [List.mem_singleton, forall_eq]
    refine ⟨h, by simp, [(0, 4, [[]])], rfl, ?_, ?_⟩
    · simp only [List.mem_singleton, forall_eq]
      exact ⟨by decide, by simp, Or.inr rfl⟩
    · intro i p q _ h2; simp at h2
  · intro i p q _ h2; simp at h2

theorem witness_RegionSetOperations : (∃ l, SlabForm 2 l ∧ Box.within l [1, 3] = true ∧ Box.within l [2, 3] = false)
    ∧ OnSlot regions [] ∧ PlainQ (regions.me.q 1) ∧ PlainQ (regions.me.q 2)
    ∧ (regions.me.q 1).rank = (regions.me.q 2).rank ∧ (1 : BitVec 4) ≠ 2 :=
  ⟨⟨_, slab_rows 0 2 (by decide), by decide, by decide⟩, slot_of (by decide) (by decide) (by decide) (by decide),
    plain_of (by decide) (by decide) (by decide) (by decide), plain_of (by decide) (by decide) (by decide) (by decide), by decide, by decide⟩

theorem readable_of {s : State} {q : Region} {num : Nat} (h : q.ragged = false) : Readable s q num := fun g => by simp [h] at g

/-- The bytes of descriptors 0 and 2 of `described`. -/
def desc0 : List Byte := (descWords 0x2000).flatMap wordToBytes
/-- The bytes of descriptor 2 of `described`. -/
def desc2 : List Byte := [0x3000, toWord (0x01000000 * 2 ^ 32 + 1 * 2 ^ 7 + 2 * 2 ^ 4 + 1), toWord (4 * 2 ^ 32 + 4), 0, 4, 0, 0,
  (0x3800 : Word)].flatMap wordToBytes

theorem told_regions (n : BitVec 4) (h : n = 1 ∨ n = 3 ∨ n = 4) (num : Nat) :
    Told regions (regions.me.q n) num (descAt regions 0) := by
  rcases h with rfl | rfl | rfl <;>
    exact told_of (bs := desc0) (by decide) (by decide) (by decide) (by decide) (Or.inl (by decide))

theorem witness_RegionSupersets : OnSlot regions [] ∧ (regions.me.q 1).rank ≠ (regions.me.q 6).rank
    ∧ Readable regions (regions.me.q 3) 3 ∧ Readable regions (regions.me.q 4) 4 ∧ (∃ d, Told regions (regions.me.q 5) 5 d)
    ∧ (regions.me.q 3).rank = (regions.me.q 4).rank ∧ Shaped (regions.me.q 3) ∧ Shaped (regions.me.q 4) ∧ PlainQ (regions.me.q 2)
    ∧ (regions.me.q 3).isOver = true ∧ (regions.me.q 4).special = true ∧ (regions.me.q 1).isOver = false
    ∧ (regions.me.q 1).special = false :=
  ⟨slot_of (by decide) (by decide) (by decide) (by decide), by decide, readable_of (by decide), readable_of (by decide),
    ⟨descAt regions 2, told_of (bs := desc2) (by decide) (by decide) (by decide) (by decide) (Or.inr (by decide))⟩, by decide,
    ⟨by decide, by decide⟩, ⟨by decide, by decide⟩, plain_of (by decide) (by decide) (by decide) (by decide), by decide, by decide,
    by decide, by decide⟩

theorem tight_of {q : Region} (a : q.strided = q.boxes.any Box.stepped) (b : ∀ x ∈ q.boxes, x.length = q.rank)
    (c : ∀ x ∈ q.boxes, ∀ d ∈ x, d.tight = some d) : TightQ q := ⟨⟨a, b⟩, c⟩

theorem witness_RegionDerivations : (let s := regions
      OnSlot s [.x 1, .x 2] ∧ (s.me.q 2).rank ≤ 4 ∧ TightQ (s.me.q 2) ∧ Readable s (s.me.q 2) 2 ∧ (s.me.q 2).isOver = false
        ∧ (∀ b ∈ (s.me.q 1).boxes, ∀ v, b[0]? = some v → v.hi + (((s.me.x 1).setWidth 32).toInt) ≤ 2 ^ 31 - 1)
        ∧ (∃ b ∈ (s.me.q 2).boxes, ¬ ∀ v, b[0]? = some v → v.hi + (((s.me.x 1).setWidth 32).toInt) ≤ 2 ^ 31 - 1))
    ∧ (let s := regions
      PlainQ (s.me.q 1) ∧ DenseBoxes 2 (s.me.q 1).boxes ∧ Told s (s.me.q 1) 1 (descAt s 0) ∧ (descAt s 0).ext = [4, 4]
        ∧ (∀ b ∈ (s.me.q 1).boxes, ∀ v ∈ b, -(2 ^ 31) ≤ v.lo - 1 ∧ v.hi + 1 ≤ 2 ^ 31 - 1)
        ∧ (s.me.x 2).toNat % 2 ^ 15 = 1 ∧ 0 < (3 : BitVec 4).toNat ∧ (3 : BitVec 4).toNat < 2 ^ (s.me.q 1).rank ∧ OnSlot s [.x 2]) :=
  ⟨⟨slot_of (by decide) (by decide) (by decide) (by decide), by decide,
      tight_of (by decide) (by decide) (by decide), readable_of (by decide), by decide, by decide, by decide⟩,
    plain_of (by decide) (by decide) (by decide) (by decide), by unfold DenseBoxes; decide, told_regions 1 (by decide) 1, by decide,
    by decide, by decide, by decide, by decide, slot_of (by decide) (by decide) (by decide) (by decide)⟩

theorem witness_RegionMeasures : (let s := regions
      TightQ (s.me.q 4) ∧ (s.me.q 4).ragged = false ∧ OnSlot s [.x 2] ∧ Told s (s.me.q 4) 4 (descAt s 0)
        ∧ (descAt s 0).ext.length = (s.me.q 4).rank ∧ TightQ (s.me.q 2) ∧ (s.me.q 4).rank = (s.me.q 2).rank
        ∧ (s.me.q 4).isOver = false ∧ (s.me.q 2).isOver = false) :=
  ⟨tight_of (by decide) (by decide) (by decide), by decide, slot_of (by decide) (by decide) (by decide) (by decide),
    told_regions 4 (by decide) 4, by decide, tight_of (by decide) (by decide) (by decide), by decide, by decide, by decide⟩

theorem witness_RegionWordsAndMemory : (let s := regions
      (s.me.q 4).rank ≤ 4 ∧ Readable s (s.me.q 4) 4 ∧ Shaped (s.me.q 4) ∧ OnSlot s (xsFrom 10 4) ∧ Told s (s.me.q 4) 4 (descAt s 0)
        ∧ (∃ d, Told s (s.me.q 5) 5 d ∧ d.ltv = true)
        ∧ (2 ≤ max ((s.me.x 12).toNat % 2 ^ 16) 1 ∧ (s.me.x 12 >>> 16).toNat % 2 ^ 16 = 1)
        ∧ (s.me.x 13 >>> 16).toNat % 2 ^ 16 = 2 ∧ (s.me.x 13).toNat % 2 ^ 16 = 2)
    ∧ (let s := laid regions 0x3FCC0 (rows4 0 0 2).words
      OnCore s 0 0 r2 ∧ OnSlot s [.x 4] ∧ (s.me.x 3).toNat % 64 = 0 ∧ s.me.queue = []
        ∧ s.me.sp.dtbase.toNat + 64 * 1 + 64 ≤ 0x3FF00 ∧ Within s (s.me.sp.dtbase.toNat + 64 * 1) 64
        ∧ Clean s 0 (s.me.sp.dtbase.toNat + 64 * 1) 64
        ∧ descBad ((upFrom 0 8).map fun i => (s.core 0).slice.word (s.me.sp.dtbase.toNat + 64 * 1 + 8 * i)) = false
        ∧ descBad ((upFrom 0 8).map fun i => (s.core 0).slice.word (s.me.sp.dtbase.toNat + 64 * 63 + 8 * i)) = true
        ∧ (s.me.x 4).toNat % 64 = 0 ∧ (s.me.x 4).toNat + 576 ≤ 0x3FF00 ∧ Within s (s.me.x 4).toNat 576
        ∧ Clean s 0 (s.me.x 4).toNat 576 ∧ Storable (rows4 0 0 2)
        ∧ (∀ i, i < 72 → (s.core 0).slice.word ((s.me.x 4).toNat + 8 * i) = (rows4 0 0 2).words.getD i 0)) :=
  ⟨⟨by decide, readable_of (by decide), ⟨by decide, by decide⟩, slot_of (by decide) (by decide) (by decide) (by decide),
      told_regions 4 (by decide) 4,
      ⟨descAt regions 2, told_of (bs := desc2) (by decide) (by decide) (by decide) (by decide) (Or.inr (by decide)), by decide⟩,
      by decide, by decide⟩,
    ⟨by decide, by decide, by decide⟩, slot_of (by decide) (by decide) (by decide) (by decide), by decide, by decide, by decide,
    within_of (by decide), clean_of (by decide), by decide, by decide, by decide, by decide, within_of (by decide),
    clean_of (by decide),
    ⟨tight_of (by decide) (by decide) (by decide), by decide, by decide, by decide, by decide, by decide, by decide, by decide, by decide,
      by decide⟩, by decide⟩

/-- The issuing slot has a pending detail of each engine. -/
noncomputable def faulty (s : State) : State :=
  mine s fun c => { c with rackFault := 0x0500000000002000, pressFault := 0x1700000000000100, trelFault := 0x0D00000000000010 }

/-- One multicast credit for each destination. -/
noncomputable def credited (s : State) : State :=
  s.onCore 0 fun k => { k with mcred := (upFrom 0 64).map fun i => (i, 1) }


/-- The world of the copy: Q7 names the first two rows of the second tensor. -/
noncomputable def copying : State := qs (credited regions) [(7, rows4 1 0 2)]

/-- The bytes of descriptor 1 of `described`. -/
def desc1 : List Byte := (descWords 0x3000).flatMap wordToBytes

theorem witness_CopyCommands : (let s := copying
      let x := copyOf s .rack 1 7 0 false false false
      OnCore s 0 0 r2 ∧ NoTape s ∧ Alone s (xsFrom 0 x.params.length) ∧ s.me.rackFault = 0 ∧ CopyPasses s x (descAt s 0) (descAt s 1) [] []
        ∧ (descAt s 1).global = false ∧ s.rackRoom 0 = true
        ∧ (∀ r ∈ (x.job s s.cur (descAt s 0) (descAt s 1) [] []).recv, 0 < (s.core 0).mcred.get (r % 64) 0))
    ∧ (faulty copying).me.rackFault ≠ 0 :=
  ⟨⟨⟨by decide, by decide, by decide⟩, fun st => by cases st <;> decide, alone_of (by decide) (by decide) (by decide), by decide,
      ⟨withDesc_of (bs := desc0) (by decide) (by decide) (by decide), withDesc_of (bs := desc1) (by decide) (by decide) (by decide),
        fun _ => rfl, fun _ => rfl, by decide, by decide, by decide, by decide, by decide, by decide, by decide, by decide, by decide,
        by decide⟩, by decide, by decide, by decide⟩, by decide⟩

theorem onCore_regions : OnCore regions 0 0 r2 := ⟨by decide, by decide, by decide⟩

theorem witness_RackingWaitsAndStatus : (let s := copying
      OnCore s 0 0 r2 ∧ NoTape s ∧ s.me.rackFault = 0 ∧ Alone s [.x 2, .x 2] ∧ s.resolve s.cur (s.me.x 2) = some 1 ∧ 1 / 64 = r2.role / 64
        ∧ 1 ≤ (s.me.x 2).toNat ∧ (s.me.x 2).toNat ≤ 65535 ∧ (s.me.x 3).toNat % 64 = 0 ∧ (s.me.x 3).toNat + 2048 ≤ 0x3FF00
        ∧ Within s (s.me.x 3).toNat 2048 ∧ s.rackRoom 0 = true ∧ (s.me.x 3).toNat < 0x3FF00 ∧ Within s ((s.me.x 3).toNat / 8 * 8) 8
        ∧ (∀ f, s.withDesc s.cur (s.me.q 1).didx f = f (descAt s 0)) ∧ (descAt s 0).rank = (s.me.q 1).rank
        ∧ (∀ f, s.withTable s.cur (s.me.q 1) (descAt s 0) f = f []) ∧ Alone s [.x 0, .x 2])
    ∧ (OnCore (faulty two) 0 0 r2 ∧ (faulty two).me.rackFault ≠ 0) :=
  ⟨⟨⟨by decide, by decide, by decide⟩, fun st => by cases st <;> decide, by decide, alone_of (by decide) (by decide) (by decide),
      by decide, by decide, by decide, by decide, by decide, by decide, within_of (by decide), by decide, by decide,
      within_of (by decide), withDesc_of (bs := desc0) (by decide) (by decide) (by decide), by decide, fun _ => rfl,
      alone_of (by decide) (by decide) (by decide)⟩, ⟨by decide, by decide, by decide⟩, by decide⟩

/-- The lease parameters of core 0: class 2, rows 0 and 1. -/
noncomputable def leased (s : State) (held : Bool) : State :=
  s.onCore 0 fun k => { k with lease := { k.lease with lv := true, held := held, pcls := 2, rows := 2, row0 := 0 } }

/-- A core that has a lease, latched weights and both blocks in its slice. -/
noncomputable def pressing : State :=
  (laid (laid (leased (boxed (xs two [(1, 0x1000), (2, 0x1040), (3, toWord (4 * 2 ^ 22 + 1 * 2 ^ 10 + 1)), (4, toWord (2 * 2 ^ 21 + 1 * 2 ^ 10 + 1023)),
    (5, toWord (3 * 2 ^ 21 + 1 * 2 ^ 10)), (6, toWord (1 * 2 ^ 10 + 1024))])) true) 0x1000 weightBlock) 0x1040 streamBlock).onCore 0 fun k =>
    { k with latched := some weightBlock }

theorem onCore_pressing : OnCore pressing 0 0 r2 := ⟨by decide, by decide, by decide⟩

theorem witness_PressCommands_blocks : (let s := pressing
      OnCore s 0 0 r2 ∧ NoTape s ∧ Alone s [.x 1] ∧ Alone s [.x 2] ∧ s.me.pressFault = 0 ∧ (s.core 0).lease.lv = true
        ∧ s.pressRoom 0 = true ∧ (s.me.x 1).toNat % 64 = 0 ∧ (s.me.x 1).toNat + 64 ≤ 0x3FF00 ∧ Within s (s.me.x 1).toNat 64
        ∧ s.me.queue = [] ∧ Clean s 0 (s.me.x 1).toNat 64 ∧ blockAt s 0 (s.me.x 2).toNat = streamBlock
        ∧ s.pressCheck s.cur .pdrain [s.me.x 3] (s.me.x 3) (s.me.x 3) = none ∧ (s.me.x 3).toNat / 2 ^ 22 % 8 = 4) :=
  ⟨onCore_pressing, fun st => by cases st <;> decide, alone_of (by decide) (by decide) (by decide),
    alone_of (by decide) (by decide) (by decide), by decide, by decide, by decide, by decide, by decide, within_of (by decide),
    by decide, clean_of (by decide), by decide, by decide, by decide⟩

theorem witness_PressCommands_load :
    pressing.pressCheck pressing.cur .ploadw weightBlock (pressing.me.x 1) (toWord 0x1000) = none := by decide

theorem witness_PressCommands_stream :
    pressing.pressCheck pressing.cur .pstream streamBlock (pressing.me.x 2) (toWord 0x1040) = none := by decide

theorem witness_PressCommands_lease : (let s := boxed (xs two [(4, toWord (2 * 2 ^ 21 + 1 * 2 ^ 10 + 1023)), (5, toWord (3 * 2 ^ 21 + 1 * 2 ^ 10))])
      (s.core 0).lease.held = false ∧ (s.core 0).lease.req = false ∧ (s.core 0).lease.lv = false ∧ (s.me.x 4).toNat < 2 ^ 23
        ∧ (s.me.x 4).toNat / 2 ^ 21 < 3 ∧ 0 < (s.me.x 4).toNat / 2 ^ 10 % 2 ^ 11
        ∧ (s.me.x 4).toNat % 2 ^ 10 + (s.me.x 4).toNat / 2 ^ 10 % 2 ^ 11 ≤ 1024 ∧ ¬ (s.me.x 5).toNat / 2 ^ 21 < 3)
    ∧ (pressing.core 0).lease.held = true ∧ (faulty two).me.pressFault ≠ 0 :=
  ⟨by decide, by decide, by decide⟩

/-- FP32 to INT8 without MX, and INT64 to INT8 with MX. -/
noncomputable def leaving (s : State) : State :=
  mine s fun c => { c with regs := { c.regs with
    fmt := ((((c.regs.fmt.set 0 (toWord (3 * 2 ^ 28 + 32 * 2 ^ 21) |>.setWidth 32)).set 1 (toWord (8 * 2 ^ 21) |>.setWidth 32)).set 2
      (toWord (64 * 2 ^ 21) |>.setWidth 32)).set 3 (toWord (8 * 2 ^ 21 + 1 * 2 ^ 3) |>.setWidth 32)) } }

theorem witness_DrainedRowsAndPressStatus : (let s := leaving (boxed (xs two [(1, 0x7FE80), (2, 0x3FEFE), (3, 1023), (4, 0x500000), (5, 0x501000)]))
      OnCore s 0 0 r2 ∧ VecRoom s 0 0 ∧ NoTape s
        ∧ Alone s ((upFrom 24 8).map (fun j => RegName.v (BitVec.ofNat 5 j)) ++ [.x 1, .x 2, .x 3])
        ∧ dleaveFmtBad (s.me.fmt 0) (s.me.fmt 1) = none ∧ dleaveFmtBad (s.me.fmt 2) (s.me.fmt 3) = none ∧ -1024 ≤ (s.me.x 3).toInt ∧ (s.me.x 3).toInt ≤ 1023
        ∧ s.me.pressFault = 0 ∧ (s.me.leaveBytes (s.me.fmt 0) (s.me.fmt 1) 0 6).1.length = 128
        ∧ (s.me.leaveBytes (s.me.fmt 2) (s.me.fmt 3) 1023 6).2.1.length = 2 ∧ CellarBytes s r2 (s.me.x 1).toNat 128
        ∧ CellarBytes s r2 (s.me.x 2).toNat 2 ∧ OnePage s 0 (s.me.x 4).toNat 128 .store (.mem 0x500000) .rc
          (toWord (0x500000 + 1), toWord (2 ^ 63 + 2 ^ 59 + 2 ^ 58 + 2 ^ 57 + 0x500000))
        ∧ s.me.act.ctl.getLsbD 63 = false) :=
  ⟨⟨by decide, by decide, by decide⟩, ⟨by decide, by decide⟩, fun st => by cases st <;> decide,
    alone_of (by decide) (by decide) (by decide), by decide, by decide, by decide, by decide, by decide, by decide, by decide,
    ⟨by decide, by decide, by decide, within_of (by decide)⟩, ⟨by decide, by decide, by decide, within_of (by decide)⟩,
    ⟨by decide, by decide, by decide, by decide, by decide, by decide⟩, by decide⟩

theorem witness_DrainedRowsAndPressStatus_refused : (let s := leaving (xs two [(3, 1024)])
      s.me.pressFault = 0 ∧ Alone s ((upFrom 24 8).map (fun j => RegName.v (BitVec.ofNat 5 j)) ++ [.x 1, .x 2, .x 3])
        ∧ fmtBad (s.me.fmt 0) = false ∧ fKind (s.me.fmt 0) = 3 ∧ fMx (s.me.fmt 0) = 0 ∧ fmtBad (s.me.fmt 1) = false ∧ fKind (s.me.fmt 1) ≠ 7
        ∧ fKind (s.me.fmt 1) ≠ 8 ∧ fmtBad (s.me.fmt 2) = false ∧ fKind (s.me.fmt 2) = 0 ∧ fWidth (s.me.fmt 2) = 64 ∧ fMx (s.me.fmt 2) = 0
        ∧ fmtBad (s.me.fmt 3) = false ∧ fMx (s.me.fmt 3) = 1 ∧ ¬ (s.me.x 3).toInt ≤ 1023)
    ∧ (let s := mine two fun c => { c with regs := { c.regs with
        fmt := (c.regs.fmt.set 0 ((toWord (8 * 2 ^ 21)).setWidth 32)).set 2 ((toWord (3 * 2 ^ 28 + 32 * 2 ^ 21)).setWidth 32) } }
      fKind (s.me.fmt 0) = 0 ∧ fWidth (s.me.fmt 0) ≠ 64 ∧ fKind (s.me.fmt 2) = 3 ∧ fmtBad (s.me.fmt 3) = true) :=
  ⟨⟨by decide, alone_of (by decide) (by decide) (by decide), by decide, by decide, by decide, by decide, by decide, by decide, by decide,
    by decide, by decide, by decide, by decide, by decide, by decide⟩, by decide⟩

/-- A TRPAIRS of slot 0 of core 0. -/
def pairs0 : TrelCmd := ⟨9, .trpairs, 0, 0, 0, 1, 0, 2, 1, 2, 0, [], Region.zero, Desc.none, [], toWord 2, [], 0, 0⟩

/-- Descriptor 0 of two particle records at 0x2000, descriptor 1 of a 4 × 4 × 4 grid. -/
noncomputable def particles : State :=
  let s := boxed (xs two [(1, 0x1000), (2, toWord (2 ^ 32 + 1)), (3, 0x1040)])
  let s := laid (laid s 0x1000 trellisBlock) 0x1200 [0x2000, toWord ((3 * 2 ^ 28 + 32 * 2 ^ 21) * 2 ^ 32 + 2 * 2 ^ 4 + 1),
    toWord (4 * 2 ^ 32 + 2), 0, 4, 0, 0, 0, 0x2000, toWord (0x01000000 * 2 ^ 32 + 2 * 2 ^ 4 + 2), toWord (4 * 2 ^ 32 + 4), 4, 16, 4, 0, 0]
  let s := mine s fun c => { c with sp := { c.sp with dtbase := 0x1200 } }
  qs s [(1, ⟨0, 2, false, false, false, 0, 0, [[⟨0, 2, 0, 0⟩, ⟨0, 4, 0, 0⟩]]⟩),
    (2, ⟨1, 3, false, false, false, 0, 0, [[⟨0, 4, 0, 0⟩, ⟨0, 4, 0, 0⟩, ⟨0, 4, 0, 0⟩]]⟩)]

theorem withDesc_particles : (∀ f, particles.withDesc particles.cur 0 f = f (descAt particles 0))
    ∧ ∀ f, particles.withDesc particles.cur 1 f = f (descAt particles 1) :=
  ⟨withDesc_of (bs := ([0x2000, toWord ((3 * 2 ^ 28 + 32 * 2 ^ 21) * 2 ^ 32 + 2 * 2 ^ 4 + 1), toWord (4 * 2 ^ 32 + 2), 0, 4, 0, 0, (0 : Word)].flatMap
      wordToBytes)) (by decide) (by decide) (by decide),
    withDesc_of (bs := ([0x2000, toWord (0x01000000 * 2 ^ 32 + 2 * 2 ^ 4 + 2), toWord (4 * 2 ^ 32 + 4), 4, 16, 4, 0, (0 : Word)].flatMap
      wordToBytes)) (by decide) (by decide) (by decide)⟩

theorem witness_TrellisCommands : (let s := particles
      OnCore s 0 0 r2 ∧ Alone s [.x 1] ∧ s.me.trelFault = 0 ∧ (s.me.x 1).toNat % 64 = 0 ∧ (s.me.x 1).toNat + 64 ≤ 0x3FF00
        ∧ Within s (s.me.x 1).toNat 64 ∧ s.me.queue = [] ∧ Clean s 0 (s.me.x 1).toNat 64 ∧ cfgBad (blockAt s 0 (s.me.x 1).toNat) r2.nroles = false
        ∧ cfgBad (blockAt s 0 (s.me.x 3).toNat) r2.nroles = true ∧ s.trelRoom 0 = true)
    ∧ (let s := particles
      (∀ f, s.withDesc s.cur (s.me.q 1).didx f = f (descAt s 0)) ∧ (∀ f, s.withTable s.cur (s.me.q 1) (descAt s 0) f = f [])
        ∧ (descAt s 0).rank = (s.me.q 1).rank ∧ (s.me.q 1).isOver = false ∧ (s.me.q 1).outside (descAt s 0) [] = false
        ∧ (s.me.q 1).rank = 2 ∧ (descAt s 0).width = 32 ∧ recordForm (s.me.q 1) = true ∧ NoTape s
        ∧ (let c := ({ pairs0 with kind := .trbin, region := s.me.q 1, desc := descAt s 0, boxes := s.boxes s.cur } : TrelCmd)
          0 < c.rows.length ∧ c.rows.length ≤ 65536 ∧ c.recordRuns.findSome? (printRuns (s.boxes s.cur)) = none))
    ∧ (let s := particles
      (∀ f, s.withDesc s.cur (s.me.q 2).didx f = f (descAt s 1)) ∧ (s.me.q 2).outside (descAt s 1) [] = false ∧ (s.me.q 2).rank = 3
        ∧ Alone s [.x 2] ∧ (s.me.x 2).toNat / 2 ^ 17 % 2 ^ 15 = 0 ∧ (s.me.x 2).toNat % 2 ^ 16 ≠ 0
        ∧ ∀ j, j < 16 → (s.me.x 2).getLsbD j = true → r2.role / 16 * 16 + j < r2.nroles)
    ∧ (faulty two).me.trelFault ≠ 0 :=
  ⟨⟨⟨by decide, by decide, by decide⟩, alone_of (by decide) (by decide) (by decide), by decide, by decide, by decide,
      within_of (by decide), by decide, clean_of (by decide), by decide, by decide, by decide⟩,
    ⟨withDesc_particles.1, fun _ => rfl, by decide, by decide, by decide, by decide, by decide, by decide,
      fun st => by cases st <;> decide, by decide⟩,
    ⟨withDesc_particles.2, by decide, by decide, alone_of (by decide) (by decide) (by decide), by decide, by decide, by decide⟩, by decide⟩

/-- CASKREC of tape 7 with key 5, and 16 patch entries of one byte at 0x3FE00 as X1. -/
noncomputable def taping : State :=
  laid (boxed (xs two [(1, toWord (5 * 2 ^ 32 + 0x3FE00 * 2 ^ 12 + 16 * 2 ^ 4 + 7)), (2, 1), (3, 65535)])) 0x3FE00
    ((upFrom 0 16).flatMap fun i => [toWord i, toWord (i % 2 * 2 ^ 62 + 1)])

/-- The same world, recording tape 7. -/
noncomputable def recording : State := after (.caskrec 1) taping

/-- The same world with the tape sealed. -/
noncomputable def sealedTape : State := after (.caskend 4) recording

/-- The words of the patch entries of `taping`. -/
def patchesOf : List (Nat × Nat × Nat) := (upFrom 0 16).map fun i => (i, i % 2, 1)

theorem witness_TapesRecorded : (let s := taping
      OnCore s 0 0 r2 ∧ Alone s [.x 1, .x 1, .x 4] ∧ s.me.act.ctl.getLsbD 63 = false ∧ s.tapeOf? s.cur .recording = none
        ∧ (s.me.x 1).toNat % 8 = 7 ∧ (s.me.x 1).toNat / 2 ^ 3 % 2 = 0 ∧ (s.me.x 1).toNat / 2 ^ 9 % 2 ^ 3 = 0
        ∧ (s.me.x 1).toNat / 2 ^ 30 % 4 = 0 ∧ (s.me.x 1).toNat / 2 ^ 4 % 2 ^ 5 = 16 ∧ (s.me.x 1).toNat / 2 ^ 12 % 2 ^ 18 = 0x3FE00
        ∧ s.me.queue = [] ∧ Within s 0x3FE00 (16 * 16) ∧ Clean s 0 0x3FE00 (16 * 16)
        ∧ ((upFrom 0 16).map fun i => (((s.core 0).slice.word (0x3FE00 + 8 * (2 * i))).toNat,
            ((s.core 0).slice.word (0x3FE00 + 8 * (2 * i + 1))).toNat / 2 ^ 62,
            ((s.core 0).slice.word (0x3FE00 + 8 * (2 * i + 1))).toNat % 2 ^ 62)) = patchesOf
        ∧ (∀ p ∈ patchesOf, p.2.1 < 2 ∧ 0 < p.2.2) ∧ ((s.cluster 0).tape 7).state = .empty)
    ∧ (atomicTask two).me.act.ctl.getLsbD 63 = true :=
  ⟨⟨⟨by decide, by decide, by decide⟩, alone_of (by decide) (by decide) (by decide), by decide, by decide, by decide, by decide,
    by decide, by decide, by decide, by decide, by decide, within_of (by decide), clean_of (by decide), by decide, by decide,
    by decide⟩, by decide⟩

theorem witness_TapesRecorded_record : (let s := recording
      OnCore s 0 0 r2 ∧ Alone s [.x 2, .x 3, .x 4] ∧ s.me.act.ctl.getLsbD 63 = false ∧ s.tapeOf? s.cur .recording = some 7
        ∧ s.tapeOf? s.cur .decanting = none ∧ s.me.rackFault = 0 ∧ s.resolve s.cur (s.me.x 2) = some 1 ∧ 1 / 64 = r2.role / 64
        ∧ (s.me.x 3).toNat = 65535 ∧ 1 ≤ (s.cluster 0).freeLines ∧ ((s.cluster 0).tape 7).patchSlots ≤ 64 ∧ s.me.trelFault = 0
        ∧ s.trelRoom (clusterOf 0) = true) :=
  ⟨⟨by decide, by decide, by decide⟩, alone_of (by decide) (by decide) (by decide), by decide, by decide, by decide, by decide,
    by decide, by decide, by decide, by decide, by decide, by decide, by decide⟩

theorem witness_TapesRecorded_drop : (let s := sealedTape
      OnCore s 0 0 r2 ∧ Alone s [.x 1, .x 1, .x 4] ∧ s.me.act.ctl.getLsbD 63 = false ∧ s.tapeOf? s.cur .recording = none
        ∧ (s.me.x 1).toNat % 8 = 7 ∧ (s.me.x 1).toNat / 2 ^ 9 % 2 ^ 3 = 0 ∧ ((s.cluster 0).tape 7).state = .sealed
        ∧ ((s.cluster 0).tape 7).tenant = s.tenantOf s.cur ∧ ((s.cluster 0).tape 7).key = (s.me.x 1).toNat / 2 ^ 32) :=
  ⟨⟨by decide, by decide, by decide⟩, alone_of (by decide) (by decide) (by decide), by decide, by decide, by decide, by decide,
    by decide, by decide, by decide⟩

/-- Tape 7 with key 5, one run-time value, a guard that fails where `bad`, and a RELSLOT of 65,535 to role 1. -/
def relTape (st : TapeState) (bad : Bool) (owner : Option Agent) : Tape :=
  { Tape.init with
    state := st
    key := 5
    npv := 1
    owner := owner
    guards := if bad then [.press 0 0] else []
    cmds := [⟨BitVec.ofNat 32 ((0x2C * 2 ^ 7 + 4) * 2 ^ 19), [1, 65535], []⟩, ⟨0, [1], [(0, 1)]⟩] }

/-- The world with that tape; X1 names it, one value at 0x3FEF8, and X2 the same with no value. -/
noncomputable def decanting (t : Tape) : State :=
  (boxed (xs two [(1, toWord (5 * 2 ^ 32 + 0x3FEF8 * 2 ^ 12 + 1 * 2 ^ 4 + 7)), (2, toWord (5 * 2 ^ 32 + 7))])).onCluster 0 fun c =>
    { c with tapes := [(7, t)] }

theorem witness_TapesDecanted : (let s := decanting (relTape .sealed false none)
      OnCore s 0 0 r2 ∧ Alone s [.x 1, .x 4] ∧ Straight s ∧ s.me.act.ctl.getLsbD 63 = false ∧ s.tapeOf? s.cur .recording = none
        ∧ (s.me.x 1).toNat % 8 = 7 ∧ (s.me.x 1).toNat / 2 ^ 3 % 2 = 0 ∧ (s.me.x 1).toNat / 2 ^ 9 % 2 ^ 3 = 0
        ∧ (s.me.x 1).toNat / 2 ^ 30 % 4 = 0 ∧ (s.me.x 1).toNat / 2 ^ 4 % 2 ^ 5 = 1 ∧ (s.me.x 1).toNat / 2 ^ 12 % 2 ^ 18 = 0x3FEF8
        ∧ s.me.queue = [] ∧ Within s 0x3FEF8 8 ∧ Clean s 0 0x3FEF8 8 ∧ ((s.cluster 0).tape 7).state = .sealed
        ∧ ((s.cluster 0).tape 7).tenant = s.tenantOf s.cur ∧ ((s.cluster 0).tape 7).key = (s.me.x 1).toNat / 2 ^ 32
        ∧ ((s.cluster 0).tape 7).npv = 1 ∧ s.checkGuards s.cur ((s.cluster 0).tape 7).badLines 0 ((s.cluster 0).tape 7).guards = .checked .ok ∧ Alone s [.x 2, .x 4] ∧ (s.me.x 2).toNat / 2 ^ 4 % 2 ^ 5 = 0)
    ∧ (let s := decanting (relTape .sealed true none)
      Straight s ∧ Alone s [.x 1, .x 4] ∧ s.checkGuards s.cur ((s.cluster 0).tape 7).badLines 0 ((s.cluster 0).tape 7).guards = .checked (.fails 0x12 0))
    ∧ (let s := decanting { relTape .sealed true none with badLines := [0] }
      s.checkGuards s.cur ((s.cluster 0).tape 7).badLines 0 ((s.cluster 0).tape 7).guards = .badLine 0)
    ∧ (decanting (relTape .decanting false (some (.slot 0 1)))).tapeOf? (.slot 0 1) .decanting = some 7 :=
  ⟨⟨⟨by decide, by decide, by decide⟩, alone_of (by decide) (by decide) (by decide), ⟨by decide, by decide⟩, by decide, by decide,
      by decide, by decide, by decide, by decide, by decide, by decide, by decide, within_of (by decide), clean_of (by decide),
      by decide, by decide, by decide, by decide, by decide, alone_of (by decide) (by decide) (by decide), by decide⟩,
    ⟨⟨by decide, by decide⟩, alone_of (by decide) (by decide) (by decide), by decide⟩, by decide, by decide⟩

/-- The slot holds for the sequencer of that tape, at record `n`. -/
noncomputable def sequencing (n : Nat) : State :=
  flow (decanting { relTape .decanting false (some (.slot 0 0)) with next := n }) fun k => { k with hold := some .decant }

theorem witness_TapesDecanted_records : (let s := sequencing 0
      OnCore s 0 0 r2 ∧ s.tapeOf? s.cur .decanting = some 7 ∧ s.me.ctl.hold = some .decant ∧ s.me.ctl.quiesced = false
        ∧ ((s.cluster 0).tape 7).lineBad ((s.cluster 0).tape 7).next = false
        ∧ ((s.cluster 0).tape 7).cmd? ((s.cluster 0).tape 7).next
          = some ⟨BitVec.ofNat 32 ((0x2C * 2 ^ 7 + 4) * 2 ^ 19), [1, 65535], []⟩
        ∧ (BitVec.ofNat 32 ((0x2C * 2 ^ 7 + 4) * 2 ^ 19)).toNat / 2 ^ 19 = 0x2C * 2 ^ 7 + 4 ∧ s.me.rackFault = 0
        ∧ s.tapeOf? s.cur .recording = none ∧ s.resolve s.cur 1 = some 1)
    ∧ (let s := sequencing 1
      s.tapeOf? s.cur .decanting = some 7 ∧ s.me.ctl.hold = some .decant ∧ ((s.cluster 0).tape 7).lineBad 1 = false
        ∧ ((s.cluster 0).tape 7).cmd? ((s.cluster 0).tape 7).next = some ⟨0, [1], [(0, 1)]⟩ ∧ s.me.decantPv.length ≤ 1)
    ∧ (let s := sequencing 2
      s.tapeOf? s.cur .decanting = some 7 ∧ s.me.ctl.hold = some .decant ∧ ((s.cluster 0).tape 7).lineBad 2 = false
        ∧ ((s.cluster 0).tape 7).base + ((s.cluster 0).tape 7).cmds.length ≤ ((s.cluster 0).tape 7).next) :=
  ⟨⟨⟨by decide, by decide, by decide⟩, by decide, by decide, by decide, by decide, by decide, by decide, by decide, by decide,
    by decide⟩, by decide, by decide⟩

/-- Slot 0 of core 0 has trapped on an undefined word, and cellarer core 0 issues at SUPERVISOR. -/
noncomputable def serving (l : List (BitVec 5 × Word)) : State :=
  let s := after (.illegalInstruction 0) two
  xs { (s.onCtx (.cel 0) fun c => { cel.ctx (.cel 0) with queue := c.queue }) with cur := .cel 0 } l

theorem witness_ResumeAndAbort : (let s := serving [(1, toWord (1 * 2 ^ 48)), (2, 1), (3, 2), (4, toWord (2 * 2 ^ 48)), (5, toWord (2 ^ 47))]
      Serves s [.x 1, .x 2, .x 31] ∧ Serves s [.x 1, .x 3, .x 31] ∧ Serves s [.x 4, .x 3, .x 31] ∧ s.me.queue = []
        ∧ NamesSlot s (s.me.x 1) 0 0 ∧ Fresh s (s.me.x 1) 0 0 ∧ ¬ Fresh s (s.me.x 4) 0 0 ∧ s.me.x 2 = 1 ∧ 1 < (s.me.x 3).toNat
        ∧ Canonical s ∧ (s.ctx (.slot 0 0)).firstPoison = none ∧ (s.ctx (.slot 0 0)).rackFault = 0
        ∧ (s.ctx (.slot 0 0)).pressFault = 0 ∧ (s.ctx (.slot 0 0)).trelFault = 0 ∧ s.tokenCore (s.me.x 5) = none) :=
  ⟨serves_of (by decide) (by decide) (by decide) (by decide) (by decide) (by decide),
    serves_of (by decide) (by decide) (by decide) (by decide) (by decide) (by decide),
    serves_of (by decide) (by decide) (by decide) (by decide) (by decide) (by decide), by decide, by unfold NamesSlot; decide,
    by unfold Fresh; decide, by unfold Fresh; decide, by decide, by decide, canonical_of (by decide) (by decide) (by decide),
    by decide, by decide, by decide, by decide, by decide⟩

/-- A copy of the first two rows of the tensor at 0x2000 to that at 0x3000, which counts at role 1. -/
def job0 : Job :=
  ⟨9, .rack, 0, 0, 0, 1, 0, 1, rows4 0 0 2, rows4 1 0 2, descOf 0x1000 (descWords 0x2000), descOf 0x1040 (descWords 0x3000), [], [],
    [], [], some (2 ^ 18 + 0x3FEF8), 0, [], 0, 1, [0], [], [], [], [], none, none, 0, 0⟩

/-- `serving` with a job in entry 15 and a stream, both parked on a fault of slot 0. -/
noncomputable def servingUnits : State :=
  let s := serving [(1, toWord (15 * 2 ^ 22 + 1 * 2 ^ 19)), (2, toWord (2 * 2 ^ 19))]
  let s := s.onCore 0 fun k => { k with inflight := [(15, { job0 with parked := some (5, 0x2000) })] }
  s.setStream 0 (some ⟨pairs0, 0, 0, [], [0], 0, some (5, 0x2000)⟩)

theorem witness_ResumeAndAbort_units : (let s := servingUnits
      Serves s [.x 1, .x 0, .x 31] ∧ Serves s [.x 2, .x 0, .x 31] ∧ s.me.queue = [] ∧ s.tokenCore (s.me.x 1) = some 0
        ∧ (s.me.x 1).toNat / 2 ^ 19 % 8 = 1 ∧ s.tokenJob 0 (s.me.x 1) = some { job0 with parked := some (5, 0x2000) }
        ∧ s.tokenCore (s.me.x 2) = some 0 ∧ (s.me.x 2).toNat / 2 ^ 19 % 8 = 2 ∧ (s.tokenStream 0 (s.me.x 2)).isSome = true ∧ s.me.x 0 = 0) :=
  ⟨serves_of (by decide) (by decide) (by decide) (by decide) (by decide) (by decide),
    serves_of (by decide) (by decide) (by decide) (by decide) (by decide) (by decide), by decide, by decide, by decide, by decide,
    by decide, by decide, by decide, by decide⟩

theorem witness_SlotStateAndFaultQueue : (let s := serving [(1, toWord (1 * 2 ^ 48)), (2, 0x1F), (3, 0x20), (4, 0x23), (5, 0x100), (6, 0x1FF),
        (7, 0x24), (8, 0x200), (9, 0x21), (10, 0x22)]
      Serves s [.x 1, .x 2, .x 31] ∧ Serves s [.x 1, .x 3, .x 31] ∧ Serves s [.x 1, .x 4, .x 31] ∧ Serves s [.x 1, .x 5, .x 31]
        ∧ Serves s [.x 1, .x 6, .x 31] ∧ Serves s [.x 1, .x 7, .x 31] ∧ Serves s [.x 1, .x 8, .x 31] ∧ Serves s [.x 1, .x 9, .x 31]
        ∧ Serves s [.x 1, .x 10, .x 31] ∧ NamesSlot s (s.me.x 1) 0 0 ∧ Fresh s (s.me.x 1) 0 0 ∧ s.tokenCore (s.me.x 1) = some 0) :=
  ⟨serves_of (by decide) (by decide) (by decide) (by decide) (by decide) (by decide),
    serves_of (by decide) (by decide) (by decide) (by decide) (by decide) (by decide),
    serves_of (by decide) (by decide) (by decide) (by decide) (by decide) (by decide),
    serves_of (by decide) (by decide) (by decide) (by decide) (by decide) (by decide),
    serves_of (by decide) (by decide) (by decide) (by decide) (by decide) (by decide),
    serves_of (by decide) (by decide) (by decide) (by decide) (by decide) (by decide),
    serves_of (by decide) (by decide) (by decide) (by decide) (by decide) (by decide),
    serves_of (by decide) (by decide) (by decide) (by decide) (by decide) (by decide),
    serves_of (by decide) (by decide) (by decide) (by decide) (by decide) (by decide),
    by unfold NamesSlot; decide, by unfold Fresh; decide, by decide⟩

/-- A fault record. -/
def rec0 : FaultRec := ⟨7, 5, 0x2000, 0x400000, 0, 0, 0, toWord (2 ^ 32)⟩

/-- `serving` at cluster 271: its kernel part holds a record, X2 is an address of memory, and C.FQW4 watches it. -/
noncomputable def watching (waits : Bool) : State :=
  let s := serving [(1, 271), (2, 0xC0)]
  let s := mine s fun c => { c with sp := { c.sp with fqw := c.sp.fqw.set 4 (toWord (2 ^ 15)) } }
  s.onCluster 271 fun c => { c with kernelQueue := if waits then [] else [rec0] }

theorem witness_SlotStateAndFaultQueue_fault : (let s := watching false
      Serves s [.x 1, .x 2, .x 31] ∧ s.cur = .cel 0 ∧ Canonical s ∧ (s.me.x 1).toNat = 271 ∧ s.partOfCluster 271 = s.partOf s.cur
        ∧ (s.me.x 2).toNat % 64 = 0 ∧ inMemory (s.me.x 2).toNat 64 = true ∧ s.foreignHbm s.cur (s.me.x 2).toNat = false ∧ s.me.queue = []
        ∧ (s.cluster 271).kernelQueue = [rec0]
        ∧ (∀ c, c < Config.clusters → watches s.me.sp.fqw c = true → s.partOfCluster c = s.partOf s.cur)
        ∧ watches s.me.sp.fqw 271 = true ∧ ∀ e, e < 271 → watches s.me.sp.fqw e = true → (s.cluster e).kernelQueue = [])
    ∧ (let s := watching true
      Serves s [.x 1, .x 2, .x 31] ∧ (∀ c, c < Config.clusters → watches s.me.sp.fqw c = true → s.partOfCluster c = s.partOf s.cur)
        ∧ ∀ c, c < Config.clusters → watches s.me.sp.fqw c = true → (s.cluster c).kernelQueue = []) :=
  ⟨⟨serves_of (by decide) (by decide) (by decide) (by decide) (by decide) (by decide), by decide,
      canonical_of (by decide) (by decide) (by decide), by decide, by decide, by decide, by decide, by decide, by decide, by decide,
      by decide, by decide, by decide⟩,
    serves_of (by decide) (by decide) (by decide) (by decide) (by decide) (by decide), by decide, by decide⟩

/-- The issuing slot has one entry, number 7, and a load, number 3, into a register. -/
noncomputable def queued (s : State) (w : Payload) : State :=
  mine s fun c => { c with queue := [⟨7, false, false, .cellar, 0, w, none, none⟩], loads := [⟨3, .x 5, [(7, none)], none, none, false, none, none⟩] }

/-- The entry of `queued`. -/
def entry7 (w : Payload) : Entry := ⟨7, false, false, .cellar, 0, w, none, none⟩

theorem canonical_two : Canonical two := canonical_of (by decide) (by decide) (by decide)

theorem witness_AccessesPerformed_stores :
    (∀ w ∈ ([.store (.slice 1 1 0x3FEF8) (toBytes 8 5) none false, .store (.slice 1 1 0x3FEFF) [0xA] (some true) false, .fulw (.slice 1 1 0x3FEF8),
      .empw (.slice 1 1 0x3FEF8)] : List Payload),
      MayPerform (queued two w) (.slot 0 0) 7 (entry7 w))
    ∧ (∀ w, Canonical (queued two w) ∧ (queued two w).noRoute (.slice 1 1 0x3FEF8) = false) :=
  ⟨by unfold MayPerform; decide, fun _ => ⟨canonical_two, rfl⟩⟩

theorem sound_of {s : State} {p : Loc} {n : Nat} (a : s.noRoute p = false) (b : s.poisonAt p n = none)
    (c : ∀ i, i < n → s.poisonAt (p.add i) 1 = none) : Sound s p n := ⟨a, b, c⟩

theorem witness_AccessesPerformed_loads :
    (∀ w ∈ ([.load 3 (.mem 0x50FFF8) 8 0, .ldf 3 (.slice 1 1 0x3FEF8), .few 3 (.slice 1 1 0x3FEF8), .status 3 6,
        .atomic 3 (.mem 0x50FFF8) .minp true 2 3] : List Payload),
      MayPerform (queued two w) (.slot 0 0) 7 (entry7 w)
        ∧ ((queued two w).ctx (.slot 0 0)).loadOf? 3 = some ⟨3, .x 5, [(7, none)], none, none, false, none, none⟩
        ∧ Sound (queued two w) (.mem 0x50FFF8) 8 ∧ Sound (queued two w) (.slice 1 1 0x3FEF8) 8
        ∧ (queued two w).coreOf? 1 1 = some 1 ∧ ((queued two w).core 1).isFull 0x3FEF8 = true
        ∧ earlier ((queued two w).ctx (.slot 0 0)).queue 7 = [] ∧ Canonical (queued two w)) := by
  intro w hw
  simp only [List.mem_cons, List.not_mem_nil, or_false] at hw
  rcases hw with rfl | rfl | rfl | rfl | rfl <;>
    exact ⟨by unfold MayPerform; decide, by decide, sound_of (by decide) (by decide) (by decide),
      sound_of (by decide) (by decide) (by decide), by decide, by decide, by decide, canonical_of (by decide) (by decide) (by decide)⟩

/-- A load of role 0's own slice, which keeps its slot, waits to be performed, with words of the slice marked. -/
noncomputable def owing (w : Payload) (empty poison : List Nat) : State :=
  let s := mine two fun c => { c with
    queue := [⟨7, false, false, .cellar, 0x2000, w, none, none⟩]
    loads := [⟨3, .x 5, [(7, none)], none, none, false, some c.ctl, none⟩]
    ctl := c.ctl.advance }
  s.onCore 0 fun k => { k with emptyWords := empty, poisonWords := poison }

theorem witness_AccessesPerformed_traps :
    (∀ p ∈ ([(.ldf 3 (.slice 1 0 0x2000), [0x400], []), (.ldf 3 (.slice 1 0 0x2000), [], [0x400]),
        (.load 3 (.slice 1 0 0x2000) 8 0, [], [0x400])] : List (Payload × List Nat × List Nat)),
      let s := owing p.1 p.2.1 p.2.2
      let c := s.ctx (.slot 0 0)
      MayPerform s (.slot 0 0) 7 ⟨7, false, false, .cellar, 0x2000, p.1, none, none⟩
        ∧ c.loadOf? 3 = some ⟨3, .x 5, [(7, none)], none, none, false, some two.me.ctl, none⟩ ∧ c.owedBefore 3 = []
        ∧ earlier c.queue 7 = [] ∧ s.coreOf? 1 0 = some 0 ∧ (s.core 0).isFull 0x2000 = decide (p.2.1 = [])
        ∧ s.poisonAt (.slice 1 0 0x2000) 8 = (if p.2.2 = [] then none else some 0)
        ∧ (s.poisonAt (.slice 1 0 0x2000) 1).isSome = decide (p.2.2 ≠ []))
    ∧ (owing (.atomic 3 (.slice 1 0 0x2000) .add true 2 3) [] []).coreOf? 1 0 = some 0
    ∧ Sound (owing (.atomic 3 (.slice 1 0 0x2000) .add true 2 3) [] []) (.slice 1 0 0x2000) 8
    ∧ MayPerform (owing (.atomic 3 (.slice 1 0 0x2000) .add true 2 3) [] []) (.slot 0 0) 7
        ⟨7, false, false, .cellar, 0x2000, .atomic 3 (.slice 1 0 0x2000) .add true 2 3, none, none⟩ :=
  ⟨by unfold MayPerform; decide, by decide, sound_of (by decide) (by decide) (by decide), by unfold MayPerform; decide⟩

theorem witness_AccessesPerformed_reductions :
    (∀ w ∈ ([.reduce (.mem 0x50FFF8) .add false 2, .reduce (.peer 1 0x50FFF8) .add false 2] : List Payload),
      MayPerform (queued two w) (.slot 0 0) 7 (entry7 w) ∧ (queued two w).inPacket 7 = false)
    ∧ Sound two (.mem 0x50FFF8) 4 ∧ two.noRoute (.peer 1 0x50FFF8) = false :=
  ⟨by unfold MayPerform; decide, sound_of (by decide) (by decide) (by decide), by decide⟩

theorem witness_AccessesPerformed_tree : (let s := (queued two (.tree 3 (.slice 1 0 0x3FF88))).onCore 0 fun k => { k with text := [⟨5, 7⟩] }
      let c := s.ctx (.slot 0 0)
      MayPerform s (.slot 0 0) 7 (entry7 (.tree 3 (.slice 1 0 0x3FF88))) ∧ (s.core (coreNo (.slot 0 0))).text = [⟨5, 7⟩]
        ∧ c.loadOf? 3 = some ⟨3, .x 5, [(7, none)], none, none, false, none, none⟩ ∧ c.ctl.status = .running
        ∧ c.owedBefore 3 = []) := by
  unfold MayPerform; decide

/-- A load of one performed part. -/
noncomputable def replied (p : Option Nat) : State :=
  mine two fun c => { c with
    ctl := { c.ctl with status := .blocked, awaits := some (.x 5) }
    loads := [⟨3, .x 5, [(7, some [1, 2, 3, 4])], none, p, false, none, none⟩] }

theorem witness_AccessesPerformed_replies :
    ((replied none).ctx (.slot 0 0)).loadOf? 3 = some ⟨3, .x 5, [(7, some [1, 2, 3, 4])], none, none, false, none, none⟩
    ∧ ((replied none).ctx (.slot 0 0)).ctl.status = .blocked ∧ ((replied none).ctx (.slot 0 0)).ctl.awaits = some (.x 5)
    ∧ ((replied (some 0x2000)).ctx (.slot 0 0)).loadOf? 3 = some ⟨3, .x 5, [(7, some [1, 2, 3, 4])], none, some 0x2000, false, none, none⟩
    ∧ ((replied none).ctx (.slot 0 0)).owedBefore 3 = [] :=
  ⟨by decide, by decide, by decide, by decide, by decide⟩

/-- A message of kind 1 from role 0 to a channel. -/
def msg0 (channel : Nat) : Msg := ⟨1, 4, 0, 3, channel, toBytes 4 9⟩

/-- The head of the send queue of core 0, and a message that has arrived at the mailbox of channel 5 of core 1. -/
noncomputable def mailed : State :=
  let s := queued two (.message 1 (msg0 5))
  let s := s.onCore 0 fun k => { k with sendQueue := [(7, 1, msg0 5)] }
  let s := s.onCore 1 fun k => { k with handlers := [(5, ⟨true, false, false, 3, 0x100000, 4, 0x10, 1, true, 511, 0, 0, false⟩)] }
  { s with mesh := [⟨4, 1, 1, msg0 5, none⟩] }

theorem witness_MessagesAndUpdates : (let s := mailed
      Canonical s ∧ (s.core 0).sendQueue = [(7, 1, msg0 5)] ∧ s.holderOf 0 7 = some (.slot 0 0)
        ∧ MayPerform s (.slot 0 0) 7 (entry7 (.message 1 (msg0 5))) ∧ s.stalledBy s.mesh (s.launchOf (.slot 0 0)) 1 = false
        ∧ s.mesh.find? (fun m => decide (m.id = 4)) = some ⟨4, 1, 1, msg0 5, none⟩ ∧ s.coreOf? 1 1 = some 1
        ∧ s.atHead ⟨4, 1, 1, msg0 5, none⟩ = true ∧ s.saving 1 = false
        ∧ s.stalledBy (s.mesh.takeWhile fun o => decide (o.id ≠ 4)) 1 1 = false
        ∧ (∃ bd, (s.core 1).binding = some bd ∧ bd.ended = false) ∧ ((s.core 1).handler 5).mv = true
        ∧ ((s.core 1).handler 5).count < 2 ^ ((s.core 1).handler 5).mlog ∧ (s.core 1).mailLast.find? 5 = none ∧ s.failing 1 = false)
    ∧ (let s : State := { mailed with groups := mailed.groups.map fun (p : Nat × Group) => (p.1, { p.2 with phase := .saving }) }
      MayPerform s (.slot 0 0) 7 (entry7 (.message 1 (msg0 5))) ∧ s.saving (s.launchOf (.slot 0 0)) = true) :=
  ⟨⟨canonical_of (by decide) (by decide) (by decide), by decide, by decide, by unfold MayPerform; decide, by decide, by decide, by decide,
    by decide, by decide, by decide, ⟨_, rfl, by decide⟩, by decide, by decide, by decide, by decide⟩, by unfold MayPerform; decide⟩

/-- A join counter of 1 at 0x3FEF8 that pushes the TCB at 0x1000, and a decrement of it by `n`. -/
noncomputable def joining (n : Nat) : State :=
  laid (queued two (.decr (.slice 1 0 0x3FEF8) n)) 0x3FEF8 [toWord (2 ^ 63 + 0x40 * 2 ^ 48 + 1)]

theorem witness_MessagesAndUpdates_decrements : (∀ n ∈ [1, 2], let s := joining n
      Canonical s ∧ MayPerform s (.slot 0 0) 7 (entry7 (.decr (.slice 1 0 0x3FEF8) n)) ∧ 0 < s.nroles (.slot 0 0) ∧ s.coreOf? 1 0 = some 0
        ∧ (s.core 0).ringInput = [] ∧ (s.core 0).ring.length < 256)
    ∧ ((joining 1).core 0).slice.word (0x3FEF8 / 8 * 8) = toWord (2 ^ 63 + 0x40 * 2 ^ 48 + 1) ∧ (∃ g, (joining 2).group? 1 = some g)
    ∧ (∃ bd, ((joining 1).core 0).binding = some bd ∧ bd.ended = false) := by
  refine ⟨fun n hn => ?_, by decide, ⟨_, rfl⟩, ⟨_, rfl, by decide⟩⟩
  simp only [List.mem_cons, List.not_mem_nil, or_false] at hn
  rcases hn with rfl | rfl <;>
    exact ⟨canonical_of (by decide) (by decide) (by decide), by unfold MayPerform; decide, by decide, by decide, by decide, by decide⟩

/-- A push that waits at a ring of 255 entries, a credit of 65,535, and two queries of a pump at its last number. -/
noncomputable def moving : State :=
  let s := queued two (.credit 1 65535)
  let s := s.onCore 0 fun k => { k with ringInput := [0x40], ring := List.replicate 255 1 }
  { s with groups := s.groups.map fun (p : Nat × Group) => (p.1, { p.2 with pump := some ⟨2, 2, 1, 1, 0, 3, [⟨0, 0, 0x3FEF8⟩, ⟨1, 1, 0x100⟩], none⟩ }) }

theorem witness_MessagesAndUpdates_credits : (let s := moving
      Canonical s ∧ (s.core 0).ringInput = [0x40] ∧ (s.core 0).ring.length < 256
        ∧ MayPerform s (.slot 0 0) 7 (entry7 (.credit 1 65535)) ∧ s.coreOf? (s.launchOf (.slot 0 0)) 1 = some 1
        ∧ (∃ g, s.group? 1 = some g ∧ g.pump = some ⟨2, 2, 1, 1, 0, 3, [⟨0, 0, 0x3FEF8⟩, ⟨1, 1, 0x100⟩], none⟩) ∧ s.coreOf? 1 0 = some 0
        ∧ 0x3FEF8 % 8 = 0) :=
  ⟨canonical_of (by decide) (by decide) (by decide), by decide, by decide, by unfold MayPerform; decide, by decide, ⟨_, rfl, by decide⟩,
    by decide, by decide⟩

/-- Every slot of core 0 but slot 3 is FREE; channel 5, the ring's codelet 0x40 and slot 3, YIELDED, are candidates. -/
noncomputable def waiting (prio : Nat) (ring : Bool) (yields : Nat) : State :=
  let s := two.onCtx (.slot 0 0) fun c => { c with ctl := { c.ctl with status := .free } }
  let s := s.onCtx (.slot 0 3) fun c => { c with ctl := { c.ctl with status := .yielded }, sp := { c.sp with eprio := yields } }
  (laid s 0x1000 [toWord (4 * 2 ^ 60 + 0x400000), 0]).onCore 0 fun k => { k with
    handlers := [(5, ⟨true, true, false, prio, 0x100000, 0x40, 0x10, 1, true, 511, 0, 0, false⟩)]
    ring := if ring then [0x40] else [] }

theorem witness_Admissions : (let s := waiting 5 true 0
      s.winner 0 = some ⟨.chan 5, 5, 0, 5⟩ ∧ s.freeSlot 0 = some 0 ∧ ((s.core 0).handler 5).tcbp * 64 = 0x1000)
    ∧ (let s := waiting 3 true 0
      s.winner 0 = some ⟨.ring, 4, 0, 72⟩ ∧ s.freeSlot 0 = some 0 ∧ (s.core 0).ring.headD 0 * 64 = 0x1000)
    ∧ (waiting 3 true 7).winner 0 = some ⟨.slot 3, 7, 0, 67⟩
    ∧ ∀ cand ∈ ([.chan 5, .ring, .slot 3] : List Cand), (((waiting 3 true 0).bids 0).find? (fun b => decide (b.cand = cand))).isSome = true :=
  ⟨⟨by decide, by decide, by decide⟩, ⟨by decide, by decide, by decide⟩, by decide, by decide⟩

/-- Core 0 has executed DONE, and its slots are FREE. -/
noncomputable def finished : State :=
  (two.onCtx (.slot 0 0) fun c => { c with ctl := { c.ctl with status := .free } }).onCore 0 fun k => { k with
    binding := some { r2 with ended := true } }

theorem witness_Admissions_done : (let s := finished
      (s.core 0).binding = some { r2 with ended := true } ∧ (∃ g, s.group? 1 = some g)
        ∧ ∀ n, n < 8 → (s.ctx (.slot 0 n)).ctl.status = .free) :=
  ⟨by decide, ⟨_, rfl⟩, by decide⟩

/-- An UNLEASE of slot 0 of core 0. -/
def unlease0 : PressCmd := ⟨9, .unlease, 0, 0, 0, 1, 0, 2, 0, [], [], 0, 0, 0, [], false⟩

theorem witness_CommitsAndWaits_engines : ∀ c ∈ ([.rack job0, .press unlease0, .trel pairs0] : List EngCmd),
    let s := { queued two (.engine c) with now := 1 }
    MayPerform s (.slot 0 0) 7 (entry7 (.engine c)) ∧ s.placeable (coreNo (.slot 0 0)) 7 c = true := by
  unfold MayPerform; decide

theorem witness_CommitsAndWaits_waits : (∀ h ∈ ([.waitc 0x3FEF8 0, .waitc 0x3FEF8 1, .jobs [], .jobs [9]] : List Hold),
      (flow two fun k => { k with hold := some h }).tapeOf? (.slot 0 0) .decanting = none
        ∧ ((flow two fun k => { k with hold := some h }).ctx (.slot 0 0)).ctl.quiesced = false
        ∧ ((flow two fun k => { k with hold := some h }).ctx (.slot 0 0)).ctl.hold = some h)
    ∧ ((flow two fun k => { k with hold := some (.jobs []), quiesced := true }).ctx (.slot 0 0)).ctl.quiesced = true := by decide

/-- A sealed buffer of the issuing slot. -/
noncomputable def sealedBuffer (l : List Effect) : State :=
  mine two fun c => { c with
    ctl := { c.ctl with hold := some .commit }
    act := { c.act with ctl := c.act.ctl ||| toWord (2 ^ 63), sealed := true, buffer := l } }

/-- The store of eight bytes that sealed buffers hold. -/
def store6 (va : Nat) : Effect := .store va (toBytes 8 6) none false

theorem goesTo_of {s : State} {core n pa len : Nat} {f : Effect} {p : Part} (h : s.fateOf core n f = .go [p]) (l : p.loc = .mem pa)
    (k : p.n = len) (g : (s.ctx (.slot core n)).touches (.go [p]) = false) : GoesTo s core n f pa len := ⟨[p], h, by simp [l, k], g⟩

theorem witness_CommitsAndWaits_commits : (∀ l ∈ ([[], [store6 0x50FFF8], [store6 0x50FFF8, store6 0x50FFFC], [.reduce 0x50FFF8 .add true 5],
        [.rack job0], [store6 0x50FFF8, .message 1 (msg0 5)], [.message 1 (msg0 5)]] : List (List Effect)),
      let s := sealedBuffer l
      let c := s.ctx (.slot 0 0)
      c.commitReady = true ∧ c.firstPoison = none ∧ c.rackFault = 0 ∧ c.pressFault = 0 ∧ c.trelFault = 0
        ∧ c.act.join.getLsbD 63 = false ∧ c.act.buffer = l ∧ (s.core 0).sendQueue = [] ∧ (s.core 0).msgsWait = false
        ∧ s.rackRoom 0 = true ∧ s.unplaced 0 EngCmd.isRack = [])
    ∧ (∀ l, Canonical (sealedBuffer l) ∧ ∃ g, (sealedBuffer l).group? 1 = some g ∧ g.phase = .run) :=
  ⟨by decide, fun _ => ⟨canonical_two, _, rfl, rfl⟩⟩

/-- The page of global memory that `two` maps. -/
def ent5 : Word × Word := (toWord (0x500000 + 1), toWord (2 ^ 63 + 2 ^ 59 + 2 ^ 58 + 2 ^ 57 + 0x500000))

theorem witness_CommitsAndWaits_places : (∀ l ∈ ([[store6 0x50FFF0, store6 0x50FFF4], [.reduce 0x50FFF8 .add true 5]] : List (List Effect)),
      let s := sealedBuffer l
      (∀ va ∈ [0x50FFF0, 0x50FFF4], s.fateOf 0 0 (store6 va) = .go [⟨va, 8, .mem va, .rc, ent5⟩])
        ∧ s.fateOf 0 0 (.reduce 0x50FFF8 .add true 5) = .go [⟨0x50FFF8, 8, .mem 0x50FFF8, .rc, ent5⟩])
    ∧ GoesTo (sealedBuffer [store6 0x50FFF8]) 0 0 (store6 0x50FFF8) 0x50FFF8 8
    ∧ Sound (sealedBuffer [.reduce 0x50FFF8 .add true 5]) (.mem 0x50FFF8) 8 :=
  ⟨by decide, goesTo_of (p := ⟨0x50FFF8, 8, .mem 0x50FFF8, .rc, ent5⟩) (by decide) rfl rfl (by decide), sound_of (by decide) (by decide) (by decide)⟩

/-- Core 0 keeps a message and a copy of a sealed buffer, and its vector engine's queue is not empty. -/
noncomputable def effectsWait : State :=
  (two.onCtx (.slot 0 2) fun c => { c with ctl := { c.ctl with status := .stalled, stallOn := some .vector } }).onCore 0 fun k =>
    { k with sealed := [⟨1, [.message 1 (msg0 5), .rack job0]⟩], vecQueue := [9] }

theorem witness_CommitsAndWaits_effects : (let s := effectsWait
      (s.core 0).waitingEffects[0]? = some (.message 1 (msg0 5)) ∧ ((s.core 0).waitingEffects.take 0).any Effect.isMessage = false
        ∧ (s.core 0).sendQueue = [] ∧ s.stalledBy s.mesh (s.launchOf (.slot 0 0)) 1 = false
        ∧ (s.core 0).waitingEffects[1]? = some (.rack job0) ∧ ((s.core 0).waitingEffects.take 1).any Effect.isRack = false
        ∧ (s.core 0).rackQueue.length < 2 ∧ s.unplaced 0 EngCmd.isRack = [] ∧ (s.core 0).vecQueue = [9]
        ∧ (s.ctx (.slot 0 2)).ctl.status = .stalled ∧ (s.ctx (.slot 0 2)).ctl.stallOn = some .vector) :=
  ⟨by decide, by decide, by decide, by decide, by decide, by decide, by decide, by decide, by decide, by decide, by decide⟩

/-- The tensors of `job0`, with the job in the queue, in entry 3 with its first granule begun, or with that granule written. -/
noncomputable def racking : State :=
  (laid two 0x2000 [0x0706050403020100]).onCore 0 fun k => { k with
    rackQueue := [{ job0 with begun := 0 }]
    inflight := [(3, job0), (4, { job0 with id := 10, written := [((0, 0), upFrom 0 8)] })] }

theorem witness_RackingSteps : (let s := racking
      Canonical s ∧ (s.core 0).rackQueue = [{ job0 with begun := 0 }] ∧ (s.core 0).freeEntry = some 0 ∧ s.saving 1 = false
        ∧ ({ job0 with begun := 0 } : Job).settle.complete = false ∧ (s.core 0).jobOf? 9 = some (3, job0) ∧ job0.kind.isCopy = true
        ∧ job0.doomed = none ∧ job0.parked = none ∧ job0.start / 512 ≤ 0 ∧ 0 < job0.begun ∧ 0 < job0.granules ∧ 0 < job0.receivers
        ∧ 7 ∈ granuleBytes job0.cellsA.length job0.da.width 0 ∧ 7 ∉ job0.writtenAt 0 0 ∧ job0.got.find? (0, 7) = none ∧ s.jobHeld job0 = false) :=
  ⟨canonical_of (by decide) (by decide) (by decide), by decide, by decide, by decide, by decide, by decide, by decide, by decide, by decide,
    by decide, by decide, by decide, by decide, by decide, by decide, by decide, by decide⟩

/-- A RACKZ.D without blocks at the head of the queue of core 0. -/
def empty0 : Job := { job0 with kind := .rackzD, qb := { rows4 1 0 2 with boxes := [] }, begun := 0 }

/-- A RACKZ.C without blocks, which counts at role 1. -/
def empty1 : Job := { empty0 with kind := .rackzC, qa := { rows4 0 0 2 with boxes := [] } }

theorem witness_RackingSteps_onlyLength : (let s := two.onCore 0 fun k => { k with rackQueue := [empty1] }
      (s.core 0).rackQueue = [empty1] ∧ (s.core 0).freeEntry = some 0 ∧ s.saving 1 = false ∧ empty1.kind = .rackzC ∧ empty1.granules = 0
        ∧ empty1.doomed = none)
    ∧ (let s := two.onCore 0 fun k => { k with inflight := [(3, empty1)] }
      (s.core 0).jobOf? 9 = some (3, empty1) ∧ s.jobHeld empty1 = false ∧ empty1.counterAt 0 = some (1, 0x3FEF8) ∧ s.coreOf? 1 1 = some 1
        ∧ 0x3FEF8 % 8 = 0) := by decide

theorem witness_RackingSteps_leftBytes : (let s := two.onCore 0 fun k => { k with rackQueue := [empty0] }
      (s.core 0).rackQueue = [empty0] ∧ (s.core 0).freeEntry = some 0 ∧ s.saving 1 = false ∧ empty0.kind = .rackzD ∧ empty0.granules = 0
        ∧ empty0.cellsA = [0, 0] :: empty0.cellsA.drop 1 ∧ (s.ctx (.slot 0 empty0.slot)).act.id = empty0.act
        ∧ (s.ctx (.slot 0 empty0.slot)).ctl.status ≠ .free) := by decide

theorem witness_RackingSteps_hazards : (let s := racking
      let j := { job0 with id := 10, written := [((0, 0), upFrom 0 8)] }
      (s.core 0).jobOf? 10 = some (4, j) ∧ j.begun ≤ 1 ∧ (3, job0) ∈ (s.core 0).inflight ∧ job0.id < j.id
        ∧ job0.dstRuns = j.dstRuns ∧ job0.dstRuns.head? = some (false, 0x3000, 1))
    ∧ Overlap job0.dstRuns job0.dstRuns :=
  ⟨by decide, false, 0x3000, ⟨(false, 0x3000, 1), by decide, rfl, by decide, by decide⟩, (false, 0x3000, 1), by decide, rfl, by decide,
    by decide⟩

theorem apart_of {s : State} {ps : List (Loc × Nat)} (a : (ps.all fun p => (s.readLoc p.1).isSome) = true)
    (b : (ps.map fun p => (byteOf s p.1, p.2)).Nodup) : Apart s ps := by
  refine ⟨fun p h => List.all_eq_true.mp a p h, fun i k p q ne hi hk e => ?_⟩
  obtain ⟨li, ri⟩ := List.getElem?_eq_some_iff.mp hi
  obtain ⟨lk, rk⟩ := List.getElem?_eq_some_iff.mp hk
  have far := List.pairwise_iff_getElem.mp b
  rcases Nat.lt_or_gt_of_ne ne with h | h
  · exact far i k (by simpa using li) (by simpa using lk) h (by simp only [List.getElem_map, ri, rk, e])
  · exact far k i (by simpa using lk) (by simpa using li) h (by simp only [List.getElem_map, ri, rk, e])

theorem witness_RackingSteps_byte : (let s := racking
      let moves := (granuleBits job0.cellsA.length job0.da.width 0 7).map (job0.copyBit job0.cellsA 0)
      let dst := fun (x : Int) => (s.jobLoc job0 0 (job0.destDesc 0).global (x / 8), (x % 8).toNat)
      moves.length = 8 ∧ Apart s (moves.map fun p => dst p.2)) :=
  ⟨by decide, apart_of (by decide) (by decide)⟩

/-- A coder job alone in the in-flight set of core 0, whose source bytes at 0x2000 are 0, 1, 2, …, with its block 0. -/
noncomputable def coding (kind : RackKind) (qa : Region) (b : Block) : State :=
  (laid two 0x2000 [0x0706050403020100]).onCore 0 fun k => { k with
    inflight := [(3, { job0 with kind := kind, qa := qa, begun := 0, blocks := [(0, b)] })] }

/-- The region of one cell of the first tensor. -/
def cell4 (c : Int) : Region := ⟨0, 2, false, false, false, 0, 0, [[⟨0, 1, 0, 0⟩, ⟨c, c + 1, 0, 0⟩]]⟩

theorem witness_RackingSteps_coder :
    (∀ p ∈ ([(.rackzC, rows4 0 0 2, Block.init), (.rackzC, rows4 0 0 2, ⟨(upFrom 0 7).map fun n => (n, BitVec.ofNat 8 n), [], 0, false, []⟩),
        (.rackzD, cell4 0, Block.init), (.rackzD, cell4 1, Block.init), (.rackzD, cell4 0, ⟨[], toBytes 8 5, 1, false, [0]⟩)]
          : List (RackKind × Region × Block)),
      let s := coding p.1 p.2.1 p.2.2
      let j : Job := { job0 with kind := p.1, qa := p.2.1, begun := 0, blocks := [(0, p.2.2)] }
      (s.core 0).jobOf? 9 = some (3, j) ∧ j.doomed = none ∧ j.parked = none ∧ 0 < j.granules ∧ (s.core 0).hazardHolds j = false
        ∧ j.countedAt 0 ≤ 0 ∧ j.block 0 = p.2.2 ∧ s.jobHeld j = false ∧ 1 < 1024 ∧ j.codedTo 0 = true ∧ j.da.global = false ∧ j.db.global = false ∧ j.granuleCount 0 = 8
        ∧ (∀ c ∈ ([0x2000, 0x2001, 0x2007] : List Int), s.poisonAt (s.jobLoc j 0 false c) 1 = none)
        ∧ (p.1 = .rackzD → 0 < j.streamLen ∧ j.usedTo 0 + 1 = j.streamLen))
    ∧ decodeTokens [] 1 2 0 [] [0x00] = .done 1 [0] ∧ decodeTokens [] 1 2 0 [] [0x01] = .bad 0
    ∧ (∀ kind p b, Canonical (coding kind p b))
    ∧ (let s := coding .rackzD (cell4 0) ⟨[], toBytes 8 5, 1, false, [0]⟩
      let j : Job := { job0 with kind := .rackzD, qa := cell4 0, begun := 0, blocks := [(0, ⟨[], toBytes 8 5, 1, false, [0]⟩)] }
      1 < (toBytes 8 5).length ∧ Apart s ((streamByte j.db j.role j.cellsB (j.producedTo 0 + 1)).map fun x =>
        (s.jobLoc j 1 j.db.global (x / 8), (x % 8).toNat))) := by
  refine ⟨by decide, by decide, by decide, fun kind p b => ?_, by decide, apart_of (by decide) (by decide)⟩
  have base : ∀ n, ((laid two 0x2000 [0x0706050403020100]).core n).slice.wf = true :=
    (canonical_of (s := laid two 0x2000 [0x0706050403020100]) (by decide) (by decide) (by decide)).2.1
  refine ⟨by rfl, fun n => ?_, fun d => by rfl⟩
  by_cases h : n = 0
  · subst h; rw [coding, State.core_onCore_self]; exact base 0
  · rw [coding, State.core_onCore_ne _ _ _ _ h]; exact base n

theorem witness_RackingSteps_codes : ([1, 2, 3, 4, 5, 6, 7, 8] : List Byte).length % 8 = 0 ∧ 0 < 8 ∧ (1 < (5 : Byte).toNat % 64 + 1)
    ∧ Coded [] 0 [(0, 1)] [0] [0x00] := by
  refine ⟨by decide, by decide, by decide, by decide, by decide, by decide, ?_, by decide, [], [], rfl, by decide, by decide, by decide⟩
  intro i h
  have : i = 0 := by omega
  subst this; decide

/-- A PLOADW of core 0. -/
def load0 : PressCmd := { unlease0 with kind := .ploadw, addr := 0x1000, block := weightBlock }

/-- A DICTLD at the head of the queue of core 0, and a PLOADW of core 0 at the press. -/
noncomputable def loading : State :=
  (two.onCore 0 fun k => { k with rackQueue := [{ job0 with kind := .dictld, dictAt := 0x3F700 }] }).onCluster 0 fun c =>
    { c with press := { c.press with state := .busy 0 load0 } }

theorem witness_RackingSteps_counts : (let s := racking
      let j := { job0 with id := 10, written := [((0, 0), upFrom 0 8)] }
      (s.core 0).jobOf? 10 = some (4, j) ∧ j.counterAt 0 = some (1, 0x3FEF8) ∧ 0 < j.receivers ∧ j.countedAt 0 < j.granules
        ∧ j.granuleDone (j.countedAt 0) = true ∧ s.coreOf? j.launch 1 = some 1 ∧ j.doomed = none ∧ 0x3FEF8 % 8 = 0
        ∧ s.jobHeld j = false)
    ∧ (let s := loading
      Canonical s ∧ (s.core 0).rackQueue = [{ job0 with kind := .dictld, dictAt := 0x3F700 }] ∧ (s.core 0).inflight = []
        ∧ (s.core 0).slicePoison 0x3F700 2048 = none ∧ (s.cluster 0).press.state = .busy 0 load0 ∧ s.rowMayRead load0 0 0x400 = true
        ∧ s.launchMoves load0.launch = false ∧ (0 < 1 ∧ ∀ p ∈ load0.latched, p.1 / 2 ^ 28 ≠ 1 - 1)) :=
  ⟨by decide, canonical_of (by decide) (by decide) (by decide), by decide, by decide, by decide, by decide, by decide, by decide, by decide⟩

/-- The press of cluster 0 stands so, and so does the lease of core 0; the time is 70,000. -/
noncomputable def pressAt (st : PressState) (l : Lease) (q : List PressCmd) : State :=
  let s : State := { two with now := 70000 }
  let s := s.onCore 0 fun k => { k with lease := l, pressQueue := q }
  s.onCluster 0 fun c => { c with press := { c.press with state := st } }

/-- A lease of class 2 and rows 0 and 1. -/
def lease0 (held req : Bool) (cyc : Nat) : Lease := ⟨held, req, false, true, 2, 3, 0, 2, 0, cyc, cyc⟩

/-- Another core of the cluster asks at a priority. -/
noncomputable def rival (s : State) (prio : Nat) : State :=
  s.onCore 16 fun k => { k with lease := { lease0 false true 0 with prio := prio } }

/-- A block of FP4 elements. -/
def narrowBlock : List Word := weightBlock.set 1 (toWord ((6 * 2 ^ 28 + 4 * 2 ^ 21) * 2 ^ 32 + 256))

theorem witness_LeasesGrantedAndEnded : (let s := rival (pressAt .free (lease0 false true 0) []) 3
      let l := fun n => (s.core n).lease
      (s.cluster 0).press.state = .free ∧ (s.cluster 0).press.last < 17 ∧ (l 16).req = true
        ∧ ((s.cluster 0).press.last = 0 → ∀ j, j < 17 → j ≠ 16 → (l j).req = true → (l j).prio < (l 16).prio
          ∨ ((l j).prio = (l 16).prio ∧ (16 + 16 - 0) % 17 < (j + 16 - 0) % 17)))
    ∧ (let s := (pressAt (.asking 0) (lease0 false true 0) []).onCore 0 fun k => { k with latched := some weightBlock }
      (s.cluster 0).press.state = .asking 0 ∧ (s.core 0).binding = some r2 ∧ (s.core 0).lease.req = true
        ∧ (s.core 0).latched = some weightBlock ∧ (s.core 0).lease.wv = false
        ∧ rateClass (pressRate (blockFmt weightBlock)) ≤ (s.core 0).lease.pcls)
    ∧ ((pressAt (.asking 0) (lease0 false false 0) []).core 0).lease.req = false :=
  ⟨by decide, by decide, by decide⟩

theorem witness_LeasesGrantedAndEnded_reload : let s := (pressAt (.asking 0) { lease0 false true 0 with pcls := 0 } []).onCore 0 fun k =>
      { k with latched := some narrowBlock, loader := (0x1000, 0, 0) }
    (s.cluster 0).press.state = .asking 0 ∧ (s.core 0).binding = some r2 ∧ (s.core 0).lease.req = true
      ∧ (s.core 0).latched = some narrowBlock ∧ (s.core 0).lease.wv = false
      ∧ (s.core 0).lease.pcls < rateClass (pressRate (blockFmt narrowBlock))
      ∧ (s.ctx (.slot 0 0)).act.id = (s.core 0).loader.2.2 ∧ (s.ctx (.slot 0 0)).ctl.status ≠ .free := by decide

theorem witness_LeasesGrantedAndEnded_ends : (let s := rival (pressAt (.held 0) (lease0 true false 4464) []) 3
      (s.cluster 0).press.state = .held 0 ∧ (s.core 0).lease.held = true ∧ s.now - (s.core 0).lease.cyc = 65536
        ∧ 1024 ≤ s.now - (s.core 0).lease.idle ∧ (s.core 0).pressQueue = []
        ∧ ∃ j, j < 17 ∧ 17 * 0 + j ≠ 0 ∧ (s.core (17 * 0 + j)).lease.req = true)
    ∧ (let s := pressAt (.held 0) (lease0 true false 4465) [unlease0]
      s.now - (s.core 0).lease.cyc < 65536 ∧ (s.core 0).pressQueue = [unlease0] ∧ (s.cluster 0).press.state = .held 0
        ∧ ∀ x, (s.cluster 0).press.state ≠ .busy 0 x) :=
  ⟨⟨by decide, by decide, by decide, by decide, by decide, 16, by decide⟩, by decide, by decide, by decide, fun x h => nomatch h⟩

/-- A command of core 0 with a block. -/
def press0 (kind : PressKind) (w : List Word) : PressCmd := { unlease0 with kind := kind, block := w, addr := 0x1000 }

/-- A BF16 tile of ones of core 0. -/
def tile0 : Weights := ⟨0, blockFmt weightBlock, 32, List.replicate (128 * 32) 0x3F80, []⟩

/-- The holder's command waits, with weights of core 0. -/
noncomputable def starting (kind : PressKind) (w : List Word) (pcls : Nat) : State :=
  (pressAt (.held 0) { lease0 true false 70000 with wv := true, pcls := pcls } [press0 kind w]).onCluster 0 fun c =>
    { c with press := { c.press with weights := some tile0 } }

theorem witness_PressCommandsPerformed_starts :
    (∀ p ∈ ([(.pdrain, [toWord (2 ^ 22 * 4 + 2 ^ 10)]), (.ploadw, weightBlock), (.ploadw, narrowBlock),
      (.pstream, streamBlock)] : List (PressKind × List Word)),
      ∀ pcls ∈ [0, 2], let s := starting p.1 p.2 pcls
        (s.cluster 0).press.state = .held 0 ∧ (s.core 0).lease.held = true ∧ (s.core 0).pressQueue = [press0 p.1 p.2]
          ∧ s.now - (s.core 0).lease.cyc < 65536 ∧ s.noticeWaits 0 1 0 = false ∧ (s.ctx (.slot 0 0)).act.id = 0
          ∧ (s.ctx (.slot 0 0)).ctl.status ≠ .free)
    ∧ (let f := blockFmt weightBlock
      rateClass (pressRate f) ≤ 0 ∧ ¬ rateClass (pressRate (blockFmt narrowBlock)) ≤ 0 ∧ rateClass (pressRate (blockFmt narrowBlock)) ≤ 2 ∧ pressPairs (blockFmt streamBlock) f = true)
    ∧ ((starting .pstream streamBlock 2).cluster 0).press.modeBad streamBlock = false := by decide

/-- A block of INT8 elements, of an anchored row. -/
def int8Block : List Word := [0x20000, toWord (8 * 2 ^ 21 * 2 ^ 32 + 256), 0,
  toWord (1 * 2 ^ 37 + 1 * 2 ^ 27 + 3 * 2 ^ 16 + 2 ^ 15 + 2 ^ 14), 0, 0, 0, 0]

/-- The stream of `streamBlock` without INIT, and that of anchored rows. -/
def plainBlock : List Word := streamBlock.set 3 (toWord (1 * 2 ^ 37 + 1 * 2 ^ 27))

/-- A running command of the holder, with weights. -/
noncomputable def performing (kind : PressKind) (w : List Word) : State :=
  (pressAt (.busy 0 (press0 kind w)) { lease0 true false 70000 with wv := true } []).onCluster 0 fun c =>
    { c with press := { c.press with weights := some tile0 } }

theorem witness_PressCommandsPerformed_completes : (let s := performing .pstream (streamBlock.set 3 (toWord (1 * 2 ^ 37 + 1 * 2 ^ 27 + 2 ^ 14 + 2 ^ 15)))
      (s.cluster 0).press.state = .busy 0 (press0 .pstream (streamBlock.set 3 (toWord (1 * 2 ^ 37 + 1 * 2 ^ 27 + 2 ^ 14 + 2 ^ 15))))
        ∧ (s.core 0).lease.held = true ∧ (s.cluster 0).press.weights = some tile0 ∧ psIndexed streamBlock = false
        ∧ 0 < psDcnt streamBlock ∧ s.coreOf? 1 0 = some 0 ∧ (press0 .pstream streamBlock).latched.find? (readKey 0 0x6800) = none
        ∧ s.coreOf? 1 (8 * 0x6800 / 2 ^ 18) = some 0 ∧ s.launchMoves 1 = false)
    ∧ Clean (performing .ploadw weightBlock) 0 (8 * 0x6800 % 2 ^ 18) 8
    ∧ ((performing .ploadw weightBlock).cluster 0).press.state = .busy 0 (press0 .ploadw weightBlock) :=
  ⟨by decide, clean_of (by decide), by decide⟩

/-- A drain of rows 0 and 1 with CLR in mode 4, row 1 anchored, at delivery `n`. -/
noncomputable def draining (mode n count : Nat) : State :=
  let c := { press0 .pdrain [toWord (mode * 2 ^ 22 + 2 ^ 21 + count * 2 ^ 10)] with next := n }
  (pressAt (.busy 0 c) (lease0 true false 70000) []).onCluster 0 fun k => { k with press := { k.press with
    rows := [(0, grantedRow 1), (1, { grantedRow 1 with anchored := true, anchor := -4 })] } }

theorem witness_PressCommandsPerformed_fails :
    (let s := (starting .pstream streamBlock 2).onCluster 0 fun c => { c with press := { c.press with weights := none } }
      let p := (s.cluster 0).press
      p.weights = none ∧ (s.core 0).pressQueue = [press0 .pstream streamBlock])
    ∧ ({ tile0 with core := 1 } : Weights).core ≠ 0 ∧ pressPairs (blockFmt int8Block) tile0.fmtb = false
    ∧ (psAnchored int8Block = true ∧ isInt8 (blockFmt int8Block) = true ∧ psAnch int8Block ≠ 0)
    ∧ (let p := ((starting .pstream plainBlock 2).cluster 0).press
      psInit plainBlock = false ∧ pressPairs (blockFmt plainBlock) tile0.fmtb = true ∧ psDrow plainBlock ≤ 1
        ∧ 1 < psDrow plainBlock + psDcnt plainBlock ∧ (p.row 1).anchored = psAnchored plainBlock)
    ∧ (let p := ((draining 4 0 2).cluster 0).press
      psAnchored plainBlock ≠ (p.row 1).anchored)
    ∧ ({ grantedRow 1 with anchored := true, anchor := 0 } : AccRow).anchored = true := by decide

theorem witness_DrainsDelivered : (∀ n, n < 3 → let s := draining 4 n 2
      (((s.cluster 0).press.deliveries (toWord (4 * 2 ^ 22 + 2 ^ 21 + 2 * 2 ^ 10)))[n]?).isSome = true ∧ s.noticeWaits 0 1 0 = false
        ∧ (s.core 0).freeDrain = some 0 ∧ ((s.cluster 0).press.row 0).bad = 0 ∧ ((s.cluster 0).press.row 1).bad = 0
        ∧ ((s.cluster 0).press.row 0).anchored = false ∧ ((s.cluster 0).press.row 1).anchored = true)
    ∧ (let s := draining 0 1 1
      (∀ i, i < 0 + 1 → ((s.cluster 0).press.row i).anchored = false) ∧ (s.core 0).lease.held = true) :=
  ⟨by decide, by decide, by decide⟩

/-- The Trellis block of `trellisBlock` with its work records at 0x30000 of role 0. -/
def cellarBlock : List Word := (trellisBlock.set 4 (toWord (2 ^ 56 + 7 * 2 ^ 48 + 4 * 2 ^ 32 + 4 * 2 ^ 16 + 4))).set 5 0x30000

/-- A command of slot 0 of core 0 on the `n` particle records at 0x2000. -/
def trel0 (kind : TrelKind) (n : Nat) : TrelCmd :=
  { pairs0 with
    kind := kind
    block := cellarBlock
    region := ⟨0, 2, false, false, false, 0, 0, [[⟨0, n, 0, 0⟩, ⟨0, 4, 0, 0⟩]]⟩
    desc := descOf 0x1200 [0x2000, toWord ((3 * 2 ^ 28 + 32 * 2 ^ 21) * 2 ^ 32 + 2 * 2 ^ 4 + 1), toWord (4 * 2 ^ 32 + n), 0, 4, 0, 0, 0]
    boxes := [(0, 0x3FF00)] }

/-- The grid of a stream: 4 × 4 × 4 cells. -/
def grid0 : TrelCmd :=
  { pairs0 with desc := descOf 0x1240 [0x2000, toWord (0x01000000 * 2 ^ 32 + 2 * 2 ^ 4 + 2), toWord (4 * 2 ^ 32 + 4), 4, 16, 4, 0, 0] }

/-- A command heads the queue of the Trellis of cluster 0, and slot 0 of core 0 waits for it. -/
noncomputable def trellisWith (c : TrelCmd) (st : TrelState) (owner : Option Nat) (npart : Nat) : State :=
  let s := mine two fun x => { x with ctl := { x.ctl with hold := some (.command 9) } }
  s.onCluster 0 fun k => { k with trellis := ⟨st, owner, cellarBlock, npart, [], [c], none, none⟩ }

theorem head_of {s : State} {c : TrelCmd} (a : (s.trellis 0).stream = none) (b : (s.trellis 0).queue = [c])
    (d : (s.ctx c.agent).act.id = c.act) (e : (s.ctx c.agent).ctl.hold = some (.command c.id))
    (f : (s.ctx c.agent).ctl.status = .running) (g : ∀ st, s.tapeOf? c.agent st = none) : TrellisHead s 0 c [] := ⟨a, b, d, e, f, g⟩

theorem witness_TrellisCommandsPerformed : (∀ p ∈ ([(trel0 .trcfg 2, .free, none, 0), (trel0 .trcfg 2, .empty, some 2, 0),
        (trel0 .trrel 2, .binned, some 1, 2), (trel0 .trbin 2, .empty, some 2, 0), (trel0 .trupd 2, .empty, some 2, 2),
        (trel0 .trupd 2, .empty, some 1, 2), (trel0 .trupd 2, .stale, some 1, 1), (pairs0, .binned, some 2, 0), (pairs0, .binned, some 1, 0),
        (grid0, .stale, some 1, 0), (grid0, .binned, some 1, 0)]
          : List (TrelCmd × TrelState × Option Nat × Nat)),
      TrellisHead (trellisWith p.1 p.2.1 p.2.2.1 p.2.2.2) 0 p.1 [])
    ∧ grid0.desc.ext = [cfgNc cellarBlock 0, cfgNc cellarBlock 1, cfgNc cellarBlock 2] ∧ pairs0.desc.ext ≠ [4, 4, 4]
    ∧ (trel0 .trupd 2).rows.length = 2 := by
  refine ⟨fun p hp => ?_, by decide, by decide, by decide⟩
  simp only [List.mem_cons, List.not_mem_nil, or_false] at hp
  rcases hp with rfl | rfl | rfl | rfl | rfl | rfl | rfl | rfl | rfl | rfl | rfl <;>
    exact head_of (by decide) (by decide) (by decide) (by decide) (by decide) fun st => by cases st <;> decide

theorem passes_of {s : State} {c : TrelCmd} (own : (s.trellis 0).owner = some c.launch) (ca : cfgCellar (s.trellis 0).block = true)
    (wk : cfgWork (s.trellis 0).block = 0x30000) (pg : s.unitPages none 0 c.asid (c.needs (s.trellis 0).block) [] = .ok [])
    (ck : s.trelCheck c (s.trellis 0).block [] = none) (len : c.rows.length ≤ 33) (at_ : s.coreOf? c.launch 0 = some 0)
    (mv : s.runsMove c.launch ((!cfgCellar (s.trellis 0).block, cfgWork (s.trellis 0).block, 32 * c.rows.length) :: c.recordRuns) = false) :
    TrellisPasses s 0 c [] := by
  have loc : ∀ n i, n ≤ 33 → i < 32 → workByte s c (s.trellis 0).block [] n i = .slice c.launch 0 (0x30000 + 32 * n + i) := by
    intro n i hn hi
    have e : ((0x30000 + 32 * n + i : Nat) : Int).toNat = 0x30000 + 32 * n + i := Int.toNat_natCast _
    simp only [workByte, State.unitLoc, ca, wk, Bool.not_true, e]
    rw [if_neg (by simp)]
    have h1 : (0x30000 + 32 * n + i) / 2 ^ 18 = 0 := by omega
    have h2 : (0x30000 + 32 * n + i) % 2 ^ 18 = 0x30000 + 32 * n + i := by omega
    rw [h1, h2]
  refine ⟨own, pg, ck, mv, ?_, ?_⟩
  · intro n hn i hi
    rw [loc n i (by omega) hi, loc n 0 (by omega) (by omega)]
    exact ⟨by simp [Loc.add], by simp [State.readLoc, at_]⟩
  · intro n m hn hm i j hi hj h
    rw [loc n i (by omega) hi, loc m j (by omega) hj] at h
    simp only [byteOf, at_, Option.map_some, Option.some.injEq, Prod.mk.injEq, true_and] at h
    omega

theorem witness_TrellisCommandsPerformed_bins : (∀ n ∈ [32, 33], let s := trellisWith (trel0 .trbin n) .empty (some 1) 0
      TrellisPasses s 0 (trel0 .trbin n) [] ∧ Canonical s
        ∧ (upFrom 0 n).all (fun i => cellOf cellarBlock ((upFrom 0 3).map fun j => (Claims.units (recordBytes s (trel0 .trbin n) [] i) j).getD 0) == 0) = true)
    ∧ (let s := trellisWith (trel0 .trupd 2) .binned (some 1) 2
      TrellisPasses s 0 (trel0 .trupd 2) [] ∧ Canonical s ∧ (s.trellis 0).state ≠ .empty ∧ (trel0 .trupd 2).rows.length = (s.trellis 0).npart) := by
  refine ⟨fun n hn => ?_, passes_of (by decide) (by decide) (by decide) (by decide) (by decide) (by decide) (by decide) (by decide),
    canonical_of (by decide) (by decide) (by decide), by decide, by decide⟩
  simp only [List.mem_cons, List.not_mem_nil, or_false] at hn
  rcases hn with rfl | rfl <;>
    exact ⟨passes_of (by decide) (by decide) (by decide) (by decide) (by decide) (by decide) (by decide) (by decide),
      canonical_of (by decide) (by decide) (by decide), by decide⟩

/-- Three particles in cell 0 of BINNED cells of a block, and a stream of all pairs of that cell to role 1, some of whose end messages
have been sent. -/
noncomputable def streamingTo (block : List Word) (held : List (List Byte)) (tested ends : Nat) : State :=
  let c := { grid0 with region := ⟨1, 3, false, false, false, 0, 0, [[⟨0, 1, 0, 0⟩, ⟨0, 1, 0, 0⟩, ⟨0, 1, 0, 0⟩]]⟩ }
  two.onCluster 0 fun k => { k with
    trellis := ⟨.binned, some 1, block, 3, [(0, [0, 1, 2])], [], some ⟨c, 0, tested, held, [0], ends, none⟩, none⟩ }

/-- That stream on `cellarBlock`, with no end message sent. -/
noncomputable def streaming (held : List (List Byte)) (tested : Nat) : State := streamingTo cellarBlock held tested 0

theorem witness_PairsStreamed : (∀ t, t < 3 → 0 < cfgNc cellarBlock t)
    ∧ (∀ p ∈ ([([[1]], 3, 0), ([], 3, 0), ([], 3, 1), ([[1], [2]], 2, 0), ([[1]], 0, 0)] : List (List (List Byte) × Nat × Nat)),
      let s := streamingTo cellarBlock p.1 p.2.1 p.2.2
      (s.trellis 0).stream.map Stream.parked = some none ∧ (s.trellis 0).stream.map (fun st => s.pairsWait st.cmd) = some false
        ∧ (s.trellis 0).stream.map (fun st => s.saving st.cmd.launch) = some false
        ∧ (s.trellis 0).stream.map (fun st => ((pairReceivers st.cmd.role st.cmd.ctrl).length, s.mesh)) = some (1, []))
    ∧ (let s := streaming [[1]] 0
      ∃ st, (s.trellis 0).stream = some st ∧ (s.trellis 0).candidates st.cmd = [(0, 1), (0, 2), (1, 2)]
        ∧ s.position 0 st.cmd cellarBlock 0 = .at_ [0, 0, 0] [] ∧ s.position 0 st.cmd cellarBlock 1 = .at_ [0, 0, 0] []
        ∧ s.position 0 st.cmd cellarBlock 2 = .at_ [0, 0, 0] []
        ∧ (∀ k, k < 3 → (fx32 (round32 149 (minImage cellarBlock k (0 - 0)))).isSome = true) ∧ 0 ≤ cfgRcut cellarBlock * cfgRcut cellarBlock) :=
  ⟨by decide, by decide, _, rfl, by decide, by decide, by decide, by decide, by decide, by decide⟩

theorem witness_PairsStreamed_saving : let s : State := { streaming [] 0 with
      groups := two.groups.map fun (p : Nat × Group) => (p.1, { p.2 with phase := .saving }) }
    (s.trellis 0).stream.map (fun st => s.saving st.cmd.launch) = some true := by decide

/-- `cellarBlock` with no periodic axis. -/
def openBlock : List Word := cellarBlock.set 4 (toWord (2 ^ 56 + 4 * 2 ^ 32 + 4 * 2 ^ 16 + 4))

/-- `streamingTo` of `openBlock` with the work records of particles 0 and 1 on the first axis, and poisoned words of the slice. -/
noncomputable def apart (x y : Word) (poison : List Nat) : State :=
  (laid (laid (streamingTo openBlock [] 0 0) 0x30000 [x]) 0x30020 [y]).onCore 0 fun k => { k with poisonWords := poison }

theorem witness_PairsStreamed_ends :
    (let s := { streamingTo cellarBlock [] 3 1 with mesh := [⟨0, 1, 1, ⟨1, 0, 0, 0, 1, []⟩, none⟩] }
      ∃ m ∈ s.mesh, m.launch = grid0.launch ∧ m.msg.kind = 1 ∧ m.msg.src = grid0.role)
    ∧ (apart 0 0 [0x30000 / 8]).position 0 grid0 openBlock 0 = .ends 0x0A 0x30000
    ∧ (let s := apart 0 0 [0x30020 / 8]
      s.position 0 grid0 openBlock 0 = .at_ [0, 0, 0] [] ∧ s.position 0 grid0 openBlock 1 = .ends 0x0A 0x30020)
    ∧ (let s := apart 0x7F7FFFFF 0xFF7FFFFF []
      let m : Int := (2 ^ 24 - 1) * 2 ^ 253
      s.position 0 grid0 openBlock 0 = .at_ [m, 0, 0] [] ∧ s.position 0 grid0 openBlock 1 = .at_ [-m, 0, 0] []
        ∧ fx32 (round32 149 (minImage openBlock 0 (-m - m))) = none)
    ∧ (let s := apart 0 0x40000000 []
      let two : Int := 2 ^ 150
      s.position 0 grid0 openBlock 0 = .at_ [0, 0, 0] [] ∧ s.position 0 grid0 openBlock 1 = .at_ [two, 0, 0] []
        ∧ (fx32 (round32 149 (minImage openBlock 0 (two - 0)))).isSome = true ∧ ¬ two * two ≤ cfgRcut openBlock * cfgRcut openBlock) := by
  decide

/-- A miss of the page of 0x600000, taken by the TSC or not. -/
def miss0 (page tag kind : Nat) (view : Bool) : Miss := ⟨kind, page * 2 ^ 16, 1, tag, 1, 0, 0, 0, view, []⟩

/-- Queues and misses of cluster 0, with an entry in ENT0 and ENT1. -/
noncomputable def missing (w1 : Word) : State :=
  let s := mine { two with now := 1 } fun c => { c with ctl := { c.ctl with hold := some (.miss 0x60FFF8) } }
  s.onCluster 0 fun c => { c with
    pending := [⟨{ rec0 with cause := 4 }, 0, 0, false⟩, ⟨rec0, 0, 1, false⟩, ⟨{ rec0 with cause := 4 }, 0, 0, true⟩, ⟨rec0, 1, 0, false⟩]
    view := List.replicate 63 rec0
    kernelQueue := List.replicate 64 rec0
    misses := [miss0 0x60 7 0 false, miss0 0x61 8 1 true]
    missWaits := [⟨1, 0x60FFF8, 1, 0, 0, 0, none⟩, ⟨3, 0x700000, 1, 0, 0, 0, none⟩]
    ent0 := toWord (0x600000 + 1)
    ent1 := w1 }

/-- Record `k` on its way to cluster 0 has been sent before the others of its part. -/
def ComesFirst (s : State) (k : Nat) (r : SentRec) : Prop :=
  r.at_ < s.now ∧ (∀ e ∈ (s.cluster 0).pending, toView e.rec_ = toView r.rec_ → ¬ SentBefore e r)
    ∧ ∀ e ∈ (s.cluster 0).pending.take k, toView e.rec_ = toView r.rec_ → SentBefore r e

/-- A record of PAGE_FAULT. -/
def page0 : FaultRec := { rec0 with cause := 4 }

theorem witness_FaultAndMissQueues_records : let s := missing 0
    ComesFirst s 0 ⟨page0, 0, 0, false⟩ ∧ ComesFirst s 1 ⟨rec0, 0, 1, false⟩
      ∧ (s.cluster 0).pending = [⟨page0, 0, 0, false⟩, ⟨rec0, 0, 1, false⟩, ⟨page0, 0, 0, true⟩, ⟨rec0, 1, 0, false⟩]
      ∧ toView page0 = true ∧ (s.cluster 0).view.length < 64 ∧ toView rec0 = false ∧ ¬ (s.cluster 0).kernelQueue.length < 64
      ∧ SentBefore ⟨page0, 0, 0, false⟩ ⟨page0, 0, 0, true⟩ ∧ s.now ≤ 1 := by
  refine ⟨?_, ?_, by decide, by decide, by decide, by decide, by decide, by unfold SentBefore; decide, by decide⟩ <;>
    unfold ComesFirst SentBefore <;> exact ⟨by decide, by decide, by decide⟩

theorem witness_FaultAndMissQueues : (let s := missing (toWord (2 ^ 63 + 2 ^ 59 + 2 ^ 58 + 0x600000))
      let C := s.cluster 0
      C.missWaits[0]? = some ⟨1, 0x60FFF8, 1, 0, 0, 0, none⟩ ∧ s.missHeld 1 0x60FFF8 = false ∧ s.lookup none 0 1 0x60FFF8 = none
        ∧ C.missWaits[1]? = some ⟨3, 0x700000, 1, 0, 0, 0, none⟩ ∧ s.lookup none 0 1 0x700000 = none
        ∧ C.misses = [miss0 0x60 7 0 false] ++ miss0 0x61 8 1 true :: [] ∧ C.misses.find? (fun e => decide (e.tag = 7)) = some (miss0 0x60 7 0 false)
        ∧ entCovers C.ent0 C.ent1 1 0x600000 = true ∧ (miss0 0x60 7 0 false).kind ≠ 3)
    ∧ GoodEntry (toWord (0x600000 + 1)) (toWord (2 ^ 63 + 2 ^ 59 + 2 ^ 58 + 0x600000))
    ∧ HeldBy (missing 0) 0 1 0x60 (.slot 0 0) ∧ ¬ GoodEntry (toWord (0x600000 + 1)) 0
    ∧ (two.onCluster 0 fun c => { c with view := [rec0] }).cluster 0 = { two.cluster 0 with view := [rec0] } :=
  ⟨by decide, by unfold GoodEntry; decide, ⟨0, 0, 0x60FFF8, by decide, by decide, by decide, by decide, by decide, by decide, by decide⟩,
    fun h => absurd h.1 (by decide), by decide⟩

/-- MGO is about to move the page at 0x500000 of ASID 1 to 0x700000; INVGO would drop it; PZB names it. -/
noncomputable def migratingFrom (src : Loc) (mstat copied : Nat) : State :=
  let s := two.onCtx (.slot 0 1) fun c => { c with queue := [{ entry7 (.store (.mem 0x50FFF8) (toBytes 8 5) none false) with
      page := .rc
      tlb := if mstat = 2 then some (toWord (0x500000 + 1), toWord (2 ^ 63 + 2 ^ 59 + 2 ^ 58 + 2 ^ 57 + 0x500000)) else none },
    { entry7 (.store (.mem 0x510000) (toBytes 8 5) none false) with id := 8 }] }
  { s with xlat := { s.xlat with
      inva := 0x500000, invn := 1, pzb := 0x500000, mva := 0x500000, mdst := 0x700000, mstat := mstat
      moving := if mstat = 0 then none else some ⟨src, 0x700000, 0x500000, 1, 0, copied⟩ } }

/-- That migration of a page of HBM. -/
noncomputable def migrating (mstat : Nat) : State := migratingFrom (.mem 0x500000) mstat 0

theorem canonical_same {s t : State} (h : Canonical s) (a : t.mem = s.mem) (b : t.cores = s.cores) (c : t.peers = s.peers) : Canonical t := by
  simpa [Canonical, State.core, State.peer, a, b, c] using h

theorem witness_MappingChanges : (∀ n, Canonical (migrating n))
    ∧ (let s := migrating 0
      s.xlat.mstat = 0 ∧ s.xlat.mva.toNat % pageSize 0 = 0 ∧ s.xlat.mdst.toNat % pageSize 0 = 0 ∧ s.mappedAt 1 s.xlat.mva.toNat = some (.mem 0x500000)
        ∧ s.xlat.pzb.toNat % pageSize 0 = 0 ∧ s.settled (fun e => decide (e.1.toNat % 2 ^ 16 = 1)) = true ∧ s.xlat.invn.toNat ≠ 0)
    ∧ (let s := migrating 1
      s.xlat.moving = some ⟨.mem 0x500000, 0x700000, 0x500000, 1, 0, 0⟩ ∧ s.xlat.mstat = 1
        ∧ s.settledButHeld (fun e => decide (e.1.toNat % 2 ^ 16 = 1) && (decide (entBase e.1 < 0x500000 + pageSize 0)
          && decide (0x500000 < entBase e.1 + pageSize (entSize e.2)))) = true)
    ∧ (∀ copied ∈ [127, 128], let s := migratingFrom (.peer 1 0) 1 copied
      s.xlat.moving = some ⟨.peer 1 0, 0x700000, 0x500000, 1, 0, copied⟩ ∧ s.xlat.mstat = 1 ∧ 1 ∉ s.unreachable
        ∧ (512 * copied < pageSize 0 ↔ copied = 127)
        ∧ s.settledButHeld (fun e => decide (e.1.toNat % 2 ^ 16 = 1) && (decide (entBase e.1 < 0x500000 + pageSize 0)
          && decide (0x500000 < entBase e.1 + pageSize (entSize e.2)))) = true)
    ∧ (let s := migrating 2
      s.xlat.mstat = 2 ∧ (s.ctx (.slot 0 1)).queue[0]? = some { entry7 (.store (.mem 0x50FFF8) (toBytes 8 5) none false) with
          page := .rc, tlb := some (toWord (0x500000 + 1), toWord (2 ^ 63 + 2 ^ 59 + 2 ^ 58 + 2 ^ 57 + 0x500000)) }
        ∧ (s.ctx (.slot 0 1)).queue[1]? = some { entry7 (.store (.mem 0x510000) (toBytes 8 5) none false) with id := 8 })
    ∧ (migrating 3).xlat.mstat = 3 := by
  refine ⟨fun n => canonical_same canonical_two rfl ?_ rfl, by decide, by decide, by decide, by decide, by decide⟩
  rfl

/-- The selected tape of cluster 0. -/
noncomputable def reclaiming (st : TapeState) : State :=
  (flow (decanting { relTape st false (some (.slot 0 0)) with next := 1 }) fun k => { k with hold := some .decant }).onCluster 0 fun c =>
    { c with ckSel := 7 }

theorem witness_MappingChanges_reclaim : (∀ st ∈ ([.empty, .sealed, .paused, .recording, .decanting] : List TapeState),
    let T := ((reclaiming st).cluster 0).tape (((reclaiming st).cluster 0).ckSel.toNat % 8)
    T.state = st ∧ T.owner = some (.slot 0 0) ∧ T.next < 2 ^ 16 ∧ ((reclaiming st).ctx (.slot 0 0)).ctl.hold = some .decant)
    ∧ agentCluster (.slot 0 0) = 0 := by decide

/-! ### Queues and groups -/

/-- A page of 512 MiB at 0 of ASID 1, for loads and stores. -/
def bigPage : TlbEntry := ⟨1, toWord (2 ^ 63 + 2 * 2 ^ 61 + 1 * 2 ^ 59 + 2 ^ 58 + 2 ^ 57), 0, false⟩

/-- `two` with that page alone. -/
noncomputable def based : State := two.onCluster 0 fun c => { c with tlb := [bigPage] }

theorem hit_of {s : State} {part va : Nat} {kind : AccessKind} (k : kind = .load ∨ kind = .store) (t : s.tlbClusters = [0])
    (e : (s.cluster 0).tlb = [bigPage]) (p : s.partOfCluster 0 = part) (h : s.partOfHbm va = part) (m : s.xlat.moving = none)
    (lt : va < 2 ^ 29) : s.dispXlate part 1 va kind = .hit (.mem va) .rc (bigPage.w0, bigPage.w1) := by
  have c : entCovers bigPage.w0 bigPage.w1 1 va = true := by
    have h1 : entBase bigPage.w0 = 0 := by decide
    have h2 : pageSize (entSize bigPage.w1) = 2 ^ 29 := by decide
    have h3 : bigPage.w1.getLsbD 63 = true := by decide
    have h4 : entAsid bigPage.w0 = 1 := by decide
    simp only [entCovers, h1, h2, h3, h4, decide_true, Bool.and_true, Bool.true_and, Nat.zero_le, Nat.zero_add]
    exact decide_eq_true lt
  have l : s.lookup none 0 1 va = some (bigPage.w0, bigPage.w1) := by simp [State.lookup, e, bestOf, c]
  have a : s.entLoc bigPage.w0 bigPage.w1 va = .mem va := by
    have h1 : entBase bigPage.w0 = 0 := by decide
    have h2 : entPfn bigPage.w1 = 0 := by decide
    have h3 : bigPage.w1.getLsbD 56 = false := by decide
    simp only [State.entLoc, h1, h2, h3, Bool.false_and, Nat.zero_add, Nat.sub_zero]
    rfl
  have pl : s.placeOk 0 bigPage.w1 (.mem va) = true := by
    have h1 : va < Config.hbmSize := by unfold Config.hbmSize; omega
    simp [State.placeOk, isMemory, h1, h, p]
  have pm : entPermits bigPage.w1 kind = true := by rcases k with rfl | rfl <;> decide
  have ek : entKind bigPage.w1 = .rc := by decide
  have tr : s.translate none 0 1 va kind = .hit (.mem va) .rc (bigPage.w0, bigPage.w1) := by
    have h0 : ¬ 2 ^ 56 ≤ va := by omega
    unfold State.translate
    rw [if_neg h0, l]
    simp [pm, a, pl, State.migrationHolds, m, ek]
  simp [State.dispXlate, t, p, tr]

theorem reaches_of {s : State} {part va n : Nat} {kind : AccessKind} (k : kind = .load ∨ kind = .store) (t : s.tlbClusters = [0])
    (e : (s.cluster 0).tlb = [bigPage]) (p : s.partOfCluster 0 = part) (h : ∀ i, i < 2 ^ 29 → s.partOfHbm i = part)
    (m : s.xlat.moving = none) (lt : va + n ≤ 2 ^ 29) : Reaches s part 1 va n kind va :=
  fun _ hi => ⟨_, _, hit_of k t e p (h _ (by omega)) m (by omega)⟩

theorem hbm_of {s : State} (h : s.parts.hpart = []) (i : Nat) : s.partOfHbm i = 0 := by simp [State.partOfHbm, h, Table.get, Table.find?]

/-- Queue 5 of ASID 1 and tenant 3 with a ring of 4,096 bytes at 0x600000. -/
noncomputable def queueing (u : LaunchQueue) (frozen : List Nat) (refused : List (Nat × Nat × Nat)) : State :=
  { based with dispatch := { based.dispatch with
      queues := [(5, u)], qcfg := [(5, toWord (2 ^ 63 + 3 * 2 ^ 32 + 1 * 2 ^ 16 + 3))], frozen := frozen, refused := refused } }

/-- A queue with a size, a base and an index. -/
def queue0 (base size widx : Word) (stat valid : Nat) (records : List (List Word)) : LaunchQueue :=
  ⟨base, size, widx, 0, stat, 0, valid, records, false⟩

/-- What the doorbell of queue 5 finds of its ring. -/
noncomputable def ringAt (s : State) : Option (Nat ⊕ Nat) :=
  s.dispRun (s.qPartition 5) (s.qAsid 5) (s.queue 5).base.toNat (s.queue 5).size.toNat .load

theorem witness_QueuesAndLaunches_doorbell :
    (queueing (queue0 0x600000 4096 64 0 0 []) [] []).qEnabled 6 = false
    ∧ (queueing (queue0 0x600000 4096 64 2 0 []) [] []).queue 5 = queue0 0x600000 4096 64 2 0 []
    ∧ (queueing (queue0 0x600000 4096 64 0 0 []) [0] []).qFrozen 5 = true
    ∧ (∀ u ∈ [queue0 0x600000 2048 64 0 0 [], queue0 0x600800 4096 64 0 0 [], queue0 0x600000 4096 4160 0 0 [], queue0 0x600000 4096 4096 0 0 []],
      let s := queueing u [] []
      s.qEnabled 5 = true ∧ s.qFrozen 5 = false ∧ (s.queue 5) = u ∧ u.stat ≠ 2 ∧ ringAt s = none)
    ∧ (4096 : Word).toNat = 2 ^ 12 ∧ (0x600800 : Word).toNat % 4096 ≠ 0 ∧ (4160 + 2 * 4096 - 0) % (2 * 4096) > 4096
    ∧ ringAt (queueing (queue0 0x40000000 4096 64 0 0 []) [] []) = some (.inl 0x40000000)
    ∧ ringAt (queueing (queue0 0x40000000 4096 64 0 0 []) [] [(1, 0x4000, 4)]) = some (.inr 4) := by decide

theorem witness_QueuesAndLaunches_fetch : (let s := queueing (queue0 0x600000 4096 64 1 64 []) [] []
      (s.queue 5).stat = 1 ∧ s.qEnabled 5 = true ∧ s.qFrozen 5 = false ∧ (s.queue 5).ridx.toNat ≠ (s.queue 5).valid
        ∧ s.dispRun (s.qPartition 5) (s.qAsid 5) 0x600000 64 .load = none)
    ∧ (let s := queueing (queue0 0x40000000 4096 64 1 64 []) [] [(1, 0x4000, 4)]
      s.dispRun (s.qPartition 5) (s.qAsid 5) 0x40000000 64 .load = some (.inr 4)) := by decide

/-- A launch record of an image at 0x600000, a save area at 0x800000 and a completion word at 0x700000. -/
def record0 : List Word := [0x600000, 0x800000, 2035712, 0x700000, 0, 0, 0, 0]

/-- An image of one role with one section. -/
def image0 (sec : List Word) : List Byte :=
  ([1, toWord (1 * 2 ^ 16 + 1), 0x100010001, 0x600100, 0x600140, 1, 0, 0] : List Word).flatMap wordToBytes ++ List.replicate 256 0
    ++ sec.flatMap wordToBytes

/-- Queue 5 holds that record, and the image stands in memory. -/
noncomputable def launching (sec : Option (List Word)) : State :=
  let s := queueing (queue0 0x600000 4096 64 1 64 [record0]) [] []
  match sec with
  | some w => { s with mem := s.mem.writeL 0x600000 (image0 w) }
  | none => s

/-- A data section of the last 128 bytes of a slice. -/
def dataSection : List Word := [0x610000, toWord (0x3FE80), 0x80, 0]
/-- A handler section of channel 62. -/
def handlerSection : List Word := [toWord 0x400000, toWord (1 * 2 ^ 62 + 62), 0, 0]

theorem noneWaits_of {s : State} {q : Nat} {u : LaunchQueue} (h : s.dispatch.queues = [(q, u)]) (r : u.records.length ≤ 1) :
    NoneWaits s (some q) := by
  intro k
  by_cases e : q = k
  · subst e
    rcases hr : u.records with _ | ⟨a, _ | ⟨b, l⟩⟩
    · exact Or.inl (by simp [State.queue, h, Table.get, Table.find?, hr])
    · exact Or.inr ⟨rfl, by simp [State.queue, h, Table.get, Table.find?, hr]⟩
    · simp [hr] at r
  · exact Or.inl (by simp [State.queue, h, Table.get, Table.find?, e, LaunchQueue.init])

theorem witness_QueuesAndLaunches_refused : (let s := launching none
      (s.queue 5).records = [record0] ∧ s.qFrozen 5 = false ∧ s.qAsid 5 ≠ 0 ∧ s.served 5 = true ∧ s.imageOf 0 1 record0 = .refuse 0x17 0 0
        ∧ NoneWaits s (some 5) ∧ Canonical s ∧ Reaches s (s.qPartition 5) (s.qAsid 5) 0x700000 8 .store 0x700000) :=
  ⟨by decide, by decide, by decide, by decide, by decide, noneWaits_of rfl (by decide), canonical_of (by decide) (by decide) (by decide),
    reaches_of (Or.inr rfl) (by decide) (by decide) (by decide) (fun i _ => hbm_of (by decide) i) (by decide) (by decide)⟩

theorem witness_QueuesAndLaunches_asid : two.qAsid 9 = 0 := by decide

theorem witness_QueuesAndLaunches_starts : (∀ p ∈ [(dataSection, (⟨0, 0, 0, 0x3FE80, 0x610000, 0x80⟩ : Section)),
        (handlerSection, ⟨1, 0, 0, 62, 0x400000, 0⟩)], let s := launching (some p.1)
      (s.queue 5).records = [record0] ∧ s.qFrozen 5 = false ∧ s.qAsid 5 ≠ 0 ∧ s.served 5 = true ∧ s.imageOf 0 1 record0 = .ok ⟨1, 1, none, [0], [p.2]⟩
        ∧ s.bindable 0 (some 5) 1 false [2] = true)
    ∧ ∀ w, NoneWaits (launching w) (some 5) :=
  ⟨by decide, fun w => by cases w <;> exact noneWaits_of rfl (by decide)⟩

/-- The group of `based` on core 0 alone, changed. -/
noncomputable def grouped (f : Group → Group) : State :=
  let s : State := { based with
    now := 3000000
    groups := based.groups.map fun (p : Nat × Group) => (p.1, f { p.2 with cores := [0], record := record0, stages := [0] }) }
  let s := s.onCore 1 fun k => { k with binding := none }
  s.onCtx (.slot 0 0) fun c => { c with ctl := { c.ctl with status := .free } }

/-- The group in a phase. -/
def phased (ph : Phase) (g : Group) : Group := { g with phase := ph }

/-- A group that has completed. -/
def reported (ph : Phase) (g : Group) : Group := { g with phase := ph, reported := [0] }

theorem witness_LadderAndGroupEnds : (∀ ph ∈ ([.run, .soft, .saving, .ending] : List Phase), let s := grouped (phased ph)
      ∃ g, s.group? 1 = some g ∧ Canonical s ∧ g.phase = ph ∧ g.complete = false ∧ g.frecs = [] ∧ g.cores = [0]
        ∧ AllFree s 0 ∧ g.sliceAt + g.sliceLen ≤ s.now ∧ s.dispatch.queues = []
        ∧ g.softAt + s.dispatch.tgrace.toNat ≤ s.now ∧ g.softAt + max s.dispatch.tkill.toNat (s.dispatch.tgrace.toNat + 1) ≤ s.now
        ∧ Reaches s g.partition g.asid (g.word 3).toNat 8 .store 0x700000)
    ∧ (∀ ph ∈ ([.run, .soft, .saving] : List Phase), let s := grouped (reported ph)
      ∃ g, s.group? 1 = some g ∧ g.phase = ph ∧ g.complete = true ∧ s.drained 1 g = true ∧ g.frecs = [])
    ∧ (let s := grouped fun g => { g with phase := .ending, cores := [] }
      ∃ g, s.group? 1 = some g ∧ g.phase = .ending ∧ g.cores = [] ∧ g.frecs = [])
    ∧ (let s := grouped fun g => { g with cores := [] }
      ∃ g, s.group? 1 = some g ∧ g.phase ≠ .ending ∧ g.phase ≠ .saving ∧ g.cores = [] ∧ g.frecs = [])
    ∧ (let s := (grouped (phased .soft)).onCtx (.slot 0 7) fun c => { c with ctl := { c.ctl with status := .yielded } }
      ¬ AllFree s 0) := by
  refine ⟨fun ph hp => ?_, fun ph hp => ?_, ⟨_, rfl, rfl, rfl, rfl⟩, ⟨_, rfl, by decide, by decide, rfl, rfl⟩, fun h => absurd (h 7 (by decide)) (by decide)⟩ <;>
    simp only [List.mem_cons, List.not_mem_nil, or_false] at hp
  · rcases hp with rfl | rfl | rfl | rfl <;>
      exact ⟨_, rfl, canonical_of (by decide) (by decide) (by decide), rfl, by decide, rfl, rfl,
        by unfold AllFree; decide, by decide, rfl, by decide, by decide,
        reaches_of (Or.inr rfl) (by decide) (by decide) (by decide) (fun i _ => hbm_of (by decide) i) (by decide) (by decide)⟩
  · rcases hp with rfl | rfl | rfl <;> exact ⟨_, rfl, rfl, by decide, by decide, rfl⟩

/-- The group of the slice that has run out is in partition 7, and a launch of 17 roles waits in queue 5 for its cores. -/
noncomputable def contended : State :=
  let s := grouped fun g => { g with partition := 7 }
  let s : State := { s with
    mem := s.mem.writeL 0x600000 (([1, toWord (1 * 2 ^ 16 + 17), 0x100010001, 0x600100, 0x600140, 0, 0, 0] : List Word).flatMap wordToBytes)
    parts := { s.parts with cpart := [(0, 7)], hpart := [(0, 7)] } }
  { s with dispatch := { s.dispatch with
      queues := [(5, queue0 0x600000 4096 64 1 64 [[0x600000, 0x800000, 11000000, 0x700000, 0, 0, 0, 0]])]
      qcfg := [(5, toWord (2 ^ 63 + 3 * 2 ^ 32 + 1 * 2 ^ 16 + 3))], qpart := [(5, 7)] } }

theorem witness_LadderAndGroupEnds_asks : (let s := contended
      ∃ g, s.group? 1 = some g ∧ g.phase = .run ∧ g.sliceAt + g.sliceLen ≤ s.now
        ∧ ((5, queue0 0x600000 4096 64 1 64 [[0x600000, 0x800000, 11000000, 0x700000, 0, 0, 0, 0]]) ∈ s.dispatch.queues
          ∧ g.partition = s.qPartition 5 ∧ g.cores ≠ [] ∧ s.groups = [(1, g)] ∧ s.fitsWithout 5 g = false ∧ g.prio ≤ s.qPrio 5
          ∧ s.waitsForCores 5 = true ∧ s.ladderFor 5 = false)) :=
  ⟨_, rfl, rfl, by decide, by decide, rfl, by decide, rfl, by decide, by decide, by decide, by decide⟩

/-- The group at rest, with slot 3 of core 0 halted for a full save. -/
noncomputable def restful : State :=
  (grouped fun g => { g with phase := .saving, step := 2 }).onCtx (.slot 0 3) fun c => { c with
    ctl := { c.ctl with status := .yielded, quiesced := true, pc := 0x400100 }, regs := { c.regs with x := c.regs.x.set 7 9 } }

theorem noneWaits_empty {s : State} (h : s.dispatch.queues = []) : NoneWaits s none :=
  fun k => Or.inl (by simp [State.queue, h, Table.get, Table.find?, LaunchQueue.init])

theorem witness_SavesAndResumptions : (let s := restful
      ∃ g, s.group? 1 = some g ∧ NoneWaits s none ∧ s.saveReady g = true ∧ Canonical s ∧ g.cores = [0] ∧ g.step = 2
        ∧ Reaches s g.partition g.asid (g.word 1).toNat (saveBytes g.cores.length) .store 0x800000
        ∧ (∀ p ∈ (s.beforeSave g).savePieces 1 g, p.1 + p.2.length ≤ saveBytes g.cores.length)
        ∧ (s.ctx (.slot 0 3)).ctl.status = .yielded) :=
  ⟨_, rfl, noneWaits_empty rfl, by decide, canonical_of (by decide) (by decide) (by decide), rfl, rfl,
    reaches_of (Or.inr rfl) (by decide) (by decide) (by decide) (fun i _ => hbm_of (by decide) i) (by decide) (by decide), by decide,
    by decide⟩

/-- A saved group of one role, with the slot record of slot 3 in its save area. -/
noncomputable def saved : State :=
  let s := grouped fun g => { g with
    phase := .saved, step := 2, cores := []
    kept := [(0, ⟨0, [], [], 0, [], List.replicate 8 0, List.replicate 8 0, false, [], [(3, ⟨9, none, .none, false, []⟩)], [], [], [], [],
      (0, 0, 0), []⟩)] }
  { s.onCore 0 fun k => { k with binding := none } with
    mem := s.mem.writeL (0x800000 + 0x1000 + 0x8000 + 0x3000 * 3) (wordToBytes 1) }

theorem witness_SavesAndResumptions_resume : (let s := saved
      ∃ g, s.group? 1 = some g ∧ NoneWaits s none ∧ g.phase = .saved ∧ s.bindable g.partition none g.kept.length g.pump.isSome [2] = true
        ∧ Reaches s g.partition g.asid (g.word 1).toNat (saveBytes g.kept.length) .load 0x800000
        ∧ s.tapesBusy g [2] = false ∧ (∀ cl k, ((s.cluster cl).tape k).owner ≠ some (.slot 2 3))
        ∧ ∃ kp, g.kept.find? 0 = some kp ∧ (kp.acts.find? 3).isSome = true ∧ kp.acts.find? 2 = none ∧ kp.pairs = []
          ∧ (s.mem.word (0x800000 + (0x1000 + 0x8000 + 0x3000 * 3) + 0)).toNat % 4 = 1) :=
  ⟨_, rfl, noneWaits_empty rfl, rfl, by decide,
    reaches_of (Or.inl rfl) (by decide) (by decide) (by decide) (fun i _ => hbm_of (by decide) i) (by decide) (by decide), by decide,
    fun cl k => get_of (fun c => ∀ k, (c.tape k).owner ≠ some (.slot 2 3)) saved.clusters cl Cluster.init
      (fun p h k => get_of (fun t => t.owner ≠ some (.slot 2 3)) p.2.tapes k Tape.init
        ((by decide : ∀ p ∈ saved.clusters, ∀ t ∈ p.2.tapes, t.2.owner ≠ some (.slot 2 3)) p h) (by decide))
      (fun k => get_of (fun t => t.owner ≠ some (.slot 2 3)) [] k Tape.init (fun _ h => nomatch h) (by decide)) k,
    _, rfl, by decide, by decide, rfl, by decide⟩

/-! ### Device events, boot, steps -/

/-- An operation of the group of `two` on operands 5 and −7. -/
def op0 (c0 c1 : Word) : TreeOp := ⟨1, 0, 0, 9, 0, [⟨0, 0, c0, 5⟩, ⟨1, 1, c1, toWord (2 ^ 64 - 7)⟩], none⟩

theorem witness_DeviceEvents_tree : (∀ c ∈ ([(0, 0), (3, 3), (6, 6), (0, 3)] : List (Word × Word)),
      let s : State := { two with tree := [op0 c.1 c.2] }
      s.tree[0]? = some (op0 c.1 c.2) ∧ ∃ g, s.group? (op0 c.1 c.2).launch = some g ∧ g.phase ≠ .saved ∧ g.cores.Nodup ∧ g.cores.length ≤ 4096
        ∧ (op0 c.1 c.2).result = none ∧ s.treeComplete (op0 c.1 c.2) g = true
        ∧ (∀ x ∈ (op0 c.1 c.2).operands, s.movesAway (op0 c.1 c.2).launch x.role = false)
        ∧ (∀ x ∈ (op0 c.1 c.2).operands, s.earlierOperand (op0 c.1 c.2) x = false)
        ∧ ((op0 c.1 c.2).operands.map TreeOperand.role).Nodup ∧ (∀ x ∈ (op0 c.1 c.2).operands, x.role ∈ (op0 c.1 c.2).participants g))
    ∧ (∀ x ∈ (op0 6 6).operands, opRm x.ctl = (6, 0)) ∧ opRm (0 : Word) ≠ opRm 3 := by
  refine ⟨fun c hc => ?_, by decide, by decide⟩
  simp only [List.mem_cons, List.not_mem_nil, or_false] at hc
  rcases hc with rfl | rfl | rfl | rfl <;> exact ⟨rfl, _, rfl, by decide, by decide, by decide, rfl, by decide, by decide, by decide, by decide, by decide⟩

/-- A reduction packet to peer 2, of entry 7 of `two`. -/
def packet0 : Packet := ⟨2, 0x1000, .add, true, 5, 1, [⟨0, 0, 7, 1, 0, 0x2000000001000⟩], false⟩

/-- A reduction packet of another device to the same address. -/
def packet1 : Packet := { packet0 with sum := 9, devices := 8, from_ := [⟨3, 0, 4, 1, 0, 0⟩] }

/-- A state with a packet, a tape of five lines, cellarer core 5 started at 0x2000, and a role on core 0 whose slots are FREE. -/
noncomputable def erring : State :=
  let s : State := { grouped id with packets := [packet0], board := { State.reset.board with entry := [(5, 0x2000)] } }
  s.onCluster 0 fun c => { c with tapes := [(7, relTape .sealed false none)] }

theorem witness_DeviceEvents : (let s := erring
      s.parts.failing = [] ∧ isMemory (Config.hbmSize - 1) = true ∧ 0x3FEFF < Config.sliceTop ∧ 0 < ((s.cluster 0).tape 7).lines
        ∧ clusterOf 0 < Config.clusters ∧ (s.core 0).service = .enabled ∧ s.spareOf (clusterOf 0) = some 16 ∧ (0 : Nat) ≠ 16
        ∧ (s.core 0).inflight = [] ∧ s.pressRunning 0 = none ∧ 271 < Config.clusters ∧ 271 ∉ s.parts.quar
        ∧ (∀ c ∈ coresOf 0, s.drainRuns c = false) ∧ (∃ c ∈ s.parts.spare, c / Config.clustersPerDie = 0 / Config.clustersPerDie ∧ c ≠ 0)
        ∧ s.partOfCel 5 = 0 ∧ s.board.entry.find? 5 = some 0x2000)
    ∧ AllFree erring 0 ∧ Canonical erring
    ∧ (draining 4 0 2).drainRuns 0 = true ∧ ErrWhere.core 0 ∉ (draining 4 0 2).parts.failing
    ∧ (let s := { erring with parts := { erring.parts with spare := [] } }
      (∀ c, ¬ (c ∈ s.parts.spare ∧ c / Config.clustersPerDie = 0 / Config.clustersPerDie ∧ c ≠ 0))
        ∧ ∃ g, s.group? 1 = some g ∧ (∃ c ∈ g.cores, clusterOf c = 0) ∧ g.phase ≠ .ending)
    ∧ ErrWhere.core 0 ∈ ({ erring with parts := { erring.parts with failing := [.core 0] } } : State).parts.failing :=
  ⟨by decide, by unfold AllFree; decide, canonical_of (by decide) (by decide) (by decide), by decide, by decide,
    ⟨fun c h => absurd h.1 (List.not_mem_nil), _, rfl, by decide, by decide⟩, by decide⟩

theorem witness_DeviceEvents_packets : (let s := erring
      s.packets[0]? = some packet0 ∧ (∀ q ∈ s.packets.drop (0 + 1), ¬ MayMerge packet0 q) ∧ Canonical s ∧ Sound s (.peer 2 0x1000) 8
        ∧ packet0.from_ = [⟨0, 0, 7, 1, 0, 0x2000000001000⟩] ∧ s.device = 0 ∧ s.coreOf? 1 0 = some 0 ∧ ∃ g, s.group? 1 = some g)
    ∧ ({ erring with unreachable := [2] } : State).noRoute (.peer 2 0x1000) = true
    ∧ (∀ p ∈ [false, true], let s : State := { erring with performed := if p then packet0.from_.map fun c => (packet0.dev, c.dev, c.seq) else [] }
      packet0.from_ ≠ [] ∧ ((∀ c ∈ packet0.from_, (packet0.dev, c.dev, c.seq) ∈ s.performed) ↔ p = true))
    ∧ (let l := [packet0, { packet1 with resent := true }, packet1]
      l[0]? = some packet0 ∧ l[0 + 1 + 1]? = some packet1 ∧ MayMerge packet0 packet1 ∧ ∀ r ∈ (l.drop (0 + 1)).take 1, ¬ MayMerge packet0 r) :=
  ⟨⟨rfl, fun q h => absurd h (List.not_mem_nil), canonical_of (by decide) (by decide) (by decide),
    sound_of (by decide) (by decide) (by decide), by decide, by decide, by decide, _, rfl⟩, by decide, by decide, by unfold MayMerge; decide⟩

/-- The board controller has a command given at a cycle. -/
noncomputable def commanded (at_ by_ : Nat) (w : Word) : State :=
  { State.reset with now := 3, board := { State.reset.board with kst := [(3, 1)], mbst := 1, command := w, commandAt := at_, commandBy := by_ } }

theorem witness_BootAndBoard : (let s := State.reset
      Canonical s ∧ s.board.powered = true ∧ s.hostPort.boot = 0 ∧ s.hostPort.attempts = 0 ∧ s.mem.word 0 ≠ 0x31464D5553595650
        ∧ s.parts.tscst ≠ 1 ∧ s.board.mbst = 0 ∧ (∀ c ∈ [0, 271], c ∉ s.parts.quar ∧ ∀ k ∈ coresOf c, (s.core k).binding.isSome = false)
        ∧ ((0 : Nat) = 0 ∧ ∃ k, k < 16 ∧ (0x8000 : Word).getLsbD k = true ∧ s.partOfCel k ≠ 3))
    ∧ (let s : State := { State.reset with now := 5, hostPort := { State.reset.hostPort with boot := 2, attempts := 1, retryAt := 5 } }
      s.hostPort.boot = 2 ∧ s.hostPort.retryAt ≤ s.now ∧ ¬ (s.hostPort.boot = 0 ∧ s.hostPort.attempts = 0))
    ∧ ({ State.reset with board := { State.reset.board with powered := false } } : State).board.powered = false
    ∧ (let s := commanded 2 0 (toWord (3600 * 2 ^ 32 + 3))
      s.board.kst.get 3 0 = 1 ∧ s.board.mbst = 1 ∧ s.board.commandAt < s.now ∧ s.board.command.toNat / 2 ^ 32 ≤ 3600)
    ∧ (let s := { commanded 3 4 1 with cur := .cel 2 }
      s.board.mbst = 1 ∧ s.board.commandAt = s.now ∧ s.cur = .cel 2 ∧ 2 < s.board.commandBy)
    ∧ ((State.reset.onCluster 271 fun c => { c with tscLoading := true }).cluster 271).tscLoading = true
    ∧ (let s := mine cel fun c => { c with ctl := { c.ctl with hold := some (.fqwait 5 (some 0)) } }
      (s.ctx (.cel 0)).ctl.hold = some (.fqwait 5 (some 0)) ∧ (s.ctx (.cel 0)).ctl.status = .running ∧ 0 ≤ s.now) := by
  refine ⟨⟨canonical_of (by decide) (by decide) (by decide), by decide, by decide, by decide, by decide, by decide, by decide, by decide,
    rfl, 15, by decide⟩, by decide, by decide, by decide, by decide, by decide, by decide⟩

theorem witness_EncodeDecodeRoundTrip : wellFormed (.addi 31 30 1 0x7FFF) = true
    ∧ encode (.addi 31 30 1 0x7FFF) = some (0b000100_11111_11110_1_111111111111111 : IWord)
    ∧ decode (0b000100_11111_11110_1_111111111111111 : IWord) = some (.addi 31 30 1 0x7FFF) := by decide

/-- The world of a placed word, before its step. -/
noncomputable def placed (w : Nat) : State := State.reset.withFetchWord 32 w

theorem witness_StepRunsDecoded : (let s := placed 0b000001_00011_00100_00101_1_0_000000000
      s.board.powered = true ∧ s.agenda = [.issue (.slot 0 0)] ∧ (s.ctx (.slot 0 0)).ctl.canIssue = true
        ∧ (let u := ({ s with agenda := [] } : State).beginIssue (.slot 0 0)
          u.fetch (.slot 0 0) = .word (0b000001_00011_00100_00101_1_0_000000000 : IWord)
            ∧ decode ((s.ctx (.slot 0 0)).ctl.issued (0b000001_00011_00100_00101_1_0_000000000 : IWord)) = some (.add 3 4 5 1 0)
            ∧ (s.ctx (.slot 0 0)).ctl.frame = none
            ∧ u.xlate (.slot 0 0) (u.asidFor (.slot 0 0)) (s.ctx (.slot 0 0)).ctl.pc.toNat .fetch
              = .hit (.mem 0x400000) .un (toWord (0x400000 + 1), toWord (2 ^ 63 + 2 ^ 60 + 2 ^ 58 + 2 ^ 57 + 0x400000 + 2 ^ 13))
            ∧ u.poisonAt (.mem 0x400000) 4 = none))
    ∧ decode (((placed 0).ctx (.slot 0 0)).ctl.issued 0) = none
    ∧ (({ lost two with agenda := [] } : State).beginIssue (.slot 0 0)).fetch (.slot 0 0) = .fails 0x05
    ∧ (State.reset.ctx (.cel 0)).ctl.canIssue = false := by decide

/-- A load that keeps slot 0 may still trap, so that the word 0 waits. -/
noncomputable def held : State :=
  (placed 0).onCtx (.slot 0 0) fun c => { c with loads := [⟨3, .x 5, [(7, none)], none, none, false, some c.ctl, none⟩] }

/-- `held` with slot 0 about to run the word. -/
noncomputable def heldIssue : State :=
  (({ held with agenda := [] } : State).beginIssue (.slot 0 0)).countFetch (.slot 0 0)

theorem witness_StepRunsDecoded_waits : exec (.illegalInstruction 0) heldIssue = .next heldIssue ∧ held.loadDue (.slot 0 0) = false
    ∧ Turn ((placed 0).onCtx (.slot 0 0) fun c => { c with ctl := { c.ctl with late := 1 } }) (.slot 0 1)
    ∧ (let s : State := { two with packets := [packet1] }
      packet1.from_ ≠ [] ∧ ∀ c ∈ packet1.from_, ∃ q ∈ s.packets, q.dev = packet1.dev ∧ ∃ d ∈ q.from_, d.dev = c.dev ∧ d.seq = c.seq) :=
  ⟨rfl, by decide, by unfold Turn; decide, by decide⟩

theorem witness_StepRunsDecoded_others : Turn (placed 0) (.slot 0 0)
    ∧ ¬ Turn ((placed 0).onCore 0 fun k => { k with lastSlot := 7 }) (.slot 0 3)
    ∧ ({ placed 0 with board := { (placed 0).board with powered := false } } : State).board.powered = false
    ∧ (two.board.powered = true ∧ packet1.devices.getLsbD two.device = false ∧ ∀ c ∈ packet1.from_, c.dev ≠ two.device)
    ∧ ((placed 0).beginIssue (.slot 0 0)).noRoute (.mem 0x400000) = false := by
  refine ⟨by unfold Turn; decide, fun h => absurd (h 0 (by decide) (by decide) (by decide)) (by decide), by decide, by decide, by decide⟩

theorem witness_MemoryStaysCanonical : Canonical (placed 0x18000000) ∧ ∃ t, step (placed 0x18000000) = .next t :=
  ⟨canonical_of (by decide) (by decide) (by decide), _, rfl⟩

/-! ### Ill-formed terms, one for each check -/

theorem test_illFormed_memory : ([.lds 1 2 0 2 3 0, .lds 1 2 0 0 6 0, .sts 1 2 0 1 3 0, .sts 1 2 0 0 6 0, .ldc 1 2 0 2 3 0, .ldc 1 2 0 0 7 0,
    .stc 1 2 0 1 3 0, .stc 1 2 0 0 6 0, .ld 1 2 0 2 3 0, .ld 1 2 0 0 6 0, .st 1 2 0 1 3 0, .st 1 2 0 0 7 0, .ldf 1 2 0 2 0,
    .fence 6 1, .fence 5 0, .fenceAcq 31 1, .fenceAcq 0 0, .fenceRel 6 3, .fenceRel 0 0] : List Instr).all (fun i => !wellFormed i) = true := by
  decide

theorem test_illFormed_vector : ([.vfadd 1 2 3 0 0 0, .vfadd 1 2 3 0 1 5, .vfsub 1 2 3 0 0 0, .vfsub 1 2 3 0 2 7, .vfmul 1 2 3 0 0 0,
    .vfmul 1 2 3 0 1 6, .vfma 1 2 3 0 0 0, .vfma 1 2 3 0 1 5, .vfmin 1 2 3 0 0, .vfmax 1 2 3 0 0, .vfdiv 1 2 3 0 0 0, .vfdiv 1 2 3 0 3 5,
    .vfsqrt 1 2 0 0 0, .vfsqrt 1 2 0 1 5, .vfcmpeq 1 2 3 0 0, .vfcmplt 1 2 3 0 0, .vfcmple 1 2 3 0 0, .vfcmpun 1 2 3 0 0,
    .vfredadd 1 2 0 0 0, .vfredadd 1 2 5 0 1, .vfredmin 1 2 0 0, .vfredmax 1 2 0 0] : List Instr).all (fun i => !wellFormed i) = true := by
  decide

theorem test_illFormed_copies : ([.rack 1 2 3 0 0 0, .rackT 1 2 3 0 0 0, .rackzD 1 2 3 0] : List Instr).all (fun i => !wellFormed i) = true := by
  decide

/-! ### Words written out from the encoding tables -/

/-- The decoder reads each word as the instruction beside it. -/
noncomputable def reads (l : List (Nat × Instr)) : Bool := l.all (fun p => decide (decodeTableWord 32 p.1 = some p.2))

theorem test_decode_opa_1 : reads [
    (0x07285000, .add 25 8 10 0 0), (0x0443D601, .sub 2 3 26 1 1), (0x05F40C02, .addW 15 20 1 1 0),
    (0x079B2003, .subW 28 27 4 0 0), (0x06A2C004, .addsl1 21 2 24 0 0), (0x06FC8E05, .addsl2 23 28 17 1 1),
    (0x05D49E06, .addsl3 14 20 19 1 1), (0x07175007, .mkca 24 23 10 0 0), (0x04F6F008, .and 7 22 30 0 0),
    (0x04121009, .or 0 18 2 0 0), (0x067F6C0A, .xor 19 31 13 1 0), (0x062F740B, .andn 17 15 14 1 0),
    (0x0707480C, .orn 24 7 9 0 0), (0x0705EE0D, .xnor 24 5 29 1 1), (0x0723D210, .sll 25 3 26 0 1),
    (0x06666411, .srl 19 6 12 1 0), (0x06DCAA12, .sra 22 28 21 0 1), (0x071DAA13, .ror 24 29 21 0 1),
    (0x07F76614, .sllW 31 23 12 1 1), (0x0623D615, .srlW 17 3 26 1 1)] = true := by decide

theorem test_decode_opa_2 : reads [
    (0x04779416, .sraW 3 23 18 1 0), (0x065F3A18, .seq 18 31 7 0 1), (0x05B93619, .sne 13 25 6 1 1),
    (0x04CF161A, .slt 6 15 2 1 1), (0x05879A1B, .sltu 12 7 19 0 1), (0x0789C21C, .sge 28 9 24 0 1),
    (0x067EFA1D, .sgeu 19 30 31 0 1), (0x053C7220, .min 9 28 14 0 1), (0x0680B421, .max 20 0 22 1 0),
    (0x07121622, .minu 24 18 2 1 1), (0x04A14823, .maxu 5 1 9 0 0), (0x0482C628, .cmovz 4 2 24 1 1),
    (0x06635C29, .cmovnz 19 3 11 1 0)] = true := by decide

theorem test_decode_opm : reads [
    (0x0864B600, .mul 3 4 22 1 1), (0x08508801, .mulh 2 16 17 0 0), (0x0A157802, .mulhu 16 21 15 0 0),
    (0x0A942A03, .mulW 20 20 5 0 1), (0x0AC77408, .div 22 7 14 1 0), (0x0B7E3209, .divu 27 30 6 0 1),
    (0x088FC20A, .rem 4 15 24 0 1), (0x09FDCE0B, .remu 15 29 25 1 1), (0x09640010, .clz 11 4 0), (0x0B370411, .ctz 25 23 1),
    (0x09910412, .popc 12 17 1), (0x0A2C0413, .bswap 17 12 1), (0x09FF0414, .brev 15 31 1)] = true := by decide

theorem test_decode_opc : reads [
    (0x0C130000, .jr 19 0), (0x0CFB0001, .jlr 7 27 0), (0x0FA01810, .crr 29 3), (0x0C0FC011, .crw 15 24 0),
    (0x0DED2012, .crrw 15 13 4 0), (0x0C006014, .crrBank1 0 12), (0x0C197415, .crwBank1 25 14 1),
    (0x0E498816, .crrwBank1 18 9 17 0), (0x0C1C0020, .empw 28 0), (0x0C1A0021, .fulw 26 0),
    (0x0F690022, .few 27 9 0)] = true := by decide

theorem test_decode_imm : reads [
    (0x123B73EB, .addi 17 27 0 29675), (0x172E051F, .andi 25 14 0 1311), (0x186D2B3E, .ori 3 13 0 11070),
    (0x1CFB4138, .xori 7 27 0 16696), (0x238D4B59, .slti 28 13 0 19289), (0x2420CB23, .sltiu 1 0 1 19235),
    (0x29650011, .slli 11 5 0 17), (0x287D102F, .srli 3 29 0 47), (0x28C12022, .srai 6 1 0 34),
    (0x2860B032, .rori 3 0 1 50), (0x2C45E1D4, .cati 2 5 1 25044)] = true := by decide

theorem test_decode_flow : reads [
    (0x30005FF6, .repf 11 15 3 2 3), (0x45F57288, .j 32862856), (0x4954865E, .jl 22316638),
    (0xF880D64C, .hint 8443468)] = true := by decide

theorem test_decode_b : reads [
    (0x40002646, .b 9798), (0x407F42F9, .bEqz 31 82681), (0x4089F3E4, .bNez 4 127972), (0x40DFFB32, .bLtz 15 129842),
    (0x4119BC89, .bGez 12 113801), (0x4156AB5D, .bGtz 11 43869), (0x419FA986, .bLez 15 108934),
    (0x41E3C1D1, .bBc 17 115153), (0x423922CB, .bBs 28 74443), (0x424E47DB, .bFull 7 18395), (0x429CEEE0, .bEmpty 14 61152),
    (0x42CDA954, .bPany 6 108884), (0x43006933, .bPnone 0 26931)] = true := by decide

theorem test_decode_task : reads [
    (0x50000000, .yield), (0x50000001, .retire), (0x50000002, .done), (0x50000003, .uret), (0x5295F604, .send 20 21 30 1 1),
    (0x501A2005, .spawn 26 4 0 0), (0x500A4806, .decr 10 9 0 0), (0x5002FE07, .htset 2 31 1 1),
    (0x51F70008, .htget 15 23 0), (0x500D0009, .pumpq 13 0), (0x52F8040A, .rslv 23 24 1)] = true := by decide

theorem test_decode_mem : reads [
    (0x61EBE968, .lds 15 11 1 3 2 360), (0x64E507CE, .sts 7 5 0 0 1 974), (0x6B9320EA, .ldc 28 19 0 1 0 234),
    (0x6FB20F46, .stc 29 18 0 0 3 838), (0x7261B433, .ld 19 1 1 1 5 51), (0x74FF05D0, .st 7 31 0 0 1 464),
    (0x7A5B0DAB, .ldf 18 27 0 0 427)] = true := by decide

theorem test_decode_atom_1 : reads [
    (0x7C2B5630, .aswap 1 11 10 1 1 1 1), (0x7CBFDE21, .acas 5 31 27 1 1 1 0), (0x7D9EDC02, .aadd 12 30 27 1 0 0 0),
    (0x7EBD8A23, .aand 21 29 17 0 1 1 0), (0x7F416634, .aor 26 1 12 1 1 1 1), (0x7C383C35, .axor 1 24 7 1 0 1 1),
    (0x7FD02826, .amin 30 16 5 0 0 1 0), (0x7E273807, .amax 17 7 7 0 0 0 0), (0x7FAAA028, .aminu 29 10 20 0 0 1 0),
    (0x7F8CEE09, .amaxu 28 12 29 1 1 0 0), (0x7E578C2A, .afadd 18 23 17 1 0 1 0), (0x7DE3301B, .aminp 15 3 6 0 0 0),
    (0x7C03F442, .redadd 3 30 1 0 0 0), (0x7C15E443, .redand 21 28 1 0 0 0), (0x7C009A54, .redor 0 19 0 1 0 1),
    (0x7C1A0865, .redxor 26 1 0 0 1 0), (0x7C1DE856, .redmin 29 29 0 0 0 1), (0x7C169457, .redmax 22 18 1 0 0 1),
    (0x7C07E248, .redminu 7 28 0 1 0 0), (0x7C0C9A59, .redmaxu 12 19 0 1 0 1)] = true := by decide

theorem test_decode_atom_2 : reads [
    (0x7C1C9C4A, .redfadd 28 19 1 0 0 0), (0x7C09CC7B, .redminp 9 25 1 0 1), (0x7C630080, .fence 3 3),
    (0x7C810081, .fenceAcq 4 1), (0x7C210082, .fenceRel 1 1)] = true := by decide

theorem test_decode_vop_1 : reads [
    (0x8309B5C0, .vadd 24 9 22 5 3), (0x8154CBC1, .vsub 10 20 25 3 3), (0x80C461C2, .vadds 6 4 12 1 3),
    (0x83674483, .vaddus 27 7 8 4 2), (0x812A95C4, .vsubs 9 10 18 5 3), (0x80A70105, .vsubus 5 7 0 1 0),
    (0x8195B946, .vmul 12 21 23 1 1), (0x82F40E87, .vmulh 23 20 1 6 2), (0x828B4C48, .vmulhu 20 11 9 4 1),
    (0x810AC9C9, .vmacc 8 10 25 1 3), (0x83A4E1CA, .vmin 29 4 28 1 3), (0x81EFB98B, .vmax 15 15 23 1 2),
    (0x8176C8CC, .vminu 11 22 25 0 3), (0x83B46A4D, .vmaxu 29 20 13 2 1), (0x8223018E, .vabs 17 3 1 2),
    (0x83F4C490, .vand 31 20 24 4 2), (0x8164F291, .vor 11 4 30 2 2), (0x81492BD2, .vxor 10 9 5 3 3),
    (0x80386353, .vandn 1 24 12 3 1), (0x81BA38D8, .vsll 13 26 7 0 3)] = true := by decide

theorem test_decode_vop_2 : reads [
    (0x82A6A459, .vsrl 21 6 20 4 1), (0x8041B71A, .vsra 2 1 22 7 0), (0x80EA8668, .vcmpeq 7 10 16 6 1),
    (0x80A8C4E9, .vcmpne 5 8 24 4 3), (0x809B15EA, .vcmplt 4 27 2 5 3), (0x80D79CAB, .vcmpltu 6 23 19 4 2),
    (0x80201F6C, .vcmple 1 0 3 7 1), (0x804FB92D, .vcmpleu 2 15 23 1 0)] = true := by decide

theorem test_decode_vfp : reads [
    (0x8534BB43, .vfadd 9 20 23 3 1 3), (0x8574E389, .vfsub 11 20 28 3 2 1), (0x86F372D2, .vfmul 23 19 14 2 3 2),
    (0x844A1D58, .vfma 2 10 3 5 1 0), (0x85AAD2E0, .vfmin 13 10 26 2 3), (0x84FBE7E8, .vfmax 7 27 28 7 3),
    (0x853257B3, .vfdiv 9 18 10 7 2 3), (0x877C027C, .vfsqrt 27 28 2 1 4)] = true := by decide

theorem test_decode_vcvt : reads [
    (0x8BE14409, .vcvt 31 1 4 4 9), (0x88925717, .vcvtS 4 18 5 7 7)] = true := by decide

theorem test_decode_vperm_1 : reads [
    (0x8C180280, .vmov 0 24 2 2), (0x8F490781, .vsplat 26 9 7 2), (0x8E4298C2, .vext 18 2 19 3),
    (0x8E3460C3, .vins 17 20 12 3), (0x8E3F64C4, .vpermv 17 31 12 4 3), (0x8CE00305, .viota 7 3 0),
    (0x8CC11008, .pand 6 1 2), (0x8C441009, .por 2 4 2), (0x8CC7000A, .pxor 6 7 0), (0x8C05380B, .pandn 0 5 7),
    (0x8CED000C, .pmovx 7 13), (0x8E41000D, .pmovp 18 1), (0x8DC1008E, .pcnt 14 1 2), (0x8C697190, .vfcmpeq 3 9 14 1 2),
    (0x8CBBB7D1, .vfcmplt 5 27 22 7 3), (0x8C774BD2, .vfcmple 3 23 9 3 3), (0x8C464553, .vfcmpun 2 6 8 5 1),
    (0x8F090398, .vredadd 24 9 3 2), (0x8E690459, .vredaddu 19 9 4 1), (0x8F4E015A, .vredmin 26 14 1 1)] = true := by decide

theorem test_decode_vperm_2 : reads [
    (0x8CE3055B, .vredmax 7 3 5 1), (0x8FC5039C, .vredminu 30 5 3 2), (0x8CE6079D, .vredmaxu 7 6 7 2),
    (0x8C4C26A0, .vfredadd 2 12 4 6 2), (0x8C610761, .vfredmin 3 1 7 1), (0x8C0100A2, .vfredmax 0 1 0 2),
    (0x8D5B0030, .fmtw 10 27), (0x8E4C0031, .fmtr 18 12)] = true := by decide

theorem test_decode_vmem : reads [
    (0x92B44E80, .vgatherS 21 20 9 6 2), (0x93EF9F81, .vscatterS 31 15 19 7 2), (0x90F0C082, .vgatherC 7 16 24 0 2),
    (0x92563083, .vscatterC 18 22 6 0 2), (0x9070CC04, .vgatherG 3 16 25 4 0),
    (0x92D38B45, .vscatterG 22 19 17 3 1)] = true := by decide

theorem test_decode_tile : reads [
    (0x98180000, .tshape 0 24 0), (0x98800001, .trel 4), (0x98200002, .tzero 1), (0x98056203, .twrow 0 5 12 0 1),
    (0x9B056004, .trdrow 24 5 12 0), (0x98669605, .twcol 3 6 18 1 1), (0x9A414206, .trdcol 18 1 8 1),
    (0x98272807, .tmac 1 7 5), (0x9BC50008, .tstat 30 5)] = true := by decide

theorem test_decode_reg : reads [
    (0xA3464080, .qand 13 1 9 1), (0xA064C100, .qor 1 9 3 0), (0xA37A0200, .qsub 13 14 8 0), (0xA0800309, .qxlt 2 0 0 9),
    (0xA1D80482, .qdil 7 6 1 2), (0xA26C0603, .qproj 9 11 0 3), (0xA02C0796, .qsplit 0 11 1 22), (0xA2280800, .qclip 8 10),
    (0xA3F40900, .qbbox 15 13), (0xA02C0A08, .qcnt 11 8), (0xA03ECB12, .qcmp 15 11 18), (0xA0040C09, .qgetb 1 0 9),
    (0xA0C40D15, .qmkb 3 1 21), (0xA0A00E02, .qmkbs 2 8 2), (0xA2C40F18, .qrag 11 1 24), (0xA0801009, .qall 2 9),
    (0xA0001118, .qdtbw 24), (0xA0001120, .qdtbr 0), (0xA340121C, .qld 13 28), (0xA0081312, .qst 2 18)] = true := by decide

theorem test_decode_eng_1 : reads [
    (0xB0004C38, .rack 0 9 16 1 1 1), (0xB00F57D0, .rackT 14 10 31 0 1 0), (0xB0129A90, .rackm 5 3 10 0 1 0),
    (0xB0198720, .rackzC 3 0 28), (0xB0185804, .rackzD 0 11 0 0), (0xB0205C00, .relslot 1 14), (0xB0288000, .dictld 2),
    (0xB035CE00, .waitc 23 7), (0xB03D8000, .waitr 11), (0xB0400000, .drainS), (0xB0480000, .drainG), (0xB0500000, .drainM),
    (0xB05E8000, .rstatState 26), (0xB0594040, .rstatGeneration 5), (0xB05B4080, .rstatFault 13),
    (0xB05B70C0, .rstatCredit 13 24), (0xB103C000, .lease 15), (0xB1080000, .unlease), (0xB115C000, .ploadw 23),
    (0xB11C0000, .pstream 16)] = true := by decide

theorem test_decode_eng_2 : reads [
    (0xB120C000, .pdrain 3), (0xB12E6400, .dleave 25 4 1), (0xB133C000, .pstatState 15), (0xB1334040, .pstatFault 13),
    (0xB1375680, .pstatRow 29 11), (0xB2058000, .trcfg 22), (0xB20F0000, .trbin 14), (0xB2178000, .trupd 15),
    (0xB21A9800, .trpairs 5 6), (0xB2220000, .trstatState 8), (0xB222C040, .trstatFault 11),
    (0xB2232880, .trstatCell 12 20), (0xB2280000, .trrel), (0xB3014000, .caskrec 5), (0xB308C000, .caskend 3),
    (0xB3153E00, .decant 20 31), (0xB31BC000, .caskdrop 15), (0xB3223200, .cstatTape 8 25), (0xB325C040, .cstatFree 23),
    (0xB3248480, .cstatNext 18 2)] = true := by decide

theorem test_decode_sys : reads [
    (0xC00AAFE0, .syscall 700384), (0xC018C795, .brk 575381), (0xC029F540, .resume 19 29 10), (0xC0320C00, .abort 4 3),
    (0xC04A1500, .slotrd 20 5 8), (0xC05909A0, .slotwr 18 2 13), (0xC06775C0, .fqpop 14 29 14), (0xC0781000, .fqwait 16 4),
    (0xC0800000, .kret)] = true := by decide


/-! ### One step each, with results the spec gives -/

/-- The issuing slot with V registers. -/
noncomputable def vs (s : State) (l : List (BitVec 5 × VReg)) : State := mine s fun c => l.foldl (fun c p => c.setV p.1 p.2) c

/-- Table 5-4: the sum wraps; R75: the write to X0 is dropped. -/
theorem test_add_wraps : let s := xs two [(4, BitVec.allOnes 64), (5, 2)]
    (after (.add 3 4 5 0 0) s).me.x 3 = 1 ∧ (after (.add 0 4 5 0 0) s).me.x 0 = 0 := by decide

/-- Table 5-4: ADD.W sign-extends its 32-bit sum. -/
theorem test_addW_sign : (after (.addW 3 4 5 0 0) (xs two [(4, 0x7FFFFFFF), (5, 1)])).me.x 3 = 0xFFFFFFFF80000000 := by decide

/-- Table 5-4, note: MKCA of 37 and 0x100 is 0x94_0100. -/
theorem test_mkca_example : (after (.mkca 3 4 5 0 0) (xs two [(4, 37), (5, 0x100)])).me.x 3 = 0x940100 := by decide

/-- Table 5-4: SRA of −2^63 by 63 is −1; the amount is taken modulo 64. -/
theorem test_sra_minus : (after (.sra 3 4 5 0 0) (xs two [(4, 0x8000000000000000), (5, 127)])).me.x 3 = BitVec.allOnes 64 := by decide

/-- Table 5-5: MULHU of all ones by all ones; MULH of the same is 0. -/
theorem test_mulhu_ones : let s := xs two [(4, BitVec.allOnes 64), (5, BitVec.allOnes 64)]
    (after (.mulhu 3 4 5 0 0) s).me.x 3 = 0xFFFFFFFFFFFFFFFE ∧ (after (.mulh 3 4 5 0 0) s).me.x 3 = 0 := by decide

/-- R113: −7 by 2 is −3, remainder −1; by zero all ones, remainder the dividend; −2^63 by −1 is −2^63. -/
theorem test_div_corners : let s := xs two [(4, toWord (2 ^ 64 - 7)), (5, 2), (6, 0x8000000000000000), (7, BitVec.allOnes 64)]
    (after (.div 3 4 5 0 0) s).me.x 3 = toWord (2 ^ 64 - 3) ∧ (after (.rem 3 4 5 0 0) s).me.x 3 = toWord (2 ^ 64 - 1)
      ∧ (after (.div 3 4 0 0 0) s).me.x 3 = BitVec.allOnes 64 ∧ (after (.remu 3 4 0 0 0) s).me.x 3 = toWord (2 ^ 64 - 7)
      ∧ (after (.div 3 6 7 0 0) s).me.x 3 = 0x8000000000000000 := by decide

/-- Table 5-5: the counts of zero are 64; BSWAP and BREV reverse. -/
theorem test_counts : let s := xs two [(4, 1)]
    (after (.clz 3 0 0) s).me.x 3 = 64 ∧ (after (.clz 3 4 0) s).me.x 3 = 63 ∧ (after (.bswap 3 4 0) s).me.x 3 = 0x0100000000000000
      ∧ (after (.brev 3 4 0) s).me.x 3 = 0x8000000000000000 := by decide

/-- R115: ORI 0x128 and CATI 0x100 build 0x94_0100. -/
theorem test_cati_example : (after (.cati 5 5 0 0x100) (xs two [(5, 0x128)])).me.x 5 = 0x940100 := by decide

/-- R114: ADDI sign-extends its immediate. -/
theorem test_addi_negative : (after (.addi 3 0 0 0x7FFF) two).me.x 3 = BitVec.allOnes 64 := by decide

/-- R78: a displacement of −1 goes back to the word before the branch; R79: without it, A + 12 is fetched after the delay slots. -/
theorem test_branch_back : (after (.bNez 4 0x1FFFF) (xs two [(4, 1)])).me.ctl.redirect = some ⟨0x3FFFFC, 2⟩
    ∧ (after (.bNez 4 0x1FFFF) two).me.ctl.redirect = some ⟨0x40000C, 2⟩ := by decide

/-- R78: JL writes A + 12 to X31. -/
theorem test_jl_link : (after (.jl 1) two).me.x 31 = 0x40000C := by decide

/-- Table 5-11: C.SLOT reads the slot's number; R8: a write to it is ignored. -/
theorem test_crr_slot : (after (.crr 3 6) two).me.x 3 = 0 ∧ (after (.crw 4 6 0) (xs two [(4, 7)])).me.sp = two.me.sp := by decide

/-- R54: a load of the own slice zero-extends its data when they land. -/
theorem test_lds_zero_extends : let s := laid (boxed (xs two [(1, 0x1000)])) 0x1000 [0xFFFFFFFFFFFFFFFF]
    let t := after (.performLoad (.slot 0 0) 1) (after (.lds 3 1 0 0 2 0) s)
    (after (.loadReplyLand (.slot 0 0) 0) t).me.x 3 = 0xFFFFFFFF := by decide

/-- Table 6-1: unsigned and signed saturation of bytes. -/
theorem test_vadds_saturates : let s := vs two [(1, 0xFF7F), (2, 0x0201)]
    (after (.vadds 3 1 2 0 0) s).me.v 3 = 0x017F ∧ (after (.vaddus 3 1 2 0 0) s).me.v 3 = 0xFF80 := by decide

/-- The opening example of chapter 6: VIOTA gives 0, 1, 2 …, and VREDADD of 3i over 16 lanes is 360. -/
theorem test_viota_vredadd : let s := vs two [(1, BitVec.ofNat 512 (packElems 32 (fun i => 3 * i) 16))]
    (after (.vredadd 6 1 0 2) s).me.x 6 = 360 ∧ (after (.viota 3 0 2) s).me.v 3 = BitVec.ofNat 512 (packElems 32 id 16) := by decide

/-- R150, the example of VCVT: FP32 7.0 and 0.25 to E2M1 in group 3, with OF, UF and NX. -/
theorem test_vcvt_example : let s := vs two [(1, 0x3E80000040E00000)]
    let s := mine s fun c => (c.setFmt 2 0x34000000).setFmt 3 0x60840E00
    let t := after (.vcvt 4 1 1 0 3) s
    (t.me.v 4).extractLsb' 192 64 = (0x7 : BitVec 64) ∧ t.me.sp.fstat = 7 := by decide

/-- Table 4-7: 1.0 + 2^−24 in FP32 rounds to even, 1.0, and is inexact. -/
theorem test_vfadd_even : let s := vs two [(1, 0x3F800000), (2, 0x33800000)]
    let t := after (.vfadd 3 1 2 0 2 0) s
    (t.me.v 3).setWidth 32 = (0x3F800000 : BitVec 32) ∧ t.me.sp.fstat = 1 := by decide

/-- R101: ∞ − ∞ is the canonical NaN, with NV. -/
theorem test_vfsub_nan : let s := vs two [(1, 0x7F800000)]
    let t := after (.vfsub 3 1 1 0 2 0) s
    (t.me.v 3).setWidth 32 = (0x7FC00000 : BitVec 32) ∧ t.me.sp.fstat = 8 := by decide

/-- Table 6-5: VINS takes its index modulo n. -/
theorem test_vins_modulo : (after (.vins 3 4 5 3) (xs two [(4, 9), (5, 9)])).me.v 3 = BitVec.ofNat 512 (9 * 2 ^ 64) := by decide

/-- Table 6-11, steps 1 and 2: T1 as 4 × 4 FP32, resident and dirty; TSTAT reads bits 63 to 61. -/
theorem test_tshape_example : let s := after (.tshape 1 5 0) (boxed (xs two [(5, 0x20000033)]))
    s.me.view 1 = ⟨1, 0x20000033⟩ ∧ (s.core 0).tile 1 = ⟨some 0, true, Vector.replicate 256 0⟩
      ∧ (after (.tstat 7 1) s).me.x 7 = 0xE000000020000033 := by decide

/-- Table 7-7: packed minima of 1.5 and 0.75. -/
theorem test_redminp_example : rmw (w := 64) .minp 0x7FFFFFFFFFFFFFFF 0x3FC0000000000004 0 = 0x3FC0000000000004
    ∧ rmw (w := 64) .minp 0x3FC0000000000004 0x3F40000000000009 0 = 0x3F40000000000009
    ∧ rmw (w := 64) .minp 0x3F40000000000009 0x3F4000000000000C 0 = 0x3F40000000000009 := by decide

/-- R170, the example of two nibble stores: 0x5 to the low half and 0xC to the high half of one byte. -/
theorem test_nibbles_example : putNibble (putNibble 0 false 5) true 0xC = 0xC5 := by decide

/-- R196: of two dense boxes, QAND is their intersection. -/
theorem test_qand_rows : (after (.qand 8 1 2 1) (qs two [(1, rows4 0 0 2), (2, rows4 0 1 4)])).me.q 8 = rows4 0 1 2 := by decide

/-- R343: SYSCALL traps with cause 0x01, EPC at the word after it, and parks the slot. -/
theorem test_syscall_parks : let t := after (.syscall 5) two
    t.me.ctl.status = .parked ∧ t.me.trap.cause.toNat % 2 ^ 8 = Cause.syscall := by decide

/-- R386, the examples of a slice: a debt of 40,000, and of 1,000,000. -/
theorem test_slice_examples : ∀ p ∈ [(40000, (1210000, 0)), (1000000, (312500, 62500))],
    Claims.sliceOf { two with dispatch := { two.dispatch with debt := [(3, toWord p.1)] } } 3 = p.2 := by decide

/-- R56, R57: an LDF that is performed on an empty word traps EMPTY to the slot's handler. -/
theorem test_ldf_empty_handler : let s := (handled (boxed (xs two [(1, 0x1000)]))).onCore 0 fun k => { k with emptyWords := [0x1000 / 8] }
    let t := after (.performLoad (.slot 0 0) 1) (after (.ldf 3 1 0 0 0) s)
    t.me.ctl.pc = 0x400200 ∧ t.me.trap.uh = true := by decide

/-- A word of zeros raises ILLEGAL (R66). -/
theorem test_illegal_parks : (after (.illegalInstruction 0) two).me.trap.cause.toNat % 2 ^ 8 = Cause.illegal
    ∧ (after (.illegalInstruction 0) two).me.trap.epc = 0x400000 := by decide

/-- R18's worked case: role 2 of stages of 4, 8 and 1 roles names the next stage's rank 2, role 6. -/
theorem test_rslv_example : let s := xs { two with groups := two.groups.map fun (p : Nat × Group) => (p.1, { p.2 with
      cores := upFrom 0 13, stages := List.replicate 4 0 ++ List.replicate 8 1 ++ [2], nstages := 3 }) } [(4, 0x6002)]
    let s := s.onCore 0 fun k => { k with binding := some ⟨1, 2, 0, 2, 4, 13, 3, 1, false, false, true⟩ }
    (after (.rslv 3 4 0) s).me.x 3 = 6 := by decide

/-- The example of R219: a copy of 1,300 bytes counts 512, 512 and 276. -/
theorem test_granules_example : let j := { job0 with
      qa := ⟨0, 1, false, false, false, 0, 0, [[⟨0, 1300, 0, 0⟩]]⟩
      da := descOf 0x1000 [0x2000, toWord (0x01000000 * 2 ^ 32 + 1 * 2 ^ 4 + 1), 1300, 0, 0, 0, 0, 0] }
    (upFrom 0 j.granules).map j.granuleCount = [512, 512, 276] := by decide

/-- R99: Draw by its formula, at zero and at KEY 1, CTR 2, lane 3. -/
theorem test_draw : draw 0 0 0 = 0 ∧ draw 1 2 3 = 3134411731 := by decide

/-! ### Words that the spec prints beside their text -/

theorem test_printed_scalar : reads [
    (0x10A57FFF, .addi 5 5 0 0x7FFF), (0x408BFFFF, .bNez 5 0x1FFFF), (0x04C62800, .add 6 6 5 0 0), (0x10000000, .addi 0 0 0 0),
    (0x300001AA, .repf 0 3 1 1 1), (0x19600080, .ori 11 0 0 0x80), (0x2D6B0031, .cati 11 11 0 0x31), (0x0C0B2811, .crw 11 5 0),
    (0x0CE03810, .crr 7 7), (0x05074807, .mkca 8 7 9 0 0), (0x09ADA80B, .remu 13 13 21 0 0), (0x29690030, .slli 11 9 0 48),
    (0x29891010, .srli 12 9 0 16), (0x21270010, .slti 9 7 0 16), (0x14E70FFF, .andi 7 7 0 0xFFF), (0x47FFFFE6, .j 0x3FFFFE6),
    (0x0C050020, .empw 5 0), (0x0E250022, .few 17 5 0), (0x410FFFFF, .bGez 7 0x1FFFF), (0x4054001B, .bEqz 10 0x1B)] = true := by decide

theorem test_printed_memory : reads [
    (0x78E60C00, .ldf 7 6 0 0 0), (0x64E60C01, .sts 7 6 0 0 3 1), (0x60A60802, .lds 5 6 0 0 2 2), (0x75241407, .st 9 4 0 0 5 7),
    (0x71442C02, .ld 10 4 0 1 3 2), (0x7CA73012, .aadd 5 7 6 0 0 0 1), (0x7C07305B, .redminp 7 6 0 0 0), (0x7C830082, .fenceRel 4 3),
    (0x7C820082, .fenceRel 4 2), (0x7C210082, .fenceRel 1 1), (0x60A21000, .lds 5 2 0 0 4 0), (0x64701000, .sts 3 16 0 0 4 0),
    (0x76300C00, .st 17 16 0 0 3 0), (0x60E90C10, .lds 7 9 0 0 3 16), (0x90853084, .vgatherG 4 5 6 0 2)] = true := by decide

theorem test_printed_vector : reads [
    (0x8C600085, .viota 3 0 2), (0x8C450081, .vsplat 2 5 0 2), (0x80231086, .vmul 1 3 2 0 2), (0x8CC10098, .vredadd 6 1 0 2),
    (0x84211080, .vfadd 1 1 2 0 2 0), (0x84C53A98, .vfma 6 5 7 2 2 0), (0x88210000, .vcvt 1 1 0 0 0), (0x8E480298, .vredadd 18 8 2 2),
    (0x8C58000C, .pmovx 2 24), (0x8C0D0030, .fmtw 0 13), (0x8C2E0030, .fmtw 1 14), (0x980C0000, .tshape 0 12 0),
    (0x98013803, .twrow 0 1 7 0 0), (0x98603806, .trdcol 3 0 7 0), (0x98610004, .trdrow 3 1 0 0), (0x98E00008, .tstat 7 0),
    (0x98000001, .trel 0)] = true := by decide

theorem test_printed_tasks : reads [
    (0x50000000, .yield), (0x50000001, .retire), (0x50000002, .done), (0x50000003, .uret), (0x51095004, .send 8 9 10 0 0),
    (0x500A0005, .spawn 10 0 0 0), (0x50050009, .pumpq 5 0), (0xC0000005, .syscall 5), (0xC0100000, .brk 0), (0xC0229800, .resume 5 6 0),
    (0xC0329800, .abort 5 6)] = true := by decide

theorem test_printed_regions : reads [
    (0xA0401005, .qall 1 5), (0xA0840D08, .qmkb 2 1 8), (0xA0C80405, .qdil 3 2 0 5), (0xA10C8200, .qsub 4 3 2 0), (0xA0100A06, .qcnt 4 6),
    (0xA040030E, .qxlt 1 0 0 14), (0xA10C8000, .qand 4 3 2 0), (0xB0012230, .rack 2 4 8 1 1 0), (0xB0012220, .rack 2 4 8 1 0 0),
    (0xB0089800, .rackT 1 3 0 0 0 0), (0xB0109B20, .rackm 1 3 12 1 0 0), (0xB01B3D20, .rackzC 6 7 20), (0xB0314C00, .waitc 5 6),
    (0xB0390000, .waitr 2), (0xB0500000, .drainM)] = true := by decide

theorem test_printed_units : reads [
    (0xB1014000, .lease 5), (0xB1118000, .ploadw 6), (0xB119C000, .pstream 7), (0xB1220000, .pdrain 8), (0xB12A8C00, .dleave 10 1 1),
    (0xB1324000, .pstatState 9), (0xB1080000, .unlease), (0xB2014000, .trcfg 5), (0xB2098000, .trbin 3), (0xB2118000, .trupd 3),
    (0xB21A3000, .trpairs 4 12), (0xB2224000, .trstatState 9), (0xB2280000, .trrel), (0xB3014000, .caskrec 5), (0xB3098000, .caskend 6),
    (0xB311D000, .decant 7 8), (0xB31A4000, .caskdrop 9), (0xB3228000, .cstatTape 10 0)] = true := by decide

end Sys2Proof.Tests
end

section
/-! Proofs about the scalar words: what completing and trapping an instruction change, the values of Tables 5-4 to 5-6, and
the statement `ScalarResults`. -/

namespace Sys2Proof.Machine

open Sys2Proof.Claims

/-! ### An instruction that completes -/

/-- A completed instruction changes the issuing context alone. -/
theorem onlyMine_finish (s : State) (f : Ctx → Ctx) : OnlyMine s (s.finish f) (f s.me).advance := by
  obtain ⟨hme, hothers, -⟩ := s.finish_spec f
  exact ⟨hme, hothers, rfl, s.readLoc_onCtx _ _⟩

theorem passed_finish (s : State) : Passed s (s.finish id) :=
  onlyMine_finish s id

/-- A write of an X register fills no slot's wait while the slot runs. -/
theorem Ctx.setX_ctl_running {c : Ctx} (h : c.ctl.status = .running) (d : BitVec 5) (v : Word) :
    (c.setX d v).ctl = c.ctl := by
  unfold Ctx.setX
  split
  · rfl
  · exact Control.filled_running _ _ h

theorem sameButX_setX_advance {c : Ctx} {d : BitVec 5} (h : c.isEmpty (.x d) = false) (v : Word) :
    SameButX c (c.setX d v).advance := by
  refine ⟨?regs, ?others, fun r => ?empty⟩
  case regs => unfold Ctx.setX; split <;> rfl
  case others => unfold Ctx.setX; split <;> rfl
  case empty =>
    change (c.setX d v).isEmpty r = c.isEmpty r
    rw [Ctx.isEmpty_setX]
    by_cases hr : r = .x d
    · simp [hr, h]
    · simp [hr]

/-- Writing a full X register of a running agent is `WroteX`. -/
theorem wroteX_writeX {s : State} {d : BitVec 5} (hrun : Running s) (hd : s.me.isEmpty (.x d) = false) (v : Word) :
    WroteX s (s.writeX d v) d v :=
  ⟨(s.me.setX d v).advance, onlyMine_finish s (·.setX d v), sameButX_setX_advance hd v,
    congrArg Control.advance (Ctx.setX_ctl_running hrun.1 d v), fun n => s.me.x_setX d n v⟩

/-! ### The checks of the scalar words (R70) -/

/-- A word that every kind of core executes. -/
theorem Needs.coreOk_any {n : Needs} (small : n.small = true) (cellarer : n.cellarer = true) (tsc : n.tsc = true)
    (a : Agent) : n.coreOk a = true := by
  cases a <;> simp [Needs.coreOk, small, cellarer, tsc]

/-- A word that may stand in a frame and in a delay slot may stand anywhere. -/
theorem Needs.placeOk_any {n : Needs} (rep : n.rep = true) (delay : n.delay = true) (k : Control) : n.placeOk k = true := by
  simp [Needs.placeOk, rep, delay]

/-- An unprivileged word whose registers are ready has its effect where it may stand. -/
theorem issue_ready {s : State} {n : Needs} (h : Ready s n.names)
    (hplace : (n.coreOk s.cur && n.placeOk s.me.ctl && n.legal) = true) (hpriv : n.priv = false) (f : State → State) :
    s.issue n f = f s := by
  obtain ⟨⟨_, howed⟩, hregs⟩ := h
  exact s.issue_go n f howed (n.verdict_go _ _ howed hplace (.inl hpriv) hregs)

theorem issue_opAB {s : State} {d a b : BitVec 5} (h : Ready s [.x a, .x b, .x d]) (k m : BitVec 1) (f : State → State) :
    s.issue (opAB d a b k m) f = f s :=
  issue_ready h (by rw [Needs.coreOk_any rfl rfl rfl, Needs.placeOk_any rfl rfl]; rfl) rfl f

theorem issue_opAOnly {s : State} {d a : BitVec 5} (h : Ready s [.x a, .x d]) (k : BitVec 1) (f : State → State) :
    s.issue (opAOnly d a k) f = f s :=
  issue_ready h (by rw [Needs.coreOk_any rfl rfl rfl, Needs.placeOk_any rfl rfl]; rfl) rfl f

/-- A word with two sources writes its function of them. -/
theorem wroteX_of_binary {s : State} {d a b : BitVec 5} {k m : BitVec 1} (h : Ready s [.x a, .x b, .x d]) {i : Instr}
    {f : Word → Word → Word} {v : Word} (hexec : exec i s = .next (s.binary d a b k m f))
    (hv : f (s.me.x a) (s.me.x b) = v) : ∃ t, exec i s = .next t ∧ WroteX s t d v := by
  refine ⟨_, hexec, ?_⟩
  rw [State.binary, issue_opAB h, hv]
  exact wroteX_writeX h.1 (h.2 (.x d) (by simp)).1 v

/-- A word with one source writes its function of it. -/
theorem wroteX_of_unary {s : State} {d a : BitVec 5} {k : BitVec 1} (h : Ready s [.x a, .x d]) {i : Instr}
    {f : Word → Word} {v : Word} (hexec : exec i s = .next (s.unary d a k f)) (hv : f (s.me.x a) = v) :
    ∃ t, exec i s = .next t ∧ WroteX s t d v := by
  refine ⟨_, hexec, ?_⟩
  rw [State.unary, issue_opAOnly h, hv]
  exact wroteX_writeX h.1 (h.2 (.x d) (by simp)).1 v

/-- A conditional move writes X[a], or passes. -/
theorem select_wroteX_or_passed {s : State} {d a b : BitVec 5} (h : Ready s [.x a, .x b, .x d]) (k m : BitVec 1)
    (cond : Word → Bool) :
    if cond (s.me.x b) then WroteX s (s.select d a b k m cond) d (s.me.x a) else Passed s (s.select d a b k m cond) := by
  rw [State.select, issue_opAB h]
  split
  · exact wroteX_writeX h.1 (h.2 (.x d) (by simp)).1 _
  · exact passed_finish s

/-! ### An instruction that traps (R348, R359) -/

/-- The record that a slot sends is that of its trap registers. -/
theorem slotRecord_eq (s : State) (core n : Nat) :
    slotRecord s core n = recordOf s core n (s.ctx (.slot core n)).trap := by
  have hcause : wbits (s.ctx (.slot core n)).trap.cause 8 0 = (s.ctx (.slot core n)).trap.cause.toNat % 2 ^ 9 := by
    simp [wbits, bits]
  exact congrArg (fun cause => { slotRecord s core n with cause := toWord cause }) hcause

/-- The cluster of a slot that parks: its tape paused, its record pending (R322, R352). -/
theorem State.trapAt_slot_ownCluster (s : State) (core n cause : Nat) (faddr prog : Word)
    (h : (s.ctx (.slot core n)).takesEmpty cause = false) :
    (s.trapAt (.slot core n) cause faddr prog).cluster (clusterOf core)
      = { (s.cluster (clusterOf core)).pauseTape (.slot core n) with
          pending := (s.cluster (clusterOf core)).pending ++ [⟨recordOf s core n
            ((s.ctx (.slot core n)).recordTrap (s.ctx (.slot core n)).sp.pl cause faddr prog).trap, s.now, core, false⟩] } := by
  simp only [State.trapAt, h, Bool.false_eq_true, if_false, State.sendRecord, slotRecord_eq]
  simp [Cluster.pauseTape, recordOf, Ctx.park]

/-- The context that a trap of a servicer leaves (R359). -/
theorem State.trapAt_servicer_ctx (s : State) (a : Agent) (cause : Nat) (faddr prog : Word)
    (h : ∀ core n, a ≠ .slot core n) :
    (s.trapAt a cause faddr prog).ctx a
      = if wbits (s.ctx a).sp.kstat 0 0 = 1 ∧ wbits (s.ctx a).sp.kstat 2 2 = 1 then
          { s.ctx a with ctl := { (s.ctx a).ctl with status := .stopped } }
        else
          let c := (s.ctx a).recordTrap ((s.ctx a).supervisor a) cause faddr 0
          { c with
            sp := { c.sp with kstat := kstatEntry c.sp.kstat }
            ctl := { c.ctl with pc := BitVec.ofNat 56 (wbits c.sp.ktvec 55 2 * 4), redirect := none, frame := none } } := by
  cases a with
  | slot core n => exact absurd rfl (h core n)
  | cel k => simp [State.trapAt]
  | tsc k => simp [State.trapAt]

/-- One bit of a word. -/
theorem wbits_self_eq_one_iff (w : Word) (i : Nat) : wbits w i i = 1 ↔ w.getLsbD i = true := by
  simp [wbits, bits, BitVec.getLsbD, Nat.testBit_eq_decide_div_mod_eq]

/-- The context as a trap with this cause and C.FADDR takes it: the frame in flight has ended where the trap ends it (R83). -/
def Ctx.frameEnded (c : Ctx) (cause : Nat) (faddr : Word) : Ctx :=
  { c with ctl := { c.ctl with frame := if endsFrame cause faddr then none else c.ctl.frame } }

theorem Ctx.supervisor_frameEnded (c : Ctx) (cause : Nat) (faddr : Word) (a : Agent) :
    (c.frameEnded cause faddr).supervisor a = c.supervisor a := by
  cases a <;> rfl

/-- The trap registers that the model records are those of R348. -/
theorem Ctx.recordTrap_frameEnded_trap (c : Ctx) (pl : Bool) (cause : Nat) (faddr prog : Word) :
    ((c.frameEnded cause faddr).recordTrap pl cause faddr prog).trap = trapRegs c pl cause faddr prog := by
  simp only [Ctx.recordTrap, Ctx.frameEnded, trapRegs]
  split <;> rfl

/-- `u` is `s` as a trap with this cause and C.FADDR finds it: the frame that the trap ends has ended, and nothing else is
changed. -/
structure BeforeTrap (s u : State) (cause : Nat) (faddr : Word) : Prop where
  me : u.ctx s.cur = s.me.frameEnded cause faddr
  others : ∀ b, b ≠ s.cur → u.ctx b = s.ctx b
  frame : { u with ctxs := s.ctxs } = s

namespace BeforeTrap

variable {s u : State} {cause : Nat} {faddr : Word}

theorem cluster (h : BeforeTrap s u cause faddr) (k : Nat) : u.cluster k = s.cluster k :=
  (congrArg (fun v : State => v.cluster k) h.frame :)

theorem recordOf_eq (h : BeforeTrap s u cause faddr) (core n : Nat) (r : TrapRegs) :
    recordOf u core n r = recordOf s core n r :=
  (congrArg (fun v : State => recordOf v core n r) h.frame :)

/-- The slot is PARKED by its trap. -/
theorem parkedSlot_trapAt (h : BeforeTrap s u cause faddr) {core n : Nat} (hcur : s.cur = .slot core n)
    (he : s.me.takesEmpty cause = false) (prog : Word) :
    ParkedSlot s (u.trapAt s.cur cause faddr prog) core n cause faddr prog := by
  have hme : u.ctx (.slot core n) = s.me.frameEnded cause faddr := hcur ▸ h.me
  have he' : (u.ctx (.slot core n)).takesEmpty cause = false := by rw [hme]; exact he
  have hctx := u.trapAt_slot_ctx core n cause faddr prog
  simp only [he', Bool.false_eq_true, if_false] at hctx
  rw [hme] at hctx
  unfold ParkedSlot
  rw [hcur]
  refine ⟨?trap, ?status, ?rest, ?others, ?frame, fun k hk => ?clusters, ?own⟩
  case trap => rw [hctx]; exact Ctx.recordTrap_frameEnded_trap ..
  case status => rw [hctx]; rfl
  case rest => rw [hctx]; rfl
  case others =>
    intro b hb
    rw [u.trapAt_slot_others _ _ _ _ _ _ hb, h.others b (hcur ▸ hb)]
  case frame =>
    have hclusters : u.clusters = s.clusters := (congrArg State.clusters h.frame :)
    have hu := u.trapAt_slot_frame core n cause faddr prog
    rw [hclusters] at hu
    exact (congrArg (fun v : State => { v with ctxs := s.ctxs }) hu :).trans h.frame
  case clusters => rw [u.trapAt_slot_cluster _ _ _ _ _ _ hk, h.cluster]
  case own =>
    have hnow : u.now = s.now := (congrArg State.now h.frame :)
    rw [u.trapAt_slot_ownCluster _ _ _ _ _ he', hme, Ctx.recordTrap_frameEnded_trap, h.cluster, h.recordOf_eq, hnow]
    rfl

/-- The servicer enters C.KTVEC at its trap, or stops. -/
theorem trappedServicer_trapAt (h : BeforeTrap s u cause faddr) (hcur : ∀ core n, s.cur ≠ .slot core n) (prog : Word) :
    TrappedServicer s (u.trapAt s.cur cause faddr prog) cause faddr := by
  obtain ⟨hframe, hothers⟩ := u.trapAt_servicer_frame s.cur cause faddr prog hcur
  have hctx := u.trapAt_servicer_ctx s.cur cause faddr prog hcur
  have hframe' : { u.trapAt s.cur cause faddr prog with ctxs := s.ctxs } = s :=
    (congrArg (fun v : State => { v with ctxs := s.ctxs }) hframe :).trans h.frame
  have honly : OnlyMine s (u.trapAt s.cur cause faddr prog) ((u.trapAt s.cur cause faddr prog).ctx s.cur) :=
    ⟨rfl, fun b hb => (hothers b hb).trans (h.others b hb),
      (congrArg (fun v : State => { v with nextId := s.nextId }) hframe' :), fun p => (congrArg (fun v : State => v.readLoc p) hframe' :)⟩
  simp only [h.me, wbits_self_eq_one_iff] at hctx
  unfold TrappedServicer
  by_cases hnest : s.me.sp.kstat.getLsbD 0 ∧ s.me.sp.kstat.getLsbD 2
  · replace hctx := hctx.trans (if_pos hnest)
    rw [if_pos hnest]
    rwa [hctx] at honly
  · replace hctx := hctx.trans (if_neg hnest)
    rw [if_neg hnest]
    refine ⟨_, honly, ?regs, ?sp, ?trap, ?ctl⟩
    case regs => rw [hctx]; rfl
    case sp => rw [hctx]; rfl
    case trap => rw [hctx, Ctx.supervisor_frameEnded]; exact Ctx.recordTrap_frameEnded_trap ..
    case ctl => rw [hctx]; rfl

/-- Whatever the agent, its trap is the one that R348 or R359 gives. -/
theorem trapped_trapAt (h : BeforeTrap s u cause faddr) (hcause : cause ≠ Cause.empty) :
    Trapped s (u.trapAt s.cur cause faddr (progOf s.me)) cause faddr := by
  unfold Trapped TrappedWith
  split
  case h_1 core n hcur => exact h.parkedSlot_trapAt hcur (by simp [Ctx.takesEmpty, hcause]) _
  case h_2 hcur => exact h.trappedServicer_trapAt hcur _

end BeforeTrap

/-- The ILLEGAL of a word of an allocated function ends the frame first; that of another word finds the state as it is (R83). -/
theorem State.illegal_eq_trapAt (s : State) (w : Word) :
    ∃ u, BeforeTrap s u Cause.illegal w ∧ s.illegal s.cur w = u.trapAt s.cur Cause.illegal w (progOf s.me) := by
  unfold State.illegal
  split
  case isTrue hfn =>
    have hends : endsFrame Cause.illegal w = true := by simp [endsFrame, Cause.illegal, hfn]
    refine ⟨s.onCtx s.cur fun c => { c with ctl := { c.ctl with frame := none } },
      ⟨?_, fun b hb => s.ctx_onCtx_ne _ _ _ hb, rfl⟩, ?_⟩
    · rw [State.ctx_onCtx_self, Ctx.frameEnded, hends]; rfl
    · rw [State.trap, State.ctx_onCtx_self]; rfl
  case isFalse hfn =>
    have hends : endsFrame Cause.illegal w = false := by simp [endsFrame, hfn]
    refine ⟨s, ⟨?_, fun _ _ => rfl, rfl⟩, rfl⟩
    rw [Ctx.frameEnded, hends]; rfl

/-- Every ILLEGAL is a trap of R348 or R359. -/
theorem trapped_illegal (s : State) (w : Word) : Trapped s (s.illegal s.cur w) Cause.illegal w := by
  obtain ⟨u, hu, heq⟩ := s.illegal_eq_trapAt w
  rw [heq]
  exact hu.trapped_trapAt (by decide)

/-! ### HINT (R75) -/

/-- Outside a frame HINT passes its checks: it names no register. -/
theorem issue_hint_noFrame {s : State} (hrun : Running s) (hframe : NoFrame s) (f : State → State) :
    s.issue { cellarer := true } f = f s := by
  refine issue_ready ⟨hrun, by simp [Needs.names]⟩ ?_ rfl f
  have hframe : s.me.ctl.frame = none := hframe
  rw [Needs.coreOk_any rfl rfl rfl]
  simp [Needs.placeOk, hframe]

/-- In a frame HINT is refused as a word that may not stand there (R83). -/
theorem issue_hint_inFrame {s : State} (hrun : Running s) (hframe : ¬ NoFrame s) (f : State → State) :
    s.issue { cellarer := true } f = s.illegal s.cur (s.me.ctl.iword.setWidth 64) := by
  obtain ⟨_, howed⟩ := hrun
  have hframe : s.me.ctl.frame ≠ none := hframe
  have hv : Needs.verdict { cellarer := true } s.cur s.me = .trap Cause.illegal (s.me.ctl.iword.setWidth 64) := by
    rw [Needs.verdict_of_owed _ _ _ howed]
    simp [Needs.checks, Needs.placeOk, hframe]
  simp [State.issue, hv]

/-! ### The values of Tables 5-4 to 5-6 -/

/-- A constant shift left is a product. -/
theorem shiftLeft_eq_ofNat_mul (y : Word) (n : Nat) : y <<< n = BitVec.ofNat 64 (2 ^ n) * y := by
  apply BitVec.eq_of_toNat_eq
  simp [Nat.shiftLeft_eq, Nat.mul_comm]

theorem sextW_add (x y : Word) : sextW (x + y) = w32 (lo32 x + lo32 y) := by
  rw [sextW_eq, BitVec.setWidth_add _ _ (by decide)]; rfl

theorem sextW_sub (x y : Word) : sextW (x - y) = w32 (lo32 x - lo32 y) := by
  rw [sextW_eq, BitVec.sub_eq_add_neg, BitVec.setWidth_add _ _ (by decide), BitVec.setWidth_neg_of_le (by decide),
    ← BitVec.sub_eq_add_neg]; rfl

theorem sextW_shiftLeft (x : Word) (n : Nat) : sextW (x <<< n) = w32 (lo32 x <<< n) := by
  rw [sextW_eq, BitVec.setWidth_shiftLeft_of_le (by decide)]; rfl

theorem toWord_mkca (x y : Word) : toWord (wbits x 11 0 * 2 ^ 18 + wbits y 17 0)
    = BitVec.ofNat 64 (x.toNat % 2 ^ 12 * 2 ^ 18 + y.toNat % 2 ^ 18) := by
  simp [toWord, wbits, bits]

/-- A shift amount of six bits is below 64. -/
theorem rotr_shamt (x : Word) (n : BitVec 6) : rotr x n.toNat = x.rotateRight n.toNat := by
  rw [rotr_eq, Nat.mod_eq_of_lt n.isLt]

theorem boolWord_ne (x y : Word) : boolWord (decide (x ≠ y)) = flag (x != y) := by
  simp [boolWord, flag]

theorem boolWord_slt (x y : Word) : boolWord (x.slt y) = flag (decide (x.toInt < y.toInt)) := by
  rw [BitVec.slt_eq_decide]; rfl

theorem boolWord_slt_sext15 (x : Word) (i : BitVec 15) : boolWord (x.slt (sext15 i)) = flag (decide (x.toInt < i.toInt)) := by
  rw [boolWord_slt, sext15, BitVec.toInt_signExtend_of_le (by decide)]

theorem boolWord_ult (x y : Word) : boolWord (x.ult y) = flag (decide (x.toNat < y.toNat)) := by
  rw [BitVec.ult_eq_decide]; rfl

theorem boolWord_not_slt (x y : Word) : boolWord (!x.slt y) = flag (decide (y.toInt ≤ x.toInt)) := by
  simp [BitVec.slt_eq_decide, boolWord, flag]

theorem boolWord_not_ult (x y : Word) : boolWord (!x.ult y) = flag (decide (y.toNat ≤ x.toNat)) := by
  simp [BitVec.ult_eq_decide, boolWord, flag]

/-- A choice by `<` or by `≤`: where the two tests differ the words are equal, and so are the choices. -/
theorem ite_slt_eq_ite_le {x y u v : Word} (h : x = y → u = v) :
    (if x.slt y then u else v) = if x.toInt ≤ y.toInt then u else v := by
  rcases lt_trichotomy x.toInt y.toInt with hlt | heq | hgt
  · simp [BitVec.slt_eq_decide, hlt, hlt.le]
  · simp [h (BitVec.eq_of_toInt_eq heq)]
  · simp [BitVec.slt_eq_decide, hgt.not_ge, hgt.not_gt]

theorem ite_ult_eq_ite_le {x y u v : Word} (h : x = y → u = v) :
    (if x.ult y then u else v) = if x.toNat ≤ y.toNat then u else v := by
  rcases lt_trichotomy x.toNat y.toNat with hlt | heq | hgt
  · simp [BitVec.ult_eq_decide, hlt, hlt.le]
  · simp [h (BitVec.eq_of_toNat_eq heq)]
  · simp [BitVec.ult_eq_decide, hgt.not_ge, hgt.not_gt]

theorem mul_eq_ofInt (x y : Word) : x * y = BitVec.ofInt 64 (x.toInt * y.toInt) := by
  rw [BitVec.ofInt_mul, BitVec.ofInt_toInt, BitVec.ofInt_toInt]

theorem quotient_unsigned (x y : Word) : quotient false x y = if y = 0 then BitVec.allOnes 64 else x / y := by
  rw [BitVec.udiv_def]; rfl

theorem remainder_unsigned (x y : Word) : remainder false x y = if y = 0 then x else x % y := by
  rw [BitVec.umod_def]; rfl

/-- A number of bytes, bit by bit (R4). -/
theorem testBit_fromBytes (bs : List Byte) (i : Nat) :
    (fromBytes bs).testBit i = (bs.getD (i / 8) 0).getLsbD (i % 8) := by
  induction bs generalizing i with
  | nil => simp [fromBytes]
  | cons b bs ih =>
    have hsplit : fromBytes (b :: bs) = 2 ^ 8 * fromBytes bs + b.toNat := by simp only [fromBytes]; omega
    rw [hsplit, Nat.testBit_two_pow_mul_add _ b.isLt]
    split
    case isTrue hi => rw [Nat.div_eq_of_lt hi, Nat.mod_eq_of_lt hi]; rfl
    case isFalse hi =>
      have hdiv : i / 8 = (i - 8) / 8 + 1 := by omega
      have hmod : i % 8 = (i - 8) % 8 := by omega
      rw [ih, hdiv, hmod, List.getD_cons_succ]

/-- A byte of a word, bit by bit. -/
theorem getLsbD_byteAt (x : Word) (k i : Nat) : (byteAt x k).getLsbD i = (decide (i < 8) && x.getLsbD (8 * k + i)) := by
  have hmask : (0xFF#64).getLsbD i = decide (i < 8) := by
    rw [show (0xFF#64) = (BitVec.allOnes 8).setWidth 64 from rfl, BitVec.getLsbD_setWidth, BitVec.getLsbD_allOnes]
    simp; omega
  rw [byteAt, BitVec.getLsbD_and, BitVec.getLsbD_ushiftRight, Bool.and_comm]
  exact congrArg (· && _) hmask

/-- The bytes of a number, one by one (R4). -/
theorem getD_toBytes (n v k : Nat) (hk : k < n) : (toBytes n v).getD k 0 = BitVec.ofNat 8 (v / 256 ^ k) := by
  induction n generalizing v k with
  | zero => omega
  | succ n ih =>
    cases k with
    | zero => simp [toBytes]
    | succ k => rw [toBytes, List.getD_cons_succ, ih _ _ (by omega), Nat.div_div_eq_div_mul, Nat.pow_succ']

theorem length_toBytes (n v : Nat) : (toBytes n v).length = n := by
  induction n generalizing v with
  | zero => rfl
  | succ n ih => simp [toBytes, ih]

/-- The bytes of a word in reverse order, bit by bit. -/
theorem getLsbD_getD_reverse_wordToBytes (x : Word) {q r : Nat} (hq : q < 8) (hr : r < 8) :
    ((wordToBytes x).reverse.getD q 0).getLsbD r = x.getLsbD (8 * (7 - q) + r) := by
  have hlen : (wordToBytes x).length = 8 := length_toBytes 8 _
  have hrev : (wordToBytes x).reverse.getD q 0 = (wordToBytes x).getD (7 - q) 0 := by
    rw [List.getD_eq_getElem?_getD, List.getElem?_reverse (by omega), hlen, List.getD_eq_getElem?_getD]
  rw [hrev, wordToBytes, getD_toBytes _ _ _ (by omega), BitVec.getLsbD_ofNat,
    show 256 = 2 ^ 8 from rfl, ← Nat.pow_mul, Nat.testBit_div_two_pow, BitVec.testBit_toNat]
  simp [hr, Nat.add_comm]

/-- The word of the bytes in reverse order, byte by byte (Table 5-5). -/
theorem fromBytes_reverse_eq (x : Word) : toWord (fromBytes (wordToBytes x).reverse)
    = byteAt x 0 <<< 56 ||| byteAt x 1 <<< 48 ||| byteAt x 2 <<< 40 ||| byteAt x 3 <<< 32
      ||| byteAt x 4 <<< 24 ||| byteAt x 5 <<< 16 ||| byteAt x 6 <<< 8 ||| byteAt x 7 := by
  apply BitVec.eq_of_getLsbD_eq
  intro i hi
  obtain ⟨q, r, hr, rfl⟩ : ∃ q r, r < 8 ∧ i = 8 * q + r := ⟨i / 8, i % 8, by omega, by omega⟩
  have hq : q < 8 := by omega
  rw [toWord, BitVec.getLsbD_ofNat, testBit_fromBytes, show (8 * q + r) / 8 = q by omega,
    show (8 * q + r) % 8 = r by omega, getLsbD_getD_reverse_wordToBytes x hq hr]
  simp only [BitVec.getLsbD_or, BitVec.getLsbD_shiftLeft, getLsbD_byteAt]
  -- for each byte number, the other seven terms of the disjunction are out of their bits
  interval_cases q <;> grind

/-! ### The statement -/

/-- The words of Tables 5-4 and 5-5 with two sources. -/
theorem arithmeticWrites : ArithmeticWrites := by
  refine ⟨fun s d a b k m h => ?opa, fun s d a b k m h => ?opm⟩
  case opa =>
    simp only [List.forall_mem_cons, List.not_mem_nil, false_implies, implies_true, and_true]
    exact ⟨
      -- ADD to MKCA
      wroteX_of_binary h rfl rfl, wroteX_of_binary h rfl rfl,
      wroteX_of_binary h rfl (sextW_add _ _), wroteX_of_binary h rfl (sextW_sub _ _),
      wroteX_of_binary h rfl (congrArg _ (shiftLeft_eq_ofNat_mul _ 1)),
      wroteX_of_binary h rfl (congrArg _ (shiftLeft_eq_ofNat_mul _ 2)),
      wroteX_of_binary h rfl (congrArg _ (shiftLeft_eq_ofNat_mul _ 3)),
      wroteX_of_binary h rfl (toWord_mkca _ _),
      -- AND to XNOR
      wroteX_of_binary h rfl rfl, wroteX_of_binary h rfl rfl, wroteX_of_binary h rfl rfl,
      wroteX_of_binary h rfl rfl, wroteX_of_binary h rfl rfl, wroteX_of_binary h rfl rfl,
      -- SLL to ROR, and the .W shifts
      wroteX_of_binary h rfl rfl, wroteX_of_binary h rfl rfl, wroteX_of_binary h rfl rfl,
      wroteX_of_binary h rfl (rotr_eq _ _), wroteX_of_binary h rfl (sextW_shiftLeft _ _),
      wroteX_of_binary h rfl (by rw [low32_eq]; rfl), wroteX_of_binary h rfl (by rw [low32_eq]; rfl),
      -- SEQ to SGEU
      wroteX_of_binary h rfl rfl, wroteX_of_binary h rfl (boolWord_ne _ _),
      wroteX_of_binary h rfl (boolWord_slt _ _), wroteX_of_binary h rfl (boolWord_ult _ _),
      wroteX_of_binary h rfl (boolWord_not_slt _ _), wroteX_of_binary h rfl (boolWord_not_ult _ _),
      -- MIN to MAXU
      wroteX_of_binary h rfl (ite_slt_eq_ite_le id), wroteX_of_binary h rfl (ite_slt_eq_ite_le Eq.symm),
      wroteX_of_binary h rfl (ite_ult_eq_ite_le id), wroteX_of_binary h rfl (ite_ult_eq_ite_le Eq.symm)⟩
  case opm =>
    simp only [List.forall_mem_cons, List.not_mem_nil, false_implies, implies_true, and_true]
    exact ⟨
      -- MUL to MUL.W
      wroteX_of_binary h rfl (mul_eq_ofInt _ _), wroteX_of_binary h rfl rfl, wroteX_of_binary h rfl rfl,
      wroteX_of_binary h rfl (by rw [low32_eq, low32_eq]; rfl),
      -- DIV to REMU
      wroteX_of_binary h rfl rfl, wroteX_of_binary h rfl (quotient_unsigned _ _),
      wroteX_of_binary h rfl rfl, wroteX_of_binary h rfl (remainder_unsigned _ _)⟩

/-- The words with one source, the conditional moves, and HINT. -/
theorem immediatesAndMovesWrite : ImmediatesAndMovesWrite := by
  refine ⟨fun s d a k i n h => ?unary, fun s d a b k m h => ⟨?cmovz, ?cmovnz⟩,
    fun s i hrun => ⟨fun hf => ?nop, fun hf => ?illegal⟩⟩
  case unary =>
    simp only [List.forall_mem_cons, List.not_mem_nil, false_implies, implies_true, and_true]
    exact ⟨
      -- ADDI to SLTIU
      wroteX_of_unary h rfl rfl, wroteX_of_unary h rfl rfl, wroteX_of_unary h rfl rfl, wroteX_of_unary h rfl rfl,
      wroteX_of_unary h rfl (boolWord_slt_sext15 _ _), wroteX_of_unary h rfl (boolWord_ult _ _),
      -- SLLI to RORI, and CATI
      wroteX_of_unary h rfl rfl, wroteX_of_unary h rfl rfl, wroteX_of_unary h rfl rfl,
      wroteX_of_unary h rfl (rotr_shamt _ _), wroteX_of_unary h rfl rfl,
      -- CLZ to BSWAP
      wroteX_of_unary h rfl (leadingZeros_eq _), wroteX_of_unary h rfl (trailingZeros_eq _),
      wroteX_of_unary h rfl (onesIn_eq _), wroteX_of_unary h rfl (reverseBits_eq _),
      wroteX_of_unary h rfl (fromBytes_reverse_eq _)⟩
  case cmovz =>
    refine ⟨_, rfl, ?_⟩
    simpa only [decide_eq_true_eq] using select_wroteX_or_passed h k m fun y => decide (y = 0)
  case cmovnz =>
    refine ⟨_, rfl, ?_⟩
    have hsel := select_wroteX_or_passed h k m fun y => decide (y ≠ 0)
    simpa only [decide_eq_true_eq, ite_not] using hsel
  case nop =>
    refine ⟨_, rfl, ?_⟩
    rw [issue_hint_noFrame hrun hf]
    exact passed_finish s
  case illegal =>
    refine ⟨_, rfl, ?_⟩
    rw [issue_hint_inFrame hrun hf]
    exact trapped_illegal s _

/-- Settles O1: `arithmeticWrites` and `immediatesAndMovesWrite`, word by word. -/
theorem scalarResults : Obligations.ScalarResults :=
  ⟨arithmeticWrites, immediatesAndMovesWrite⟩

end Sys2Proof.Machine
end

section
/-! Proofs about the branches and jumps: the flow of control past them, the conditions of Table 3-18, the target of a register
jump, and the statement `BranchAndJumpResults`. -/

namespace Sys2Proof.Machine

open Sys2Proof.Claims

/-! ### The flow of control past a branch (R79) -/

/-- Outside frames and delay slots the step past an instruction is to the next word. -/
theorem Control.advance_straight {k : Control} (hframe : k.frame = none) (hredirect : k.redirect = none) :
    k.advance = { k with pc := k.pc + 4, hold := none, refusal := none, stallOn := none } := by
  simp [Control.advance, hframe, hredirect]

/-- Outside frames and delay slots a branch goes on as `goesTo` says. -/
theorem Ctx.branchTo_straight {c : Ctx} (hframe : c.ctl.frame = none) (hredirect : c.ctl.redirect = none) (target : Addr) :
    c.branchTo target = { c with ctl := goesTo c.ctl target } := by
  rw [Ctx.branchTo, Control.advance_straight hframe hredirect, goesTo]

/-- A change of the issuing context changes nothing else. -/
theorem onlyMine_onCtx (s : State) (f : Ctx → Ctx) : OnlyMine s (s.onCtx s.cur f) (f s.me) :=
  ⟨s.ctx_onCtx_self _ _, fun _ hb => s.ctx_onCtx_ne _ _ _ hb, rfl, s.readLoc_onCtx _ _⟩

/-- A branch of the issuing context gives it another flow of control, and changes nothing else. -/
theorem onlyMine_branchTo {s : State} (hst : Straight s) (target : Ctx → Addr) :
    OnlyMine s (s.onCtx s.cur fun c => c.branchTo (target c)) { s.me with ctl := goesTo s.me.ctl (target s.me) } := by
  have honly := onlyMine_onCtx s fun c => c.branchTo (target c)
  rwa [Ctx.branchTo_straight hst.1 hst.2] at honly

/-- A linking jump writes its link to a full X register beside the flow of control. -/
theorem wroteXAt_link {s : State} {d : BitVec 5} (hrun : Running s) (hst : Straight s) (hd : s.me.isEmpty (.x d) = false)
    (link : Ctx → Word) (target : Ctx → Addr) :
    WroteXAt s (s.onCtx s.cur fun c => (c.setX d (link c)).branchTo (target c)) (goesTo s.me.ctl (target s.me)) d
      (link s.me) := by
  have hctl : (s.me.setX d (link s.me)).ctl = s.me.ctl := Ctx.setX_ctl_running hrun.1 d _
  refine ⟨_, onlyMine_onCtx s _, sameButX_setX_advance hd _, ?flow, fun n => s.me.x_setX d n _⟩
  rw [Ctx.branchTo_straight (by rw [hctl]; exact hst.1) (by rw [hctl]; exact hst.2), hctl]

/-! ### The checks of the branches and jumps (R70, R80, R83) -/

/-- Outside frames and delay slots any word may stand. -/
theorem Needs.placeOk_straight {k : Control} (hframe : k.frame = none) (hredirect : k.redirect = none) (n : Needs) :
    n.placeOk k = true := by
  simp [Needs.placeOk, hframe, hredirect]

theorem issue_jumps {s : State} (hst : Straight s) (srcs : List (RegName × Bool)) (dsts : List RegName)
    (h : Ready s (jumps srcs dsts).names) (f : State → State) : s.issue (jumps srcs dsts) f = f s :=
  issue_ready h (by rw [Needs.coreOk_any rfl rfl rfl, Needs.placeOk_straight hst.1 hst.2]; rfl) rfl f

/-- A word that names no register is ready. -/
theorem ready_nil {s : State} (hrun : Running s) : Ready s [] :=
  ⟨hrun, fun _ hr => absurd hr List.not_mem_nil⟩

/-- The issuing context past a branch with this displacement, taken or not (R79, R116). -/
def State.branched (s : State) (i : BitVec 17) (taken : Bool) : Ctx :=
  { s.me with ctl := goesTo s.me.ctl (if taken then s.me.ctl.pc + 4 * i.signExtend 56 else s.me.ctl.pc + 12) }

/-- A branch goes to its target when its condition holds, else on behind its delay slots. -/
theorem onlyMine_branch {s : State} (hst : Straight s) (srcs : List (RegName × Bool)) (h : Ready s (jumps srcs []).names)
    (i : BitVec 17) (cond : Ctx → Bool) : OnlyMine s (s.branch srcs i cond) (s.branched i (cond s.me)) := by
  rw [State.branch, issue_jumps hst srcs [] h]
  exact onlyMine_branchTo hst fun c => if cond c then branchTarget c.ctl.pc (i.signExtend 56) else c.ctl.pc + 12

/-- A branch that names no source register blocks on nothing. -/
theorem branch_goes {s : State} (hrun : Running s) (hst : Straight s) {b : Instr} {i : BitVec 17} {cond : Ctx → Bool}
    {taken : Bool} (hexec : exec b s = .next (s.branch [] i cond)) (hcond : cond s.me = taken) :
    ∃ t, exec b s = .next t ∧ OnlyMine s t (s.branched i taken) :=
  ⟨_, hexec, hcond ▸ onlyMine_branch hst [] (ready_nil hrun) i cond⟩

/-- A branch on X[a] needs it full and not poisoned. -/
theorem branchX_goes {s : State} (hst : Straight s) {a : BitVec 5} (h : Ready s [.x a]) {b : Instr} {i : BitVec 17}
    {cond : Word → Bool} {taken : Bool} (hexec : exec b s = .next (s.branchX a i cond)) (hcond : cond (s.me.x a) = taken) :
    ∃ t, exec b s = .next t ∧ OnlyMine s t (s.branched i taken) :=
  ⟨_, hexec, hcond ▸ onlyMine_branch hst [srcX0 a] h i fun c => cond (c.x a)⟩

/-! ### The conditions of Table 3-18 -/

theorem decide_ne_zero (x : Word) : decide (x ≠ 0) = (x != 0) := by
  rw [decide_not]; rfl

theorem slt_zero (x : Word) : x.slt 0 = decide (x.toInt < 0) := by
  rw [BitVec.slt_eq_decide]; rfl

theorem not_slt_zero (x : Word) : (!x.slt 0) = decide (0 ≤ x.toInt) := by
  rw [slt_zero, ← decide_not, decide_eq_decide]; exact not_lt

theorem zero_slt (x : Word) : (0 : Word).slt x = decide (0 < x.toInt) := by
  rw [BitVec.slt_eq_decide]; rfl

theorem not_zero_slt (x : Word) : (!(0 : Word).slt x) = decide (x.toInt ≤ 0) := by
  rw [zero_slt, ← decide_not, decide_eq_decide]; exact not_lt

/-! ### The target of a register jump (R118) -/

/-- Bits 1:0 cleared is the multiple of 4 below; so it is modulo 2^56. -/
theorem jumpTarget_eq (x : Word) : jumpTarget x = BitVec.ofNat 56 (x.toNat / 4 * 4) := by
  have hmask : (~~~3 : Addr) = BitVec.allOnes 56 <<< 2 := by decide
  apply BitVec.eq_of_toNat_eq
  rw [jumpTarget, hmask, ← BitVec.shiftLeft_ushiftRight]
  simp only [BitVec.toNat_shiftLeft, BitVec.toNat_ushiftRight, BitVec.toNat_setWidth, BitVec.toNat_ofNat,
    Nat.shiftLeft_eq, Nat.shiftRight_eq_div_pow]
  omega

/-! ### The statement -/

/-- The branches, and J. -/
theorem branchesGo : BranchesGo := by
  refine fun s a p i hrun hst => ⟨?nothing, fun h => ?sources, fun j => ?jump⟩
  case nothing =>
    -- B apart: its condition is a constant, which `simp` would evaluate
    refine List.forall_mem_cons.2 ⟨branch_goes hrun hst rfl rfl, ?_⟩
    simp only [List.forall_mem_cons, List.not_mem_nil, false_implies, implies_true, and_true]
    exact ⟨
      -- B.FULL, B.EMPTY
      branch_goes hrun hst rfl rfl, branch_goes hrun hst rfl rfl,
      -- B.PANY, B.PNONE
      branch_goes hrun hst rfl (decide_ne_zero _), branch_goes hrun hst rfl rfl⟩
  case sources =>
    simp only [List.forall_mem_cons, List.not_mem_nil, false_implies, implies_true, and_true]
    exact ⟨
      -- B.EQZ, B.NEZ
      branchX_goes hst h rfl rfl, branchX_goes hst h rfl (decide_ne_zero _),
      -- B.LTZ, B.GEZ, B.GTZ, B.LEZ
      branchX_goes hst h rfl (slt_zero _), branchX_goes hst h rfl (not_slt_zero _),
      branchX_goes hst h rfl (zero_slt _), branchX_goes hst h rfl (not_zero_slt _),
      -- B.BC, B.BS
      branchX_goes hst h rfl rfl, branchX_goes hst h rfl rfl⟩
  case jump =>
    refine ⟨_, rfl, ?_⟩
    rw [issue_jumps hst [] [] (ready_nil hrun)]
    exact onlyMine_branchTo hst fun c => branchTarget c.ctl.pc (j.signExtend 56)

/-- JL, JR and JLR. -/
theorem jumpsGo : JumpsGo := by
  refine fun s d a k i hrun hst => ⟨fun h => ⟨_, rfl, ?jl⟩, fun h => ⟨_, rfl, ?jr⟩, fun h => ⟨_, rfl, ?jlr⟩⟩
  case jl =>
    rw [issue_jumps hst [] [.x 31] h]
    exact wroteXAt_link hrun hst (h.2 (.x 31) (by simp)).1 (fun c => linkOf c.ctl.pc)
      fun c => branchTarget c.ctl.pc (i.signExtend 56)
  case jr =>
    rw [issue_jumps hst [srcX a k] [] h, ← jumpTarget_eq]
    exact onlyMine_branchTo hst fun c => jumpTarget (c.x a)
  case jlr =>
    rw [issue_jumps hst [srcX a k] [.x d] h, ← jumpTarget_eq]
    exact wroteXAt_link hrun hst (h.2 (.x d) (by simp)).1 (fun c => linkOf c.ctl.pc) fun c => jumpTarget (c.x a)

/-- Settles O2: `branchesGo` and `jumpsGo`, word by word. -/
theorem branchAndJumpResults : Obligations.BranchAndJumpResults :=
  ⟨branchesGo, jumpsGo⟩

end Sys2Proof.Machine
end

section
/-! Proofs about the vector words that write one P or X register: the step onto the vector engine, the lanes of a register, and the
statements `VectorCompareResults` and `VectorReductionResults`. -/

namespace Sys2Proof.Machine

open Sys2Proof.Claims

/-! ### The step onto the vector engine (R12, R141) -/

/-- The issuing slot `n` of `core` has taken its place in the core's vector queue. -/
def State.queuedVec (s : State) (core n : Nat) : State :=
  s.onCore core fun k => { k with vecQueue := k.vecQueue ++ [n] }

/-- A ready V-form word takes its place in a queue with room and completes. -/
theorem State.vec_eq_finish {s : State} {core n : Nat} (hroom : VecRoom s core n) {srcs dsts : List RegName}
    (h : Ready s (srcs ++ dsts)) (f : Ctx → Ctx) : s.vec srcs dsts f = (s.queuedVec core n).finish f := by
  obtain ⟨hcur, hlen⟩ := hroom
  have hnames : (vecNeeds srcs dsts).names = srcs ++ dsts := by simp [Needs.names, vecNeeds, Function.comp_def]
  have hplace : ((vecNeeds srcs dsts).coreOk s.cur && (vecNeeds srcs dsts).placeOk s.me.ctl && (vecNeeds srcs dsts).legal) = true := by
    rw [hcur, Needs.placeOk_any rfl rfl]; rfl
  rw [State.vec, issue_ready (hnames ▸ h) hplace rfl, State.vecEnter]
  simp only [hcur, coreNo, slotNo, if_neg (not_le.2 hlen), State.queuedVec]

theorem core_queuedVec (s : State) (core n m : Nat) : (s.queuedVec core n).core m
    = if m = core then { s.core core with vecQueue := (s.core core).vecQueue ++ [n] } else s.core m := by
  split
  · next hm => rw [hm]; exact s.core_onCore_self _ _
  · next hm => exact s.core_onCore_ne _ _ _ hm

theorem readLoc_queuedVec (s : State) (core n : Nat) (p : Loc) : (s.queuedVec core n).readLoc p = s.readLoc p := by
  refine s.readLoc_congr (s.queuedVec core n) rfl rfl rfl (fun m => ?_) p
  rw [core_queuedVec]
  split
  · next hm => rw [hm]
  · rfl

/-- Such a word changes the issuing context and the engine's queue alone. -/
theorem entered_vec {s : State} {core n : Nat} (hroom : VecRoom s core n) (srcs dsts : List RegName)
    (h : Ready s (srcs ++ dsts)) (f : Ctx → Ctx) : Entered s (s.vec srcs dsts f) core n (f s.me).advance := by
  rw [State.vec_eq_finish hroom h]
  obtain ⟨hme, hothers, -, hbytes⟩ := onlyMine_finish (s.queuedVec core n) f
  exact ⟨⟨hme, hothers⟩, rfl, core_queuedVec s core n, fun p => (hbytes p).trans (readLoc_queuedVec s core n p)⟩

/-- The context that issues after the word is the one that the word left. -/
theorem me_eq_of_entered {s t : State} {core n : Nat} {c : Ctx} (h : Entered s t core n c) : t.me = c := by
  obtain ⟨⟨hme, -⟩, hrest, -, -⟩ := h
  have hcur : t.cur = s.cur := (congrArg State.cur hrest :)
  rw [State.me, hcur, hme]

/-- Writing a P register on the vector engine is `VectorWroteP`. -/
theorem vectorWroteP_setP {s t : State} {core n : Nat} {d : BitVec 3} {v : Word}
    (h : Entered s t core n (s.me.setP d v).advance) : VectorWroteP s t core n d v := by
  refine ⟨_, h, ?regs, ?others, ?flow, fun m => s.me.p_setP d m v⟩ <;> unfold Ctx.setP <;> split <;> rfl

/-- Writing a full X register of a running agent on the vector engine is `VectorWroteX`. -/
theorem vectorWroteX_setX {s t : State} {core n : Nat} {d : BitVec 5} {v : Word} (hrun : Running s)
    (hd : s.me.isEmpty (.x d) = false) (h : Entered s t core n (s.me.setX d v).advance) : VectorWroteX s t core n d v :=
  ⟨_, h, sameButX_setX_advance hd v, congrArg Control.advance (Ctx.setX_ctl_running hrun.1 d v), fun m => s.me.x_setX d m v⟩

/-! ### Lanes (R139) -/

/-- The bytes of an element. -/
theorem widthOf_div (e : BitVec 2) : widthOf e / 8 = 2 ^ e.toNat := by
  simp [widthOf]

/-- Element `i` begins at byte lane i × the bytes of an element. -/
theorem mul_widthOf_div (e : BitVec 2) (i : Nat) : i * widthOf e / 8 = i * 2 ^ e.toNat := by
  rw [← widthOf_div, Nat.mul_div_assoc i (Dvd.intro _ rfl : 8 ∣ widthOf e)]

/-- The elements of a register have 64 byte lanes together. -/
theorem count_mul_bytes (e : BitVec 2) : 512 / widthOf e * 2 ^ e.toNat = 64 := by
  revert e; decide

/-- The model's element is the number that its lane holds. -/
theorem elem_eq_toNat_lane (v : VReg) (w i : Nat) : elem v w i = (lane w v i).toNat := by
  rw [elem, lane, BitVec.extractLsb'_toNat, Nat.shiftRight_eq_div_pow]

/-- The model's two's-complement reading of a lane is the library's. -/
theorem signed_toNat {w : Nat} (x : BitVec w) : signed w x.toNat = x.toInt := by
  rw [BitVec.toInt_eq_toNat_cond, signed, Nat.mod_eq_of_lt x.isLt]
  push_cast
  rfl

/-- A fold over elements is the fold over the list of their lanes, each read by `r`. -/
theorem foldl_elem {α β : Type} {w : Nat} {f : α → Nat → α} {g : α → β → α} {r : BitVec w → β}
    (hf : ∀ acc x, f acc x.toNat = g acc (r x)) (v : VReg) (l : List Nat) (init : α) :
    l.foldl (fun acc i => f acc (elem v w i)) init = (l.map fun i => r (lane w v i)).foldl g init := by
  simp only [List.foldl_map, elem_eq_toNat_lane, hf]

/-! ### The predicate of a relation (R145) -/

/-- Ones added in the `b` byte lanes of element `i`, where the element is related. -/
def addRun (b : Nat) (rel : Nat → Bool) (acc i : Nat) : Nat :=
  if rel i then acc + (2 ^ b - 1) * 2 ^ (i * b) else acc

theorem testBit_addRun (b : Nat) (rel : Nat → Bool) {acc i : Nat} (hacc : acc < 2 ^ (i * b)) (j : Nat) :
    (addRun b rel acc i).testBit j = if j < i * b then acc.testBit j else decide (j < (i + 1) * b) && rel i := by
  by_cases hrel : rel i = true
  · rw [addRun, if_pos hrel, Nat.add_comm, Nat.mul_comm, Nat.testBit_two_pow_mul_add _ hacc]
    split
    · rfl
    · next hj =>
      have hend : j - i * b < b ↔ j < (i + 1) * b := by rw [Nat.succ_mul]; omega
      simp [hrel, hend]
  · rw [addRun, if_neg hrel]
    split
    · rfl
    · next hj =>
      have hle : acc < 2 ^ j := hacc.trans_le (Nat.pow_le_pow_right (by decide) (not_lt.1 hj))
      simp [hrel, Nat.testBit_lt_two_pow hle]

theorem addRun_lt (b : Nat) (rel : Nat → Bool) {acc i : Nat} (hacc : acc < 2 ^ (i * b)) :
    addRun b rel acc i < 2 ^ ((i + 1) * b) := by
  refine Nat.lt_pow_two_of_testBit _ fun j hj => ?_
  have hbegin : i * b ≤ (i + 1) * b := Nat.mul_le_mul_right _ (Nat.le_succ i)
  rw [testBit_addRun b rel hacc, if_neg (by omega), decide_eq_false (by omega), Bool.false_and]

/-- From a number below element `lo` on, the runs of `m` elements say of each byte lane whether its element is related. -/
theorem testBit_foldl_addRun (b : Nat) (rel : Nat → Bool) (m lo acc : Nat) (hacc : acc < 2 ^ (lo * b)) (j : Nat) :
    ((upFrom lo m).foldl (addRun b rel) acc).testBit j
      = if j < lo * b then acc.testBit j else decide (j < (lo + m) * b) && rel (j / b) := by
  induction m generalizing lo acc with
  | zero =>
    split
    · rfl
    · next hj =>
      have hle : acc < 2 ^ j := hacc.trans_le (Nat.pow_le_pow_right (by decide) (not_lt.1 hj))
      simp [upFrom, hj, Nat.testBit_lt_two_pow hle]
  | succ m ih =>
    rw [upFrom, List.foldl_cons, ih (lo + 1) _ (addRun_lt b rel hacc), testBit_addRun b rel hacc]
    have hbegin : lo * b ≤ (lo + 1) * b := Nat.mul_le_mul_right _ (Nat.le_succ lo)
    have hend : (lo + 1) * b ≤ (lo + (m + 1)) * b := Nat.mul_le_mul_right _ (by omega)
    by_cases hlow : j < lo * b
    · rw [if_pos (by omega), if_pos hlow, if_pos hlow]
    · by_cases hrun : j < (lo + 1) * b
      · have hdiv : j / b = lo := Nat.div_eq_of_lt_le (not_lt.1 hlow) hrun
        rw [if_pos hrun, if_neg hlow, if_neg hlow, hdiv, decide_eq_true hrun, decide_eq_true (by omega)]
      · rw [if_neg hrun, if_neg hlow, Nat.add_right_comm, Nat.add_assoc]

/-- The model's predicate of a relation is `Related`, at each element width. -/
theorem related_relPred (e : BitVec 2) (p : Word) (rel : Nat → Bool) :
    Related (widthOf e) p (relPred p (widthOf e) rel) rel := by
  intro j hj
  have hruns : relPred p (widthOf e) rel
      = toWord ((upFrom 0 (512 / widthOf e)).foldl (addRun (2 ^ e.toNat) fun i => active p (widthOf e) i && rel i) 0) := by
    simp only [relPred, mul_widthOf_div, widthOf_div]
    rfl
  rw [hruns, toWord, BitVec.getLsbD_ofNat, testBit_foldl_addRun _ _ _ _ _ (Nat.two_pow_pos _),
    Nat.zero_add, count_mul_bytes, widthOf_div]
  simp [hj]

/-! ### Compares (R145) -/

/-- A word writes the relation beside it of the active lanes of V[a] and V[b] to P[d]. -/
def Compares (s : State) (core n : Nat) (d : BitVec 3) (a b : BitVec 5) (p : BitVec 3) (e : BitVec 2)
    (q : Instr × (BitVec (widthOf e) → BitVec (widthOf e) → Bool)) : Prop :=
  ∃ t v, exec q.1 s = .next t ∧ VectorWroteP s t core n d v ∧
    Related (widthOf e) (s.me.p p) v fun j => q.2 (lane (widthOf e) (s.me.v a) j) (lane (widthOf e) (s.me.v b) j)

section
variable {s : State} {core n : Nat} {d : BitVec 3} {a b : BitVec 5} {p : BitVec 3} {e : BitVec 2} {i : Instr}

/-- A compare word writes its relation of the lanes to P[d]. -/
theorem vcmp_writes (hroom : VecRoom s core n) (h : Ready s [.v a, .v b]) {f : Nat → Nat → Nat → Bool}
    {rel : BitVec (widthOf e) → BitVec (widthOf e) → Bool} (hexec : exec i s = .next (s.vcmp d a b p e f))
    (hrel : ∀ x y, f (widthOf e) x.toNat y.toNat = rel x y) :
    Compares s core n d a b p e (i, rel) := by
  refine ⟨_, _, hexec, vectorWroteP_setP (entered_vec hroom [.v a, .v b] [] h _), ?_⟩
  simp only [elem_eq_toNat_lane, hrel]
  exact related_relPred e _ _

/-- A floating compare is a compare of the numbers that the elements encode. -/
theorem vfcmp_writes (hroom : VecRoom s core n) (h : Ready s [.v a, .v b]) {f : FVal → FVal → Bool}
    {rel : BitVec (widthOf e) → BitVec (widthOf e) → Bool} (hexec : exec i s = .next (s.vfcmp d a b p e f))
    (hrel : ∀ x y, f (decodeF (fpOf e) x.toNat) (decodeF (fpOf e) y.toNat) = rel x y) :
    Compares s core n d a b p e (i, rel) :=
  vcmp_writes hroom h (f := fun _ x y => f (decodeF (fpOf e) x) (decodeF (fpOf e) y)) hexec hrel

end

theorem decide_toNat_eq {w : Nat} (x y : BitVec w) : decide (x.toNat = y.toNat) = (x == y) := by
  rw [beq_eq_decide, decide_eq_decide, BitVec.toNat_inj]

theorem decide_toNat_ne {w : Nat} (x y : BitVec w) : decide (x.toNat ≠ y.toNat) = (x != y) := by
  rw [decide_not, decide_toNat_eq]; rfl

/-- Settles O19, word by word: `vcmp_writes` and `vfcmp_writes` with the relation of each word. -/
theorem vectorCompareResults : Obligations.VectorCompareResults := by
  intro s core n d a b p e hroom h
  refine ⟨?integer, fun _ => ?float⟩
  case integer =>
    change ∀ q ∈ _, Compares s core n d a b p e q
    simp only [List.forall_mem_cons, List.not_mem_nil, false_implies, implies_true, and_true]
    exact ⟨
      -- VCMPEQ, VCMPNE
      vcmp_writes hroom h rfl decide_toNat_eq, vcmp_writes hroom h rfl decide_toNat_ne,
      -- VCMPLT, VCMPLTU
      vcmp_writes hroom h rfl fun x y => by rw [signed_toNat, signed_toNat], vcmp_writes hroom h rfl fun _ _ => rfl,
      -- VCMPLE, VCMPLEU
      vcmp_writes hroom h rfl fun x y => by rw [signed_toNat, signed_toNat], vcmp_writes hroom h rfl fun _ _ => rfl⟩
  case float =>
    change ∀ q ∈ _, Compares s core n d a b p e q
    simp only [List.forall_mem_cons, List.not_mem_nil, false_implies, implies_true, and_true]
    exact ⟨
      -- VFCMPEQ, VFCMPLT
      vfcmp_writes hroom h rfl fun _ _ => by rw [Bool.not_or], vfcmp_writes hroom h rfl fun _ _ => by rw [Bool.not_or],
      -- VFCMPLE, VFCMPUN
      vfcmp_writes hroom h rfl fun _ _ => by rw [Bool.not_or],
      vfcmp_writes hroom h rfl fun _ _ => by rw [Bool.not_and, Bool.not_not, Bool.not_not]⟩

/-! ### Reductions (R152, R153) -/

section
variable {s : State} {core n : Nat} {d a : BitVec 5} {p : BitVec 3} {e : BitVec 2} {i : Instr}

/-- An integer reduction folds the active lanes, each read as an integer by `r`, and writes the result to X[d]. -/
theorem vred_writes (hroom : VecRoom s core n) (h : Ready s [.v a, .x d]) {start : Nat → Int} {f : Nat → Int → Nat → Int}
    {g : Int → Int → Int} {r : BitVec (widthOf e) → Int} {result : Int} (hexec : exec i s = .next (s.vred d a p e start f))
    (hf : ∀ acc x, f (widthOf e) acc x.toNat = g acc (r x))
    (hresult : ((activeElems (s.me.p p) (widthOf e)).map fun j => r (lane (widthOf e) (s.me.v a) j)).foldl g
      (start (widthOf e)) = result) :
    ∃ t, exec i s = .next t ∧ VectorWroteX s t core n d (BitVec.ofInt 64 result) := by
  refine ⟨_, hexec, vectorWroteX_setX h.1 (h.2 (.x d) (by simp)).1 ?_⟩
  rw [← hresult, ← foldl_elem hf]
  exact entered_vec hroom [.v a] [.x d] h _

/-- VFREDMIN and VFREDMAX fold the numbers of the active lanes by R101's choice, from NaN. -/
theorem vfpick_writes (hroom : VecRoom s core n) (h : Ready s [.v a, .x d]) {big : Bool}
    (hexec : exec i s = .next (s.vfpick d a p e big)) :
    ∃ t, exec i s = .next t ∧ VectorWroteX s t core n d (toWord (encodeF (fpOf e)
      (((activeElems (s.me.p p) (widthOf e)).map fun j => decodeF (fpOf e) (lane (widthOf e) (s.me.v a) j).toNat).foldl
        (pickV big) .nan))) := by
  refine ⟨_, hexec, vectorWroteX_setX h.1 (h.2 (.x d) (by simp)).1 ?_⟩
  rw [← foldl_elem (f := fun acc x => pickV big acc (decodeF (fpOf e) x)) fun _ _ => rfl]
  exact entered_vec hroom [.v a] [.x d] h _

end

/-! What the flags and the draws of a word leave as it was (R99, R102). -/

@[simp] theorem Ctx.ctl_orFlags (c : Ctx) (f : Flags) : (c.orFlags f).ctl = c.ctl := rfl
@[simp] theorem Ctx.regs_orFlags (c : Ctx) (f : Flags) : (c.orFlags f).regs = c.regs := rfl
@[simp] theorem Ctx.fstat_orFlags (c : Ctx) (f : Flags) : (c.orFlags f).sp.fstat = c.sp.fstat ||| f.setWidth 64 := rfl

/-- A draw changes C.SEED at most. -/
theorem Ctx.drew_eq (c : Ctx) (mode : RMode) (some_ : Bool) :
    ∃ seed, c.drew mode some_ = { c with sp := { c.sp with seed := seed } } := by
  unfold Ctx.drew
  split
  · exact ⟨_, rfl⟩
  · exact ⟨c.sp.seed, rfl⟩

@[simp] theorem Ctx.ctl_drew (c : Ctx) (mode : RMode) (some_ : Bool) : (c.drew mode some_).ctl = c.ctl := by
  obtain ⟨seed, hdrew⟩ := c.drew_eq mode some_
  rw [hdrew]
@[simp] theorem Ctx.regs_drew (c : Ctx) (mode : RMode) (some_ : Bool) : (c.drew mode some_).regs = c.regs := by
  obtain ⟨seed, hdrew⟩ := c.drew_eq mode some_
  rw [hdrew]
@[simp] theorem Ctx.fstat_drew (c : Ctx) (mode : RMode) (some_ : Bool) : (c.drew mode some_).sp.fstat = c.sp.fstat := by
  obtain ⟨seed, hdrew⟩ := c.drew_eq mode some_
  rw [hdrew]

/-- The X registers of a context are in its register file. -/
theorem Ctx.x_congr {c c' : Ctx} (h : c.regs = c'.regs) (m : BitVec 5) : c.x m = c'.x m := by
  simp only [Ctx.x, h]

/-- Settles O22, word by word: `vred_writes` and `vfpick_writes`, and for VFREDADD the write of X[d] before its flags and draw. -/
theorem vectorReductionResults : Obligations.VectorReductionResults := by
  intro s core n d a p e hroom h
  refine ⟨?integer, fun _ => ?extreme, fun r _ _ => ?sum⟩
  case integer =>
    simp only [List.forall_mem_cons, List.not_mem_nil, false_implies, implies_true, and_true]
    exact ⟨
      -- VREDADD, VREDADDU
      vred_writes hroom h rfl (fun acc x => by rw [signed_toNat]) List.sum_eq_foldl.symm,
      vred_writes hroom h rfl (fun _ _ => rfl) List.sum_eq_foldl.symm,
      -- VREDMIN, VREDMAX
      vred_writes hroom h rfl (fun acc x => by rw [signed_toNat, min_comm, min_def_lt]) rfl,
      vred_writes hroom h rfl (fun acc x => by rw [signed_toNat, max_def_lt]) rfl,
      -- VREDMINU, VREDMAXU
      vred_writes hroom h (r := fun x => (x.toNat : Int)) rfl (fun acc x => by rw [min_comm, min_def_lt]) rfl,
      vred_writes hroom h (r := fun x => (x.toNat : Int)) rfl (fun acc x => by rw [max_def_lt]) rfl⟩
  case extreme =>
    simp only [List.forall_mem_cons, List.not_mem_nil, false_implies, implies_true, and_true]
    -- VFREDMIN, VFREDMAX
    exact ⟨vfpick_writes hroom h rfl, vfpick_writes hroom h rfl⟩
  case sum =>
    refine ⟨_, rfl, ?_⟩
    rw [me_eq_of_entered (entered_vec hroom [.v a] [.x d] h _)]
    simp only [elem_eq_toNat_lane]
    refine ⟨?flow, fun m => ?written, ?flags⟩
    case flow =>
      exact congrArg Control.advance (by simp [Ctx.setX_ctl_running h.1.1])
    case written =>
      rw [← Ctx.x_setX]
      exact Ctx.x_congr (by simp) m
    case flags => simp

end Sys2Proof.Machine
end
